-- ==== Sys2Proof/Word.lean ====
section
/-! DEFINITION. The word types of the Criovoma 840 and the register-name types (spec/01 R10, spec/04 R61). -/

namespace Sys2Proof

/-- One byte of memory. -/
abbrev Byte := BitVec 8

/-- A scalar register, an address while it is computed, the program counter (R10, R47). -/
abbrev Word := BitVec 64

/-- Names x0–x63 (R52). -/
abbrev XReg := BitVec 6

/-- Names v0–v31 (R52). -/
abbrev VReg := BitVec 5

/-- Names k0–k7 (R52). -/
abbrev KReg := BitVec 3

/-- An element-type code (R55). -/
abbrev EType := BitVec 4

end Sys2Proof
end

