-- ==== Sys2Proof/Config.lean ====
section
/-! DEFINITION. What the manual leaves open, as opaque constants: nothing can evaluate one or prove a value of it.
A meaning applies one to the State's counter of free values or to the data it depends on. -/

namespace Sys2Proof.Config

/-- A byte the manual calls unpredictable (R7), by a fresh number. Log entry 6. -/
opaque freeByte : Nat → Byte

/-- A word the manual calls unpredictable or does not state (R7), by a fresh number. Log entry 6. -/
opaque freeWord : Nat → Word

/-- By which entry of a run of 16 that breaks its conditions an access translates (R279), by its address and a fresh number.
Log entry 61. -/
opaque contEntry : Nat → Nat → Nat

/-- Whether an access uses the translation that a TLB holds although the tables have changed (R280), by its address, the pc and a
fresh number. Log entry 61. -/
opaque olderTranslation : Nat → Word → Nat → Bool

/-- How many of the events counted for a structure are still within its window when another one comes (R343), by a fresh number.
Log entry 31. -/
opaque eventsInWindow : Nat → Nat

/-- Which row of HBM (pseudo-channel, bank and row) holds a physical address (R343): the manual gives no map. Log entry 31. -/
opaque hbmRow : Nat → Nat

/-- Which of the 1,024 pseudo-channels holds a physical address (R3, R345): the manual gives no map. Log entry 31. -/
opaque hbmChannel : Nat → Nat

/-- The first byte of the HBM area into which a checkpoint copies the weight banks (R352). Log entry 55. -/
opaque bankArea : Nat

/-- The clock readings a record carries ("time, in ns since boot", R345; last send, R311). Log entry 7. -/
opaque clock : Nat → Word

/-- By how much the throttle level rises or falls at an update (R355 gives the direction only). Log entry 8. -/
opaque throttleStep : Nat → Nat

/-- The SM3 function (R347, R349): the algorithm is a standard the manual names and does not give. Log entry 9. -/
opaque sm3Bytes : List Byte → List Byte

/-- A signature that the holder of the key with this index makes of a message (R347). Log entry 9. -/
opaque sm2Bytes : Nat → List Byte → List Byte

/-- Which other signatures of a message hold (R347): the key's index, the message and the signature. Log entry 9. -/
opaque sm2Other : Nat → List Byte → List Byte → Bool

/-- The SM2 signature of the device identity key over a message (R349, R352). Log entry 9. -/
opaque sm2Sign : List Byte → List Byte

/-- The first `n` bytes, filled up with zeros. -/
def fit (n : Nat) (l : List Byte) : List Byte := (List.range n).map fun i => l.getD i 0

/-- The SM3 digest of a byte string: 32 bytes (R347). -/
def sm3 (m : List Byte) : List Byte := fit 32 (sm3Bytes m)

/-- The signature that the holder of a key makes: r and s of 32 bytes each (R347). -/
def sm2SignBy (key : Nat) (m : List Byte) : List Byte := fit 64 (sm2Bytes key m)

/-- Verification of an SM2 signature (R347): what the key's holder signed holds. -/
def sm2Verify (key : Nat) (m sig : List Byte) : Bool := sig == sm2SignBy key m || sm2Other key m sig

/-- Whether every image chosen for a context is a candidate on another device (R324, R353): images and what a device offers are known to
Benzia OS. Log entry 56. -/
opaque candidate : BitVec 14 → BitVec 32 → Bool

/-- The SPDM certificate chain in slot 0 (R349): generated at manufacture. Log entry 9. -/
opaque certChain : List Byte

/-- The boot ROM's own bytes (R349 index 1). Log entry 9. -/
opaque bootRom : List Byte

end Sys2Proof.Config
end

