-- ==== Sys2Proof/Syntax.lean ====
section
/-! DEFINITION. The instructions and steps of the Criovoma 840: one constructor for each row of spec/opcode_table.json.
Rows of the opcode map (spec/03 R56) carry the operand fields of their format (R51). Rows that are events of the device
(spec/95_what_each_step_holds.md) carry the data that the outside world or the agenda brings with them. -/

namespace Sys2Proof

/-- The second source of a vector instruction (spec/06 R106): a v register, an x register or an immediate. -/
inductive Src2 where
  | v (r : VReg)
  | x (r : XReg)
  | imm (i : BitVec 16)
  deriving DecidableEq, Repr

/-- The fields of format V (spec/03 R51). `opt` is `imm16` of a form whose second source is no immediate. -/
structure VOp where
  vd   : VReg
  vs1  : VReg
  src2 : Src2
  vs3  : VReg
  k    : KReg
  zm   : Bool
  et   : EType
  rm   : BitVec 2
  opt  : BitVec 16
  deriving DecidableEq, Repr

/-- The fields of format VM (spec/03 R51, spec/09 R156). -/
structure VMOp where
  v    : VReg
  base : XReg
  idx  : BitVec 6
  iw   : BitVec 2
  k    : KReg
  zm   : Bool
  et   : EType
  ff   : Bool
  nt   : Bool
  r    : Bool
  aux  : BitVec 6
  imm  : BitVec 26
  deriving DecidableEq, Repr

/-- The fields of format MX (spec/03 R51, spec/10 R191). -/
structure MXOp where
  zi   : Bool
  w    : BitVec 2
  z    : BitVec 3
  sub  : Bool
  xdep : XReg
  xcol : XReg
  xrow : XReg
  sl   : Bool
  lf   : Bool
  q    : Bool
  deriving DecidableEq, Repr

/-- The fields of format TM (spec/03 R51, spec/10 R195–R199). -/
structure TMOp where
  xd     : XReg
  imm    : BitVec 26
  xcols  : XReg
  xrows  : XReg
  stride : XReg
  base   : XReg
  sl     : Bool
  ff     : Bool
  mtype  : EType
  tile   : BitVec 4
  deriving DecidableEq, Repr

/-- The fields of format S (spec/03 R51, spec/08 R143). -/
structure StripOp where
  off : BitVec 16
  y   : Bool
  p1  : XReg
  p2  : XReg
  p3  : XReg
  p4  : XReg
  e1  : BitVec 2
  e2  : BitVec 2
  e3  : BitVec 2
  e4  : BitVec 2
  deriving DecidableEq, Repr

/-- `aux8` of a scalar atomic (spec/05 R93). -/
structure AmoOp where
  rel : Bool
  acq : Bool
  w   : BitVec 2
  deriving DecidableEq, Repr

/-- A soft error met while an element, step or row is performed (spec/22 R340). -/
inductive Upset where
  /-- nothing is wrong -/
  | clean
  /-- the parity of element `e` of v register `r` is wrong when read -/
  | parityV (r e : Nat)
  /-- the parity of the 16-bit group of bit `e` of mask register `m` is wrong when read -/
  | parityK (m e : Nat)
  /-- the parity of element `e` of the tile register with TM code `reg` (spec/03 R56) is wrong when read -/
  | parityTile (reg e : Nat)
  /-- the check row of the Ox unit found a mismatch (spec/10 R204) -/
  | checkRow
  deriving DecidableEq, Repr

/-- A decoded picture, as the codec's standard gives it (spec/09 R179, R180). A component is its width, its height and its
samples, row by row; `irap` says that it is an IRAP picture with NoRaslOutputFlag = 1. -/
structure Picture where
  depth   : Nat
  comps   : List (Nat × Nat × List Nat)
  written : Bool
  shown   : Bool
  irap    : Bool
  order   : BitVec 32
  deriving DecidableEq, Repr

/-- What reaches an engine from outside when its transfer completes (spec/09 R173). -/
inductive EngineInput where
  /-- a copy: nothing comes from outside -/
  | plain
  /-- storage: the NVMe status field (0 for success) and, for a read, the drive's bytes (R178) -/
  | drive (status : BitVec 16) (data : List Byte)
  /-- media: the picture, or nothing and the failing `status` 0x11 or 0x12 (R173, R179) -/
  | media (pic : Option Picture) (status : Byte)
  /-- network: the bytes read at the peer (op 2), or for a failure the syndrome and the bytes done (R182, R183) -/
  | network (failed : Bool) (syndrome : BitVec 16) (done : Nat) (data : List Byte)
  /-- a remote device gave no acknowledgement within the limit of R301 (R173) -/
  | unreachable
  deriving DecidableEq, Repr

/-- The class of a numbered request (spec/18 R302). -/
inductive ReqClass where
  | vamo | amo | claim
  deriving DecidableEq, Repr

/-- One element record of a numbered request: address, data, and the second record of a `cas` or `claim` (R302). -/
structure ReqElem where
  addr  : Nat
  data  : Word
  dataB : Word
  dataC : Word
  deriving DecidableEq, Repr

/-- A numbered request (spec/18 R302). `whole` says that its tail has arrived with a matching count (R221). -/
structure Request where
  inc    : BitVec 16
  rvid   : BitVec 24
  serial : BitVec 32
  wm     : BitVec 32
  op     : BitVec 4
  ret    : Bool
  cls    : ReqClass
  w64    : Bool
  elems  : List ReqElem
  whole  : Bool
  deriving DecidableEq, Repr

/-- What an owner answers (spec/18 R305, R313). -/
inductive Reply where
  | results (vals : List Word)
  | ack
  | nackBusy
  | nackRestarted (inc : BitVec 16)
  | nackExpired
  | nackFault (cause : Byte) (elem : Nat)
  deriving DecidableEq, Repr

/-- An idempotent element train that arrives at a port of this device (spec/12 R221, spec/09 R173): its elements are
physical addresses here with their bytes; the last train of a copy carries the units of a landing word. -/
structure Train where
  src   : BitVec 14
  rvid  : BitVec 24
  tag   : Nat
  elems : List (Nat × List Byte)
  count : Nat
  units : Option (Nat × Nat)
  deriving DecidableEq, Repr

/-- An idempotent access from another device (spec/18 R299, R313). -/
inductive AccessIn where
  | load (rvid : BitVec 24) (pa size : Nat)
  | store (rvid : BitVec 24) (pa : Nat) (data : List Byte)
  | fetch (rvid : BitVec 24) (pa : Nat)
  deriving DecidableEq, Repr

/-- A message that arrives at a network port (spec/09 R184). -/
structure NetMsg where
  qpn  : Nat
  addr : Word
  len  : Nat
  rkey : BitVec 32
  data : List Byte
  imm  : Option (BitVec 32)
  deriving DecidableEq, Repr

/-- A queue of writes that have not reached their homes (spec/12 R208). -/
inductive QueueName where
  | tile (n : Nat)
  | hall (n : Nat)
  deriving DecidableEq, Repr

/-- The instructions (spec/03 R56) and the device's steps (spec/95). The comment of a constructor is its row's mnemonic and
rule. Instructions with fields stand first, then events, then the rows without fields: Lean's runtime tags only the first 244
constructors that carry data. -/
inductive Instr where
  | udf (t : BitVec 3) (f : BitVec 6)  -- UDF, R57
  | add (d a b : XReg)  -- ADD, R79
  | sub (d a b : XReg)  -- SUB, R79
  | and (d a b : XReg)  -- AND, R79
  | or (d a b : XReg)  -- OR, R79
  | xor (d a b : XReg)  -- XOR, R79
  | sll (d a b : XReg)  -- SLL, R79
  | srl (d a b : XReg)  -- SRL, R79
  | sra (d a b : XReg)  -- SRA, R79
  | slt (d a b : XReg)  -- SLT, R79
  | sltN (d a b : XReg)  -- SLT_N, R79
  | mul (d a b : XReg)  -- MUL, R79
  | mulh (d a b : XReg)  -- MULH, R79
  | mulhN (d a b : XReg)  -- MULH_N, R79
  | div (d a b : XReg)  -- DIV, R79
  | divN (d a b : XReg)  -- DIV_N, R79
  | rem (d a b : XReg)  -- REM, R79
  | remN (d a b : XReg)  -- REM_N, R79
  | min (d a b : XReg)  -- MIN, R79
  | max (d a b : XReg)  -- MAX, R79
  | minN (d a b : XReg)  -- MIN_N, R79
  | maxN (d a b : XReg)  -- MAX_N, R79
  | andn (d a b : XReg)  -- ANDN, R79
  | orn (d a b : XReg)  -- ORN, R79
  | clz (d a : XReg)  -- CLZ, R79
  | ctz (d a : XReg)  -- CTZ, R79
  | cpop (d a : XReg)  -- CPOP, R79
  | sext8 (d a : XReg)  -- SEXT_8, R79
  | sext16 (d a : XReg)  -- SEXT_16, R79
  | sext32 (d a : XReg)  -- SEXT_32, R79
  | zext32 (d a : XReg)  -- ZEXT_32, R79
  | addi (d a : XReg) (imm : BitVec 24)  -- ADDI, R80
  | andi (d a : XReg) (imm : BitVec 24)  -- ANDI, R80
  | ori (d a : XReg) (imm : BitVec 24)  -- ORI, R80
  | xori (d a : XReg) (imm : BitVec 24)  -- XORI, R80
  | slli (d a : XReg) (imm : BitVec 24)  -- SLLI, R80
  | srli (d a : XReg) (imm : BitVec 24)  -- SRLI, R80
  | srai (d a : XReg) (imm : BitVec 24)  -- SRAI, R80
  | slti (d a : XReg) (imm : BitVec 24)  -- SLTI, R80
  | li (d : XReg) (imm : Word)  -- LI, R81
  | adr (d : XReg) (imm : BitVec 32)  -- ADR, R82
  | jal (l : XReg) (off : BitVec 32)  -- JAL, R83
  | jalr (l a : XReg) (off : BitVec 24)  -- JALR, R84
  | beq (a b : XReg) (off : BitVec 17)  -- BEQ, R85
  | bne (a b : XReg) (off : BitVec 17)  -- BNE, R85
  | blt (a b : XReg) (off : BitVec 17)  -- BLT, R85
  | bge (a b : XReg) (off : BitVec 17)  -- BGE, R85
  | bltN (a b : XReg) (off : BitVec 17)  -- BLT_N, R85
  | bgeN (a b : XReg) (off : BitVec 17)  -- BGE_N, R85
  | strip (c : XReg) (o : StripOp)  -- STRIP, R143
  | setvl (d a : XReg) (vt : BitVec 8)  -- SETVL, R86
  | claim (d req c : XReg)  -- CLAIM, R145
  | crd (d : XReg) (n : BitVec 12)  -- CRD, R87
  | cwr (n : BitVec 12) (a : XReg)  -- CWR, R87
  | trap (code : BitVec 24)  -- TRAP, R292
  | tlbinvPage (a : XReg)  -- TLBINV_PAGE, R293
  | tlbinvCtx (a : XReg)  -- TLBINV_CTX, R293
  | vsave (a : XReg)  -- VSAVE, R287
  | vrest (a : XReg)  -- VREST, R288
  | ld (d b : XReg) (off : BitVec 21) (ty : BitVec 4) (acq : Bool)  -- LD, R88
  | st (v b : XReg) (off : BitVec 21) (ty : BitVec 4) (rel : Bool)  -- ST, R89
  | amoSwap (d a b : XReg) (o : AmoOp)  -- AMO_SWAP, R94
  | amoAdd (d a b : XReg) (o : AmoOp)  -- AMO_ADD, R94
  | amoAnd (d a b : XReg) (o : AmoOp)  -- AMO_AND, R94
  | amoOr (d a b : XReg) (o : AmoOp)  -- AMO_OR, R94
  | amoXor (d a b : XReg) (o : AmoOp)  -- AMO_XOR, R94
  | amoMin (d a b : XReg) (o : AmoOp)  -- AMO_MIN, R94
  | amoMax (d a b : XReg) (o : AmoOp)  -- AMO_MAX, R94
  | amoMinN (d a b : XReg) (o : AmoOp)  -- AMO_MIN_N, R94
  | amoMaxN (d a b : XReg) (o : AmoOp)  -- AMO_MAX_N, R94
  | amoCas (d a e n : XReg) (o : AmoOp)  -- AMO_CAS, R94
  | bind (obj base len : XReg) (sc : BitVec 8)  -- BIND, R216
  | unbind (obj : XReg) (sc : BitVec 8)  -- UNBIND, R216
  | acq (d obj min : XReg) (sc : BitVec 8)  -- ACQ, R218
  | rel (obj : XReg) (sc : BitVec 8)  -- REL, R217
  | fence (sc : BitVec 8)  -- FENCE, R213
  | fadd (d a b : XReg) (t : BitVec 8)  -- FADD, R97
  | fsub (d a b : XReg) (t : BitVec 8)  -- FSUB, R97
  | fmul (d a b : XReg) (t : BitVec 8)  -- FMUL, R97
  | fdiv (d a b : XReg) (t : BitVec 8)  -- FDIV, R97
  | fsqrt (d a : XReg) (t : BitVec 8)  -- FSQRT, R97
  | fmin (d a b : XReg) (t : BitVec 8)  -- FMIN, R98
  | fmax (d a b : XReg) (t : BitVec 8)  -- FMAX, R98
  | fma (d a b c : XReg) (t : BitVec 8)  -- FMA, R97
  | fcvt (d a : XReg) (t : BitVec 8)  -- FCVT, R100
  | fcmpEq (d a b : XReg) (t : BitVec 8)  -- FCMP_EQ, R99
  | fcmpLt (d a b : XReg) (t : BitVec 8)  -- FCMP_LT, R99
  | fcmpLe (d a b : XReg) (t : BitVec 8)  -- FCMP_LE, R99
  | fclass (d a : XReg) (t : BitVec 8)  -- FCLASS, R99
  | larm (l t : XReg)  -- LARM, R152
  | lwait (d l g : XReg)  -- LWAIT, R152
  | lread (d l : XReg)  -- LREAD, R152
  | linit (l g : XReg)  -- LINIT, R152
  | cpy (d p l : XReg)  -- CPY, R175
  | cpy2d (d p l : XReg)  -- CPY2D, R177
  | sxfer (d p l : XReg)  -- SXFER, R178
  | mdec (d p l : XReg)  -- MDEC, R179
  | nxfer (d p l : XReg)  -- NXFER, R182
  | lpost (d p q : XReg)  -- LPOST, R263
  | glaunch (d g : XReg)  -- GLAUNCH, R270
  | gwait (d g gen : XReg)  -- GWAIT, R272
  | getid (d : XReg)  -- GETID, R264
  | fcfg (a : XReg)  -- FCFG, R234
  | frun (d n : XReg)  -- FRUN, R239
  | sopen (c : BitVec 2) (base len : XReg) (k64 : Bool)  -- SOPEN, R248
  | smatch (d : XReg) (va vb : VReg) (ca cb : BitVec 2)  -- SMATCH, R250
  | sseek (d : XReg) (c : BitVec 2) (key : XReg)  -- SSEEK, R249
  | sclose (c : BitVec 2)  -- SCLOSE, R248
  | vaddInt (o : VOp)  -- VADD_INT, R111
  | vsubInt (o : VOp)  -- VSUB_INT, R111
  | vmulInt (o : VOp)  -- VMUL_INT, R111
  | vmulh (o : VOp)  -- VMULH, R111
  | vmulhN (o : VOp)  -- VMULH_N, R111
  | vdivInt (o : VOp)  -- VDIV_INT, R111
  | vdivN (o : VOp)  -- VDIV_N, R111
  | vrem (o : VOp)  -- VREM, R111
  | vremN (o : VOp)  -- VREM_N, R111
  | vminInt (o : VOp)  -- VMIN_INT, R111
  | vminN (o : VOp)  -- VMIN_N, R111
  | vmaxInt (o : VOp)  -- VMAX_INT, R111
  | vmaxN (o : VOp)  -- VMAX_N, R111
  | vand (o : VOp)  -- VAND, R111
  | vor (o : VOp)  -- VOR, R111
  | vxor (o : VOp)  -- VXOR, R111
  | vsll (o : VOp)  -- VSLL, R111
  | vsrl (o : VOp)  -- VSRL, R111
  | vsra (o : VOp)  -- VSRA, R111
  | vaddsat (o : VOp)  -- VADDSAT, R111
  | vaddsatN (o : VOp)  -- VADDSAT_N, R111
  | vsubsat (o : VOp)  -- VSUBSAT, R111
  | vsubsatN (o : VOp)  -- VSUBSAT_N, R111
  | vabsInt (o : VOp)  -- VABS_INT, R111
  | vnegInt (o : VOp)  -- VNEG_INT, R111
  | vmacc (o : VOp)  -- VMACC, R111
  | vclz (o : VOp)  -- VCLZ, R111
  | vcpop (o : VOp)  -- VCPOP, R111
  | vaddFp (o : VOp)  -- VADD_FP, R112
  | vsubFp (o : VOp)  -- VSUB_FP, R112
  | vmulFp (o : VOp)  -- VMUL_FP, R112
  | vdivFp (o : VOp)  -- VDIV_FP, R112
  | vsqrt (o : VOp)  -- VSQRT, R112
  | vminFp (o : VOp)  -- VMIN_FP, R112
  | vmaxFp (o : VOp)  -- VMAX_FP, R112
  | vfma (o : VOp)  -- VFMA, R113
  | vfms (o : VOp)  -- VFMS, R113
  | vfnma (o : VOp)  -- VFNMA, R113
  | vrsqrte (o : VOp)  -- VRSQRTE, R115
  | vrcpe (o : VOp)  -- VRCPE, R115
  | vabsFp (o : VOp)  -- VABS_FP, R114
  | vnegFp (o : VOp)  -- VNEG_FP, R114
  | vsgnj (o : VOp)  -- VSGNJ, R114
  | vclass (o : VOp)  -- VCLASS, R114
  | vround (o : VOp)  -- VROUND, R114
  | veq (o : VOp)  -- VEQ, R117
  | vne (o : VOp)  -- VNE, R117
  | vlt (o : VOp)  -- VLT, R117
  | vle (o : VOp)  -- VLE, R117
  | vgt (o : VOp)  -- VGT, R117
  | vge (o : VOp)  -- VGE, R117
  | vltN (o : VOp)  -- VLT_N, R117
  | vleN (o : VOp)  -- VLE_N, R117
  | vgtN (o : VOp)  -- VGT_N, R117
  | vgeN (o : VOp)  -- VGE_N, R117
  | vnz (o : VOp)  -- VNZ, R117
  | vnan (o : VOp)  -- VNAN, R117
  | vcvt (o : VOp)  -- VCVT, R119
  | vcvtSat (o : VOp)  -- VCVT_SAT, R119
  | vretag (o : VOp)  -- VRETAG, R122
  | vquant (o : VOp)  -- VQUANT, R121
  | vredsumOrd (o : VOp)  -- VREDSUM_ORD, R138
  | vredsumTree (o : VOp)  -- VREDSUM_TREE, R138
  | vredmax (o : VOp)  -- VREDMAX, R138
  | vredmin (o : VOp)  -- VREDMIN, R138
  | vredand (o : VOp)  -- VREDAND, R138
  | vredor (o : VOp)  -- VREDOR, R138
  | vredxor (o : VOp)  -- VREDXOR, R138
  | vslideup (o : VOp)  -- VSLIDEUP, R132
  | vslidedown (o : VOp)  -- VSLIDEDOWN, R132
  | vslide1up (o : VOp)  -- VSLIDE1UP, R132
  | vslide1down (o : VOp)  -- VSLIDE1DOWN, R132
  | vgather (o : VOp)  -- VGATHER, R133
  | vcompress (o : VOp)  -- VCOMPRESS, R134
  | vexpand (o : VOp)  -- VEXPAND, R135
  | vrev (o : VOp)  -- VREV, R136
  | kand (o : VOp)  -- KAND, R128
  | kor (o : VOp)  -- KOR, R128
  | kxor (o : VOp)  -- KXOR, R128
  | knot (o : VOp)  -- KNOT, R128
  | kandn (o : VOp)  -- KANDN, R128
  | kbrkb (o : VOp)  -- KBRKB, R129
  | kbrka (o : VOp)  -- KBRKA, R129
  | kbrkf (o : VOp)  -- KBRKF, R129
  | kfirst (o : VOp)  -- KFIRST, R130
  | kcount (o : VOp)  -- KCOUNT, R130
  | kiota (o : VOp)  -- KIOTA, R131
  | vid (o : VOp)  -- VID, R131
  | vmv (o : VOp)  -- VMV, R137
  | vsplat (o : VOp)  -- VSPLAT, R137
  | vsplati (o : VOp)  -- VSPLATI, R137
  | vmvxs (o : VOp)  -- VMVXS, R137
  | vmvsx (o : VOp)  -- VMVSX, R137
  | vmerge (o : VOp)  -- VMERGE, R137
  | vextract (o : VOp)  -- VEXTRACT, R137
  | vladd (o : VOp)  -- VLADD, R124
  | vlsub (o : VOp)  -- VLSUB, R124
  | vlpow (o : VOp)  -- VLPOW, R125
  | vlrecip (o : VOp)  -- VLRECIP, R126
  | vld (o : VMOp)  -- VLD, R159
  | vlds (o : VMOp)  -- VLDS, R159
  | vldx (o : VMOp)  -- VLDX, R159
  | vldxo (o : VMOp)  -- VLDXO, R159
  | vldc (o : VMOp)  -- VLDC, R164
  | vst (o : VMOp)  -- VST, R160
  | vsts (o : VMOp)  -- VSTS, R160
  | vstx (o : VMOp)  -- VSTX, R160
  | vstxo (o : VMOp)  -- VSTXO, R160
  | vstc (o : VMOp)  -- VSTC, R164
  | vamoAdd (mode : BitVec 3) (o : VMOp)  -- VAMO_ADD, R168
  | vamoMin (mode : BitVec 3) (o : VMOp)  -- VAMO_MIN, R168
  | vamoMax (mode : BitVec 3) (o : VMOp)  -- VAMO_MAX, R168
  | vamoMinN (mode : BitVec 3) (o : VMOp)  -- VAMO_MIN_N, R168
  | vamoMaxN (mode : BitVec 3) (o : VMOp)  -- VAMO_MAX_N, R168
  | vamoAnd (mode : BitVec 3) (o : VMOp)  -- VAMO_AND, R168
  | vamoOr (mode : BitVec 3) (o : VMOp)  -- VAMO_OR, R168
  | vamoXor (mode : BitVec 3) (o : VMOp)  -- VAMO_XOR, R168
  | vamoSwap (mode : BitVec 3) (o : VMOp)  -- VAMO_SWAP, R168
  | vamoFadd (mode : BitVec 3) (o : VMOp)  -- VAMO_FADD, R168
  | tmma (o : MXOp)  -- TMMA, R188
  | tmms (o : MXOp)  -- TMMS, R190
  | vopa (o : VOp)  -- VOPA, R193
  | tzero (z : BitVec 3)  -- TZERO, R194
  | tmovr (vd : VReg) (z : BitVec 3) (r : XReg)  -- TMOVR, R194
  | tmvr (z : BitVec 3) (vs : VReg) (r : XReg)  -- TMVR, R194
  | tld (o : TMOp)  -- TLD, R196
  | tst (o : TMOp)  -- TST, R197
  | reservedEncoding (head : BitVec 16) (tail : BitVec 64)  -- RESERVED_ENCODING, R57
  | elementFire (tid seq elem : Nat) (u : Upset)  -- ELEMENT_FIRE, R16
  | tileStep (tid seq : Nat) (u : Upset)  -- TILE_STEP, R188
  | writeAppliedAtHome (src : QueueName) (k : Nat)  -- WRITE_APPLIED_AT_HOME, R208
  | transferComplete (xfer : Nat) (inp : EngineInput)  -- TRANSFER_COMPLETE, R173
  | graphInstanceStart (gen node : Nat)  -- GRAPH_INSTANCE_START, R271
  | graphGenerationFinish (gen : Nat)  -- GRAPH_GENERATION_FINISH, R271
  | ganderCheck (tid seq elem : Nat) (mismatch : Bool)  -- GANDER_CHECK, R338
  | hallQuiesce (hall : Nat)  -- HALL_QUIESCE, R344
  | ztileDrop (tile z : Nat)  -- ZTILE_DROP, R202
  | preempt (tid : Nat)  -- PREEMPT, R285
  | preemptTimeout (tid : Nat)  -- PREEMPT_TIMEOUT, R259
  | threadResume (tid : Nat)  -- THREAD_RESUME, R286
  | copyDrainTimeout (xfer bytes : Nat)  -- COPY_DRAIN_TIMEOUT, R289
  | landingArrival (pa units : Nat)  -- LANDING_ARRIVAL, R150
  | fabricNodeFire (hall node : Nat)  -- FABRIC_NODE_FIRE, R233
  | collectiveCombine (hall bnd : Nat) (vals : List (BitVec 32))  -- COLLECTIVE_COMBINE, R244
  | collectiveTimeout (hall bnd : Nat)  -- COLLECTIVE_TIMEOUT, R244
  | trainReceive (t : Train)  -- TRAIN_RECEIVE, R221
  | ackTagExpiry (src : BitVec 14) (tag : Nat)  -- ACK_TAG_EXPIRY, R221
  | idempotentRetransmit (tid : Nat)  -- IDEMPOTENT_RETRANSMIT, R301
  | idempotentTimeout (tid : Nat)  -- IDEMPOTENT_TIMEOUT, R301
  | nonidempotentRetransmit (ctx : Nat) (serial : BitVec 32)  -- NONIDEMPOTENT_RETRANSMIT, R306
  | nonidempotentTimeout (ctx : Nat) (serial : BitVec 32)  -- NONIDEMPOTENT_TIMEOUT, R306
  | ownerRequest (dev : BitVec 14) (r : Request)  -- OWNER_REQUEST, R305
  | ownerAckPacket (dev : BitVec 14) (rvid : BitVec 24) (wm : BitVec 32)  -- OWNER_ACK_PACKET, R305
  | partialTrainDiscard (rvid : BitVec 24) (serial : BitVec 32)  -- PARTIAL_TRAIN_DISCARD, R305
  | remoteReply (ctx : Nat) (serial : BitVec 32) (r : Reply)  -- REMOTE_REPLY, R304
  | watermarkReport (ctx : Nat) (dev : BitVec 14)  -- WATERMARK_REPORT, R304
  | rvidSilenceTimeout (dev : BitVec 14) (rvid : BitVec 24)  -- RVID_SILENCE_TIMEOUT, R307
  | quarantineEnd (dev : BitVec 14) (rvid : BitVec 24)  -- QUARANTINE_END, R307
  | rvidRelease (dev : BitVec 14) (rvid : BitVec 24)  -- RVID_RELEASE, R307
  | warmReset (dev : BitVec 14)  -- WARM_RESET, R308
  | coldRestart (dev : BitVec 14) (keepHbm : Bool)  -- COLD_RESTART, R309
  | liveMigration (ctxs : List Nat) (dev : BitVec 14)  -- LIVE_MIGRATION, R353
  | netRdmaWriteIn (m : NetMsg)  -- NET_RDMA_WRITE_IN, R184
  | netRdmaReadIn (m : NetMsg)  -- NET_RDMA_READ_IN, R184
  | netSendIn (m : NetMsg)  -- NET_SEND_IN, R184
  | netAtomicIn (m : NetMsg)  -- NET_ATOMIC_IN, R182
  | throttleUpdate (watts tj : Nat)  -- THROTTLE_UPDATE, R355
  | updreqWrite (v : Word)  -- UPDREQ_WRITE, R350
  | registerWrite (pa : Nat) (v : Word)  -- REGISTER_WRITE, R346
  | checkpointRestore (n : Nat)  -- CHECKPOINT_RESTORE, R352
  | negotiateAlgorithms (sm2 sm3 : Bool)  -- NEGOTIATE_ALGORITHMS, R349
  | getCertificate (slot : Nat)  -- GET_CERTIFICATE, R349
  | challenge (slot : Nat) (nonce : List Byte)  -- CHALLENGE, R349
  | getMeasurements (index : Nat)  -- GET_MEASUREMENTS, R349
  | spdmUnsupported (code : Byte)  -- SPDM_UNSUPPORTED, R349
  | remoteAccessIn (m : AccessIn)  -- REMOTE_ACCESS_IN, R299
  | linkCrcRetry (port : Nat) (past : Bool)  -- LINK_CRC_RETRY, R341
  | galleryAllocation (ctx hall tile off len : Nat)  -- GALLERY_ALLOCATION, R76
  | nop  -- NOP, R101
  | yield  -- YIELD, R103
  | exit  -- EXIT, R104
  | eret  -- ERET, R294
  | wfi  -- WFI, R294
  | fenceI  -- FENCE_I, R102
  | twait  -- TWAIT, R101
  | fwait  -- FWAIT, R101
  | tlbinvAll  -- TLBINV_ALL, R293
  | fcfgRelease  -- FCFG_RELEASE, R234
  | threadStart  -- THREAD_START, R257
  | thermalShutdown  -- THERMAL_SHUTDOWN, R355
  | boot  -- BOOT, R348
  | bootComplete  -- BOOT_COMPLETE, R348
  | updreqRead  -- UPDREQ_READ, R350
  | hbeat  -- HBEAT, R350
  | updateHeartbeatTimeout  -- UPDATE_HEARTBEAT_TIMEOUT, R351
  | checkpoint  -- CHECKPOINT, R352
  | getVersion  -- GET_VERSION, R349
  | getCapabilities  -- GET_CAPABILITIES, R349
  | getDigests  -- GET_DIGESTS, R349
  | powerFailure  -- POWER_FAILURE, R355
  deriving DecidableEq, Repr

end Sys2Proof
end

