-- ==== Sys2Proof/Machine/Fields.lean ====
section
/-! DEFINITION. The rules on the fields of an instruction's encoding that the tables of spec/03, 05–10, 12, 13 and 16 give,
each refusal under a name of its own. -/

namespace Sys2Proof.Machine

/-- Why an encoding is not an instruction (spec/03 R57; the entries' own ILL conditions). -/
inductive DecodeError where
  /-- a reserved major (R56, R57) -/
  | reservedMajor
  /-- `tl` is not the tail length of the major's format (R51, R57) -/
  | tailLength
  /-- a minor, `sub`, `cond`, `type`, `mode` or F value that R56 does not assign -/
  | unassigned
  /-- a field that the entry does not use is not zero (R53) -/
  | reservedField
  /-- `rm` against R108 -/
  | rounding
  /-- an immediate form on a minor that has none (R54) -/
  | noImmediate
  /-- the second source is of a kind the entry does not take (R110, R127, R137) -/
  | secondSource
  /-- a reserved or wrong-class element-type code (R55) -/
  | elementType
  /-- an odd register where a pair is required (R62, R109) -/
  | registerPair
  /-- a mask destination that is not k1–k7, or a mask source beyond k7 (R62, R116, R127) -/
  | maskRegister
  /-- `zm` = 1 with `k` = 0 (R52) -/
  | zeroUnderK0
  /-- `k` or `zm` not zero where the entry forbids it (R121, R137, R138, R158) -/
  | maskForbidden
  /-- the options of `imm16` or `aux8` are outside the entry's list (R93, R100, R118, R138, R193) -/
  | options
  /-- a gather whose destination names its index register (R67, R166) -/
  | gatherOverlap
  /-- a control-register number that is not assigned (R57, R63, R274) -/
  | controlRegister
  /-- a sync scope outside 1–4 (R57) -/
  | scope
  /-- two register fields that the entry requires to differ are equal, or a pointer list is broken (R143, R145) -/
  | sameRegister
  /-- a vtype outside R86 -/
  | vtype
  /-- a tile code, memory type or flag outside R196, R197, R199 -/
  | tileOperand
  deriving DecidableEq, Repr

/-- An element type of 64 bits: i64 or f64 (R62). -/
def is64 (et : EType) : Bool := et == 3 || et == 7

/-- A block type: bx3, bx5 or bx8 (R55). -/
def isBx (et : EType) : Bool := et == 10 || et == 11 || et == 12

def isIntT (et : EType) : Bool := et.ult 4
def isFloatT (et : EType) : Bool := et == 4 || et == 5 || et == 6 || et == 7
def isLogT (et : EType) : Bool := et == 8 || et == 9

/-- The width in bits of an element in a register (R62, R122): a block type is held in 16 bits. -/
def widthOf (et : EType) : Nat :=
  match et.toNat with
  | 0 | 8 => 8
  | 1 | 4 | 5 | 9 | 10 | 11 | 12 => 16
  | 2 | 6 => 32
  | 3 | 7 => 64
  | _ => 32

/-- The element size in bytes in memory (R157). -/
def sizeOf (et : EType) : Nat := widthOf et / 8

/-- The first failure of a list of named conditions. -/
def firstOf : List (Bool × DecodeError) → Option DecodeError
  | [] => none
  | (true, e) :: _ => some e
  | (false, _) :: r => firstOf r

/-! ### Format V -/

/-- What `vs1` names. -/
inductive Src1Kind where
  | vec | mask | none
  deriving DecidableEq, Repr

/-- What the second source may be. -/
inductive Src2Kind where
  /-- v or x register -/
  | vecOrX
  | vecOnly
  | xOnly
  | mask
  | none
  deriving DecidableEq, Repr

/-- What F bits 4:0 name. -/
inductive DstKind where
  | vec | mask | xreg | ztile
  /-- v register, or x register under the option `xd` (R138) -/
  | reduce
  deriving DecidableEq, Repr

/-- How `imm16` of the register form is read. -/
inductive OptKind where
  | zero | convert | reduce | immediate | vopa
  deriving DecidableEq, Repr

/-- How `k` and `zm` may stand. -/
inductive MaskKind where
  | free | noZero | noMask
  deriving DecidableEq, Repr

/-- One row of the tables of majors 0x30–0x38 and 0x64 (R111, R112, R117, R118, R123, R128–R138, R193). -/
structure VSpec where
  ets   : BitVec 16
  src1  : Src1Kind := .vec
  src2  : Src2Kind := .none
  imm   : Bool := false
  vs3   : Bool := false
  rm    : Bool := false
  dst   : DstKind := .vec
  opt   : OptKind := .zero
  msk    : MaskKind := .free
  deriving DecidableEq, Repr

/-- Row of major 0x30 (R111). -/
def vSpecInt (minor : Nat) : VSpec :=
  if minor = 23 ∨ minor = 24 ∨ minor = 26 ∨ minor = 27 then { ets := 0x000F }
  else if minor = 25 then { ets := 0x000F, src2 := .vecOrX, imm := true, vs3 := true }
  else { ets := 0x000F, src2 := .vecOrX, imm := true }

/-- Row of major 0x31 (R112). -/
def vSpecFp (minor : Nat) : VSpec :=
  if minor ≤ 3 then { ets := 0x00F0, src2 := .vecOrX, imm := true, rm := true }
  else if minor = 4 ∨ minor = 16 then { ets := 0x00F0, rm := true }
  else if minor = 5 ∨ minor = 6 ∨ minor = 14 then { ets := 0x00F0, src2 := .vecOrX, imm := true }
  else if minor = 7 ∨ minor = 8 ∨ minor = 9 then { ets := 0x00F0, src2 := .vecOrX, imm := true, rm := true, vs3 := true }
  else if minor = 10 ∨ minor = 11 then { ets := 0x00F0, rm := true }
  else { ets := 0x00F0 }

/-- Row of major 0x32 (R116, R117). -/
def vSpecCmp (minor : Nat) : VSpec :=
  if minor ≤ 5 then { ets := 0x03FF, src2 := .vecOrX, imm := true, dst := .mask }
  else if minor ≤ 9 then { ets := 0x000F, src2 := .vecOrX, imm := true, dst := .mask }
  else if minor = 10 then { ets := 0x03FF, dst := .mask }
  else { ets := 0x03F0, dst := .mask }

/-- Row of major 0x33 (R118, R121, R122). -/
def vSpecCvt (minor : Nat) : VSpec :=
  if minor ≤ 1 then { ets := 0x03FF, rm := true, opt := .convert }
  else if minor = 2 then { ets := 0x1FFF }
  else { ets := 0x1C00, rm := true, msk := .noMask }

/-- Row of major 0x34 (R138). -/
def vSpecRed (minor : Nat) : VSpec :=
  if minor ≤ 1 then { ets := 0x00FF, src2 := .vecOrX, rm := true, dst := .reduce, opt := .reduce, msk := .noZero }
  else if minor ≤ 3 then { ets := 0x00FF, src2 := .vecOrX, dst := .reduce, opt := .reduce, msk := .noZero }
  else { ets := 0x000F, src2 := .vecOrX, dst := .reduce, opt := .reduce, msk := .noZero }

/-- Row of major 0x35 (R132–R136). -/
def vSpecPerm (minor : Nat) : VSpec :=
  if minor ≤ 3 then { ets := 0x03FF, src2 := .xOnly, imm := true }
  else if minor = 4 then { ets := 0x03FF, src2 := .vecOnly, imm := true }
  else if minor = 5 then { ets := 0x03FF, msk := .noZero }
  else { ets := 0x03FF }

/-- Row of major 0x36 (R128–R131). -/
def vSpecMask (minor : Nat) : VSpec :=
  if minor = 0 ∨ minor = 1 ∨ minor = 2 ∨ minor = 4 then
    { ets := 0x0001, src1 := .mask, src2 := .mask, dst := .mask }
  else if minor = 3 ∨ minor = 5 ∨ minor = 6 ∨ minor = 7 then { ets := 0x0001, src1 := .mask, dst := .mask }
  else if minor = 8 ∨ minor = 9 then { ets := 0x0001, src1 := .mask, dst := .xreg, msk := .noZero }
  else if minor = 10 then { ets := 0x000F, src1 := .mask }
  else { ets := 0x000F, src1 := .none }

/-- Row of major 0x37 (R137). -/
def vSpecMove (minor : Nat) : VSpec :=
  if minor = 0 then { ets := 0x03FF }
  else if minor = 1 then { ets := 0x03FF, src1 := .none, src2 := .xOnly }
  else if minor = 2 then { ets := 0x03FF, src1 := .none, opt := .immediate }
  else if minor = 3 then { ets := 0x03FF, dst := .xreg, msk := .noMask }
  else if minor = 4 then { ets := 0x03FF, src1 := .none, src2 := .xOnly, msk := .noMask }
  else if minor = 5 then { ets := 0x03FF, src2 := .vecOrX, imm := true, msk := .noZero }
  else { ets := 0x03FF, src2 := .xOnly, imm := true, dst := .xreg, msk := .noMask }

/-- Row of major 0x38 (R123). -/
def vSpecLns (minor : Nat) : VSpec :=
  if minor ≤ 1 then { ets := 0x0300, src2 := .vecOrX, imm := true }
  else if minor = 2 then { ets := 0x0300, src2 := .vecOrX }
  else { ets := 0x0300 }

/-- Major 0x64 (R193). -/
def vSpecVopa : VSpec := { ets := 0x0300, src2 := .vecOnly, dst := .ztile, opt := .vopa, msk := .noZero }

/-- The row of a major of format V (R56). -/
def vSpec (major minor : Nat) : VSpec :=
  match major with
  | 0x30 => vSpecInt minor
  | 0x31 => vSpecFp minor
  | 0x32 => vSpecCmp minor
  | 0x33 => vSpecCvt minor
  | 0x34 => vSpecRed minor
  | 0x35 => vSpecPerm minor
  | 0x36 => vSpecMask minor
  | 0x37 => vSpecMove minor
  | 0x38 => vSpecLns minor
  | _ => vSpecVopa

/-- The destination of a reduction is an x register (R138 option `xd`). -/
def redToX (o : VOp) : Bool := o.opt.getLsbD 0

/-- The result or comparison is unsigned (R138 option `un`). -/
def redUn (o : VOp) : Bool := o.opt.getLsbD 1

/-- The source of a conversion is read unsigned (R118 option `su`). -/
def cvtSu (o : VOp) : Bool := o.opt.getLsbD 0

/-- The destination of a conversion is unsigned (R118 option `du`). -/
def cvtDu (o : VOp) : Bool := o.opt.getLsbD 1

/-- The bad second source of a row, by kind (R54, R110, R127, R137). -/
def badSrc2 (sp : VSpec) : Src2 → Option DecodeError
  | .imm _ => if sp.imm then none else some .noImmediate
  | .v r =>
    match sp.src2 with
    | .vecOrX | .vecOnly => none
    | .mask => if r.ult 8 then none else some .maskRegister
    | .none => if r = 0 then none else some .secondSource
    | .xOnly => some .secondSource
  | .x _ =>
    match sp.src2 with
    | .vecOrX | .xOnly => none
    | _ => some .secondSource

/-- The options of `imm16` are outside their list (R110, R118, R138, R193). -/
def badOpt (sp : VSpec) (minor : Nat) (o : VOp) : Bool :=
  match sp.opt, o.src2 with
  | _, .imm _ => o.opt != 0
  | .zero, _ => o.opt != 0
  | .convert, _ => !(o.opt.ult 4) || (cvtDu o && !isIntT o.et)
  | .reduce, _ => !(o.opt.ult 4) || (redUn o && !((minor == 2 || minor == 3) && isIntT o.et))
  | .immediate, _ => false
  | .vopa, _ => !(o.opt.ult 4)

/-- A second source that names a v register pair: an odd one is ILL. Index registers are exempt (R109, R133). -/
def oddSrc2 (major minor : Nat) : Src2 → Bool
  | .v r => r.getLsbD 0 && !(major == 0x35 && minor == 4)
  | _ => false

/-- An odd register where R62 and R109 require a pair. -/
def badPair (major minor : Nat) (sp : VSpec) (o : VOp) : Bool :=
  is64 o.et &&
  ((o.vd.getLsbD 0 && (sp.dst == .vec || (sp.dst == .reduce && !redToX o))) ||
   (o.vs1.getLsbD 0 && sp.src1 == .vec && !(major == 0x33 && minor ≤ 1)) ||
   oddSrc2 major minor o.src2 ||
   (o.vs3.getLsbD 0 && sp.vs3))

/-- The destination of `vgather` names its index register (R67 item 5, R133). -/
def gatherClash (o : VOp) : Bool :=
  match o.src2 with
  | .v r => r == o.vd || (is64 o.et && r == o.vd + 1)
  | _ => false

/-- The checks of a format V encoding (R57, R108–R110, R116, R127). -/
def checkV (major minor : Nat) (o : VOp) : Option DecodeError :=
  let sp := vSpec major minor
  firstOf
    [(!(sp.ets.getLsbD o.et.toNat), .elementType),
     (badSrc2 sp o.src2 == some .noImmediate, .noImmediate),
     (badSrc2 sp o.src2 == some .maskRegister, .maskRegister),
     (badSrc2 sp o.src2 == some .secondSource, .secondSource),
     (!sp.vs3 && o.vs3 != 0, .reservedField),
     (sp.src1 == .none && o.vs1 != 0, .reservedField),
     (sp.src1 == .mask && !(o.vs1.ult 8), .maskRegister),
     (o.rm == 3 || (!sp.rm && o.rm != 0), .rounding),
     (o.zm && o.k == 0, .zeroUnderK0),
     (sp.msk == .noZero && o.zm, .maskForbidden),
     (sp.msk == .noMask && (o.zm || o.k != 0), .maskForbidden),
     (sp.dst == .mask && (o.vd == 0 || !(o.vd.ult 8)), .maskRegister),
     (sp.dst == .ztile && !(o.vd.ult 8), .reservedField),
     (badOpt sp minor o, .options),
     (badPair major minor sp o, .registerPair),
     (major == 0x35 && minor == 4 && gatherClash o, .gatherOverlap)]

/-! ### Format VM -/

/-- Two register ranges meet (R67 item 5). -/
def regsMeet (a : VReg) (wa : Bool) (b : VReg) (wb : Bool) : Bool :=
  a == b || (wa && a + 1 == b) || (wb && b + 1 == a) 

/-- The checks of a vector load or store (R52, R156, R158, R166): `store`, the mode. -/
def checkVM (store : Bool) (mode : Nat) (o : VMOp) : Option DecodeError :=
  firstOf
    [(!(o.et.ult 13), .elementType),
     (o.r, .reservedField),
     (mode == 0 && o.idx != 0, .reservedField),
     (mode ≤ 1 && o.iw != 0, .reservedField),
     (2 ≤ mode && (o.idx.getLsbD 5 || !(o.iw.ult 2)), .reservedField),
     (store && o.ff, .reservedField),
     (mode == 4 && o.ff, .reservedField),
     (!store && o.nt, .reservedField),
     (!o.nt && o.aux != 0, .reservedField),
     (o.zm && o.k == 0, .zeroUnderK0),
     (isBx o.et && mode != 0, .elementType),
     (isBx o.et && (o.k != 0 || o.zm), .maskForbidden),
     (is64 o.et && o.v.getLsbD 0, .registerPair),
     (2 ≤ mode && o.iw == 1 && o.idx.getLsbD 0, .registerPair),
     (!store && 2 ≤ mode && regsMeet o.v (is64 o.et) (o.idx.setWidth 5) (o.iw == 1), .gatherOverlap)]

/-- The checks of a `vamo` (R166, R167). -/
def checkVamo (fadd : Bool) (mode : BitVec 3) (o : VMOp) : Option DecodeError :=
  firstOf
    [(!(mode == 2 || mode == 3 || mode == 4), .unassigned),
     (!(if fadd then o.et == 6 || o.et == 7 else o.et == 2 || o.et == 3), .elementType),
     (o.idx.getLsbD 5 || !(o.iw.ult 2), .reservedField),
     (o.ff || o.nt, .reservedField),
     (!o.r && o.aux != 0, .reservedField),
     (o.r && o.aux.getLsbD 5, .reservedField),
     (o.zm && o.k == 0, .zeroUnderK0),
     (is64 o.et && (o.v.getLsbD 0 || (o.r && o.aux.getLsbD 0)), .registerPair),
     (o.iw == 1 && o.idx.getLsbD 0, .registerPair),
     (o.r && regsMeet o.v (is64 o.et) (o.idx.setWidth 5) (o.iw == 1), .gatherOverlap)]

/-! ### The other formats -/

/-- The checks of `tld` (R196, R199). -/
def checkTld (o : TMOp) : Option DecodeError :=
  firstOf
    [(!(o.tile.ult 14), .tileOperand),
     (o.mtype.ult 4 || o.mtype == 7 || !(o.mtype.ult 13), .elementType),
     (o.xrows != 0 || o.xcols != 0, .reservedField),
     (!o.ff && o.xd != 0, .reservedField),
     (o.sl && !(o.tile.ult 8), .tileOperand)]

/-- The checks of `tst` (R197, R199). -/
def checkTst (o : TMOp) : Option DecodeError :=
  firstOf
    [(!(o.tile.ult 8), .tileOperand),
     (o.mtype.ult 4 || o.mtype == 7 || o.mtype == 10 || o.mtype == 11 || !(o.mtype.ult 13), .elementType),
     (o.ff || o.sl || o.xd != 0, .reservedField)]

/-- The pointer list of `strip` (R143). -/
def checkStrip (c : XReg) (o : StripOp) : Option DecodeError :=
  firstOf
    [(c == 0, .reservedField),
     (o.p1 == 0 && (o.p2 != 0 || o.p3 != 0 || o.p4 != 0), .sameRegister),
     (o.p2 == 0 && (o.p3 != 0 || o.p4 != 0), .sameRegister),
     (o.p3 == 0 && o.p4 != 0, .sameRegister),
     (o.p1 == c || o.p2 == c || o.p3 == c || o.p4 == c, .sameRegister),
     (o.p1 != 0 && (o.p1 == o.p2 || o.p1 == o.p3 || o.p1 == o.p4), .sameRegister),
     (o.p2 != 0 && (o.p2 == o.p3 || o.p2 == o.p4), .sameRegister),
     (o.p3 != 0 && o.p3 == o.p4, .sameRegister),
     ((o.p1 == 0 && o.e1 != 0) || (o.p2 == 0 && o.e2 != 0) || (o.p3 == 0 && o.e3 != 0) || (o.p4 == 0 && o.e4 != 0),
       .reservedField)]

/-- A user control register (R63). -/
def isUserReg (n : BitVec 12) : Bool := n.ult 9

/-- A system control register (R274). -/
def isSystemReg (n : BitVec 12) : Bool :=
  (!(n.ult 0x100) && n.ult 0x10C) || n == 0x110 || n == 0x111 || n == 0x112 || n == 0x120 || n == 0x121

/-- A control-register number that is assigned (R63, R274). -/
def checkCreg (n : BitVec 12) : Option DecodeError :=
  if isUserReg n || isSystemReg n then none else some .controlRegister

/-- vtype as `setvl` takes it (R86). -/
def checkVtype (vt : BitVec 8) : Option DecodeError :=
  if (vt.extractLsb' 0 4).ult 13 && (vt.extractLsb' 4 3).ult 4 && !vt.getLsbD 7 then none else some .vtype

/-- `aux8` of a scalar FP minor other than `fcvt` (R97). -/
def checkFpType (t : BitVec 8) : Option DecodeError :=
  if t == 4 || t == 5 || t == 6 || t == 7 then none else some .options

/-- `aux8` of `fcvt` (R100): an unsigned bit needs an integer code, and one of the two types is a float. -/
def checkFcvt (t : BitVec 8) : Option DecodeError :=
  let srcF := t.getLsbD 6
  let dstF := t.getLsbD 2
  if (t.getLsbD 7 && srcF) || (t.getLsbD 3 && dstF) || (!srcF && !dstF) then some .options else none

/-- The width of a scalar atomic (R93). -/
def checkAmo (o : AmoOp) : Option DecodeError := if o.w.ult 2 then some .options else none

/-- The scope of a sync instruction (R57, R215). -/
def checkScope (sc : BitVec 8) : Option DecodeError := if sc != 0 && sc.ult 5 then none else some .scope

/-- The checks of an instruction's fields, by its entry; events carry no encoding and have none. -/
def checkInstr : Instr → Option DecodeError
  | .nop => none
  | .yield => none
  | .exit => none
  | .eret => none
  | .wfi => none
  | .fenceI => none
  | .twait => none
  | .fwait => none
  | .udf _ _ => none
  | .add _ _ _ => none
  | .sub _ _ _ => none
  | .and _ _ _ => none
  | .or _ _ _ => none
  | .xor _ _ _ => none
  | .sll _ _ _ => none
  | .srl _ _ _ => none
  | .sra _ _ _ => none
  | .slt _ _ _ => none
  | .sltN _ _ _ => none
  | .mul _ _ _ => none
  | .mulh _ _ _ => none
  | .mulhN _ _ _ => none
  | .div _ _ _ => none
  | .divN _ _ _ => none
  | .rem _ _ _ => none
  | .remN _ _ _ => none
  | .min _ _ _ => none
  | .max _ _ _ => none
  | .minN _ _ _ => none
  | .maxN _ _ _ => none
  | .andn _ _ _ => none
  | .orn _ _ _ => none
  | .clz _ _ => none
  | .ctz _ _ => none
  | .cpop _ _ => none
  | .sext8 _ _ => none
  | .sext16 _ _ => none
  | .sext32 _ _ => none
  | .zext32 _ _ => none
  | .addi _ _ _ => none
  | .andi _ _ _ => none
  | .ori _ _ _ => none
  | .xori _ _ _ => none
  | .slli _ _ _ => none
  | .srli _ _ _ => none
  | .srai _ _ _ => none
  | .slti _ _ _ => none
  | .li _ _ => none
  | .adr _ _ => none
  | .jal _ _ => none
  | .jalr _ _ _ => none
  | .beq _ _ _ => none
  | .bne _ _ _ => none
  | .blt _ _ _ => none
  | .bge _ _ _ => none
  | .bltN _ _ _ => none
  | .bgeN _ _ _ => none
  | .strip c o => checkStrip c o
  | .setvl _ _ vt => checkVtype vt
  | .claim d req _ => if d = req then some .sameRegister else none
  | .crd _ n => checkCreg n
  | .cwr n _ => checkCreg n
  | .trap _ => none
  | .tlbinvPage _ => none
  | .tlbinvCtx _ => none
  | .tlbinvAll => none
  | .vsave _ => none
  | .vrest _ => none
  | .ld _ _ _ ty _ => if ty.ult 7 then none else some .unassigned
  | .st _ _ _ ty _ => if ty.ult 4 then none else some .unassigned
  | .amoSwap _ _ _ o => checkAmo o
  | .amoAdd _ _ _ o => checkAmo o
  | .amoAnd _ _ _ o => checkAmo o
  | .amoOr _ _ _ o => checkAmo o
  | .amoXor _ _ _ o => checkAmo o
  | .amoMin _ _ _ o => checkAmo o
  | .amoMax _ _ _ o => checkAmo o
  | .amoMinN _ _ _ o => checkAmo o
  | .amoMaxN _ _ _ o => checkAmo o
  | .amoCas _ _ _ _ o => checkAmo o
  | .bind _ _ _ sc => checkScope sc
  | .unbind _ sc => checkScope sc
  | .acq _ _ _ sc => checkScope sc
  | .rel _ sc => checkScope sc
  | .fence sc => checkScope sc
  | .fadd _ _ _ t => checkFpType t
  | .fsub _ _ _ t => checkFpType t
  | .fmul _ _ _ t => checkFpType t
  | .fdiv _ _ _ t => checkFpType t
  | .fsqrt _ _ t => checkFpType t
  | .fmin _ _ _ t => checkFpType t
  | .fmax _ _ _ t => checkFpType t
  | .fma _ _ _ _ t => checkFpType t
  | .fcvt _ _ t => checkFcvt t
  | .fcmpEq _ _ _ t => checkFpType t
  | .fcmpLt _ _ _ t => checkFpType t
  | .fcmpLe _ _ _ t => checkFpType t
  | .fclass _ _ t => checkFpType t
  | .larm _ _ => none
  | .lwait _ _ _ => none
  | .lread _ _ => none
  | .linit _ _ => none
  | .cpy _ _ _ => none
  | .cpy2d _ _ _ => none
  | .sxfer _ _ _ => none
  | .mdec _ _ _ => none
  | .nxfer _ _ _ => none
  | .lpost _ _ _ => none
  | .glaunch _ _ => none
  | .gwait _ _ _ => none
  | .getid _ => none
  | .fcfg a => if a = 0 then some .reservedField else none
  | .fcfgRelease => none
  | .frun _ _ => none
  | .sopen _ _ _ _ => none
  | .smatch _ _ _ _ _ => none
  | .sseek _ _ _ => none
  | .sclose _ => none
  | .vaddInt o => checkV 0x30 0 o
  | .vsubInt o => checkV 0x30 1 o
  | .vmulInt o => checkV 0x30 2 o
  | .vmulh o => checkV 0x30 3 o
  | .vmulhN o => checkV 0x30 4 o
  | .vdivInt o => checkV 0x30 5 o
  | .vdivN o => checkV 0x30 6 o
  | .vrem o => checkV 0x30 7 o
  | .vremN o => checkV 0x30 8 o
  | .vminInt o => checkV 0x30 9 o
  | .vminN o => checkV 0x30 10 o
  | .vmaxInt o => checkV 0x30 11 o
  | .vmaxN o => checkV 0x30 12 o
  | .vand o => checkV 0x30 13 o
  | .vor o => checkV 0x30 14 o
  | .vxor o => checkV 0x30 15 o
  | .vsll o => checkV 0x30 16 o
  | .vsrl o => checkV 0x30 17 o
  | .vsra o => checkV 0x30 18 o
  | .vaddsat o => checkV 0x30 19 o
  | .vaddsatN o => checkV 0x30 20 o
  | .vsubsat o => checkV 0x30 21 o
  | .vsubsatN o => checkV 0x30 22 o
  | .vabsInt o => checkV 0x30 23 o
  | .vnegInt o => checkV 0x30 24 o
  | .vmacc o => checkV 0x30 25 o
  | .vclz o => checkV 0x30 26 o
  | .vcpop o => checkV 0x30 27 o
  | .vaddFp o => checkV 0x31 0 o
  | .vsubFp o => checkV 0x31 1 o
  | .vmulFp o => checkV 0x31 2 o
  | .vdivFp o => checkV 0x31 3 o
  | .vsqrt o => checkV 0x31 4 o
  | .vminFp o => checkV 0x31 5 o
  | .vmaxFp o => checkV 0x31 6 o
  | .vfma o => checkV 0x31 7 o
  | .vfms o => checkV 0x31 8 o
  | .vfnma o => checkV 0x31 9 o
  | .vrsqrte o => checkV 0x31 10 o
  | .vrcpe o => checkV 0x31 11 o
  | .vabsFp o => checkV 0x31 12 o
  | .vnegFp o => checkV 0x31 13 o
  | .vsgnj o => checkV 0x31 14 o
  | .vclass o => checkV 0x31 15 o
  | .vround o => checkV 0x31 16 o
  | .veq o => checkV 0x32 0 o
  | .vne o => checkV 0x32 1 o
  | .vlt o => checkV 0x32 2 o
  | .vle o => checkV 0x32 3 o
  | .vgt o => checkV 0x32 4 o
  | .vge o => checkV 0x32 5 o
  | .vltN o => checkV 0x32 6 o
  | .vleN o => checkV 0x32 7 o
  | .vgtN o => checkV 0x32 8 o
  | .vgeN o => checkV 0x32 9 o
  | .vnz o => checkV 0x32 10 o
  | .vnan o => checkV 0x32 11 o
  | .vcvt o => checkV 0x33 0 o
  | .vcvtSat o => checkV 0x33 1 o
  | .vretag o => checkV 0x33 2 o
  | .vquant o => checkV 0x33 3 o
  | .vredsumOrd o => checkV 0x34 0 o
  | .vredsumTree o => checkV 0x34 1 o
  | .vredmax o => checkV 0x34 2 o
  | .vredmin o => checkV 0x34 3 o
  | .vredand o => checkV 0x34 4 o
  | .vredor o => checkV 0x34 5 o
  | .vredxor o => checkV 0x34 6 o
  | .vslideup o => checkV 0x35 0 o
  | .vslidedown o => checkV 0x35 1 o
  | .vslide1up o => checkV 0x35 2 o
  | .vslide1down o => checkV 0x35 3 o
  | .vgather o => checkV 0x35 4 o
  | .vcompress o => checkV 0x35 5 o
  | .vexpand o => checkV 0x35 6 o
  | .vrev o => checkV 0x35 7 o
  | .kand o => checkV 0x36 0 o
  | .kor o => checkV 0x36 1 o
  | .kxor o => checkV 0x36 2 o
  | .knot o => checkV 0x36 3 o
  | .kandn o => checkV 0x36 4 o
  | .kbrkb o => checkV 0x36 5 o
  | .kbrka o => checkV 0x36 6 o
  | .kbrkf o => checkV 0x36 7 o
  | .kfirst o => checkV 0x36 8 o
  | .kcount o => checkV 0x36 9 o
  | .kiota o => checkV 0x36 10 o
  | .vid o => checkV 0x36 11 o
  | .vmv o => checkV 0x37 0 o
  | .vsplat o => checkV 0x37 1 o
  | .vsplati o => checkV 0x37 2 o
  | .vmvxs o => checkV 0x37 3 o
  | .vmvsx o => checkV 0x37 4 o
  | .vmerge o => checkV 0x37 5 o
  | .vextract o => checkV 0x37 6 o
  | .vladd o => checkV 0x38 0 o
  | .vlsub o => checkV 0x38 1 o
  | .vlpow o => checkV 0x38 2 o
  | .vlrecip o => checkV 0x38 3 o
  | .vld o => checkVM false 0 o
  | .vlds o => checkVM false 1 o
  | .vldx o => checkVM false 2 o
  | .vldxo o => checkVM false 3 o
  | .vldc o => checkVM false 4 o
  | .vst o => checkVM true 0 o
  | .vsts o => checkVM true 1 o
  | .vstx o => checkVM true 2 o
  | .vstxo o => checkVM true 3 o
  | .vstc o => checkVM true 4 o
  | .vamoAdd mode o => checkVamo false mode o
  | .vamoMin mode o => checkVamo false mode o
  | .vamoMax mode o => checkVamo false mode o
  | .vamoMinN mode o => checkVamo false mode o
  | .vamoMaxN mode o => checkVamo false mode o
  | .vamoAnd mode o => checkVamo false mode o
  | .vamoOr mode o => checkVamo false mode o
  | .vamoXor mode o => checkVamo false mode o
  | .vamoSwap mode o => checkVamo false mode o
  | .vamoFadd mode o => checkVamo true mode o
  | .tmma _ => none
  | .tmms _ => none
  | .vopa o => checkV 0x64 0 o
  | .tzero _ => none
  | .tmovr _ _ _ => none
  | .tmvr _ _ _ => none
  | .tld o => checkTld o
  | .tst o => checkTst o
  | .elementFire _ _ _ _ => none
  | .tileStep _ _ _ => none
  | .ganderCheck _ _ _ _ => none
  | .hallQuiesce _ => none
  | .ztileDrop _ _ => none
  | .threadStart => none
  | .preempt _ => none
  | .preemptTimeout _ => none
  | .threadResume _ => none
  | .copyDrainTimeout _ _ => none
  | .transferComplete _ _ => none
  | .landingArrival _ _ => none
  | .graphInstanceStart _ _ => none
  | .graphGenerationFinish _ => none
  | .fabricNodeFire _ _ => none
  | .collectiveCombine _ _ _ => none
  | .collectiveTimeout _ _ => none
  | .trainReceive _ => none
  | .ackTagExpiry _ _ => none
  | .idempotentRetransmit _ => none
  | .idempotentTimeout _ => none
  | .nonidempotentRetransmit _ _ => none
  | .nonidempotentTimeout _ _ => none
  | .ownerRequest _ _ => none
  | .ownerAckPacket _ _ _ => none
  | .partialTrainDiscard _ _ => none
  | .remoteReply _ _ _ => none
  | .watermarkReport _ _ => none
  | .rvidSilenceTimeout _ _ => none
  | .quarantineEnd _ _ => none
  | .rvidRelease _ _ => none
  | .warmReset _ => none
  | .coldRestart _ _ => none
  | .liveMigration _ _ => none
  | .netRdmaWriteIn _ => none
  | .netRdmaReadIn _ => none
  | .netSendIn _ => none
  | .netAtomicIn _ => none
  | .throttleUpdate _ _ => none
  | .thermalShutdown => none
  | .boot => none
  | .bootComplete => none
  | .updreqWrite _ => none
  | .updreqRead => none
  | .hbeat => none
  | .updateHeartbeatTimeout => none
  | .registerWrite _ _ => none
  | .checkpoint => none
  | .checkpointRestore _ => none
  | .getVersion => none
  | .getCapabilities => none
  | .negotiateAlgorithms _ _ => none
  | .getDigests => none
  | .getCertificate _ => none
  | .challenge _ _ => none
  | .getMeasurements _ => none
  | .spdmUnsupported _ => none
  | .reservedEncoding _ _ => none
  | .writeAppliedAtHome _ _ => none
  | .remoteAccessIn _ => none
  | .linkCrcRetry _ _ => none
  | .galleryAllocation _ _ _ _ _ => none
  | .powerFailure => none

end Sys2Proof.Machine
end

