-- ==== Sys2Proof/WellFormed.lean ====
section
/-! DEFINITION. Which terms of `Instr` an encoding can name: every field check of Machine/Fields.lean passes. -/

namespace Sys2Proof

/-- The first check of its entry that an instruction's fields fail, if any. -/
def check (i : Instr) : Option Machine.DecodeError := Machine.checkInstr i

/-- An instruction whose fields pass every check (spec/03 R57). -/
def Instr.WellFormed (i : Instr) : Prop := check i = none

end Sys2Proof
end

