-- ==== Sys2Proof/Decode.lean ====
section
/-! DEFINITION. From an encoded instruction to the instruction or a named refusal, and back (spec/03 R44, R45, R51–R57).
A `Code` is one head and its tail; where the two stand in a line is fetch's concern (Machine/Ops.lean). -/

namespace Sys2Proof

open Machine (DecodeError)

/-- One encoded instruction: its head and its tail, tail bit 0 being bit 0 of the lowest tail byte (R45). Tails shorter than
64 bits are zero-extended. Of the 16-byte tail that `tl` 7 codes, the low 64 bits stand here: no instruction has one. -/
structure Code where
  head : BitVec 16
  tail : BitVec 64
  deriving DecidableEq, Repr

/-- Bits 15:9 of a head (R44). -/
def Code.major (c : Code) : BitVec 7 := c.head.extractLsb' 9 7

/-- Bits 8:6 of a head (R44). -/
def Code.tl (c : Code) : BitVec 3 := c.head.extractLsb' 6 3

/-- Bits 5:0 of a head (R44). -/
def Code.f (c : Code) : BitVec 6 := c.head.extractLsb' 0 6

/-- `n` tail bits from bit `lo` up. -/
def Code.fld (c : Code) (lo n : Nat) : BitVec n := c.tail.extractLsb' lo n

/-- Tail length in bytes of a tail length code (R44). -/
def tailBytes (tl : Nat) : Nat := if tl = 7 then 16 else 2 * tl

/-- A head from its fields (R44). -/
def headOf (major : BitVec 7) (tl : BitVec 3) (f : BitVec 6) : BitVec 16 := major ++ tl ++ f

/-! ### Reading the formats -/

/-- A register-register minor of format B. -/
abbrev RRR := XReg → XReg → XReg → Instr

/-- Major 0x01 (R56). -/
def aluCtor (minor : Nat) : Option (RRR) :=
  match minor with
  | 0 => some Instr.add
  | 1 => some Instr.sub
  | 2 => some Instr.and
  | 3 => some Instr.or
  | 4 => some Instr.xor
  | 5 => some Instr.sll
  | 6 => some Instr.srl
  | 7 => some Instr.sra
  | 8 => some Instr.slt
  | 9 => some Instr.sltN
  | 10 => some Instr.mul
  | 11 => some Instr.mulh
  | 12 => some Instr.mulhN
  | 13 => some Instr.div
  | 14 => some Instr.divN
  | 15 => some Instr.rem
  | _ => none

/-- Major 0x02, the two-source minors (R56). -/
def alu2Ctor (minor : Nat) : Option (RRR) :=
  match minor with
  | 0 => some Instr.remN
  | 1 => some Instr.min
  | 2 => some Instr.max
  | 3 => some Instr.minN
  | 4 => some Instr.maxN
  | 5 => some Instr.andn
  | 6 => some Instr.orn
  | _ => none

/-- Major 0x02, the one-source minors (R79). -/
def alu2Ctor1 (minor : Nat) : Option (XReg → XReg → Instr) :=
  match minor with
  | 7 => some Instr.clz
  | 8 => some Instr.ctz
  | 9 => some Instr.cpop
  | 10 => some Instr.sext8
  | 11 => some Instr.sext16
  | 12 => some Instr.sext32
  | 13 => some Instr.zext32
  | _ => none

/-- Major 0x03 (R80). -/
def imm3Ctor (minor : Nat) : Option (XReg → XReg → BitVec 24 → Instr) :=
  match minor with
  | 0 => some Instr.addi
  | 1 => some Instr.andi
  | 2 => some Instr.ori
  | 3 => some Instr.xori
  | _ => none

/-- Major 0x04 (R80). -/
def imm4Ctor (minor : Nat) : Option (XReg → XReg → BitVec 24 → Instr) :=
  match minor with
  | 0 => some Instr.slli
  | 1 => some Instr.srli
  | 2 => some Instr.srai
  | 3 => some Instr.slti
  | _ => none

/-- Major 0x09 (R85). -/
def branchCtor (minor : Nat) : Option (XReg → XReg → BitVec 17 → Instr) :=
  match minor with
  | 0 => some Instr.beq
  | 1 => some Instr.bne
  | 2 => some Instr.blt
  | 3 => some Instr.bge
  | 4 => some Instr.bltN
  | 5 => some Instr.bgeN
  | _ => none

/-- Major 0x12 but `cas` (R94). -/
def amoCtor (minor : Nat) : Option (XReg → XReg → XReg → AmoOp → Instr) :=
  match minor with
  | 0 => some Instr.amoSwap
  | 1 => some Instr.amoAdd
  | 2 => some Instr.amoAnd
  | 3 => some Instr.amoOr
  | 4 => some Instr.amoXor
  | 5 => some Instr.amoMin
  | 6 => some Instr.amoMax
  | 7 => some Instr.amoMinN
  | 8 => some Instr.amoMaxN
  | _ => none

/-- Major 0x14, the two-source minors (R97). -/
def fp2Ctor (minor : Nat) : Option (XReg → XReg → XReg → BitVec 8 → Instr) :=
  match minor with
  | 0 => some Instr.fadd
  | 1 => some Instr.fsub
  | 2 => some Instr.fmul
  | 3 => some Instr.fdiv
  | 5 => some Instr.fmin
  | 6 => some Instr.fmax
  | 9 => some Instr.fcmpEq
  | 10 => some Instr.fcmpLt
  | 11 => some Instr.fcmpLe
  | _ => none

/-- Major 0x16 (R171). -/
def copyCtor (minor : Nat) : Option (XReg → XReg → XReg → Instr) :=
  match minor with
  | 0 => some Instr.cpy
  | 1 => some Instr.cpy2d
  | 2 => some Instr.sxfer
  | 3 => some Instr.mdec
  | 4 => some Instr.nxfer
  | _ => none

/-- Major 0x30 (R56). -/
def v30Ctor (minor : Nat) : Option (VOp → Instr) :=
  match minor with
  | 0 => some Instr.vaddInt
  | 1 => some Instr.vsubInt
  | 2 => some Instr.vmulInt
  | 3 => some Instr.vmulh
  | 4 => some Instr.vmulhN
  | 5 => some Instr.vdivInt
  | 6 => some Instr.vdivN
  | 7 => some Instr.vrem
  | 8 => some Instr.vremN
  | 9 => some Instr.vminInt
  | 10 => some Instr.vminN
  | 11 => some Instr.vmaxInt
  | 12 => some Instr.vmaxN
  | 13 => some Instr.vand
  | 14 => some Instr.vor
  | 15 => some Instr.vxor
  | 16 => some Instr.vsll
  | 17 => some Instr.vsrl
  | 18 => some Instr.vsra
  | 19 => some Instr.vaddsat
  | 20 => some Instr.vaddsatN
  | 21 => some Instr.vsubsat
  | 22 => some Instr.vsubsatN
  | 23 => some Instr.vabsInt
  | 24 => some Instr.vnegInt
  | 25 => some Instr.vmacc
  | 26 => some Instr.vclz
  | 27 => some Instr.vcpop
  | _ => none

/-- Major 0x31 (R56). -/
def v31Ctor (minor : Nat) : Option (VOp → Instr) :=
  match minor with
  | 0 => some Instr.vaddFp
  | 1 => some Instr.vsubFp
  | 2 => some Instr.vmulFp
  | 3 => some Instr.vdivFp
  | 4 => some Instr.vsqrt
  | 5 => some Instr.vminFp
  | 6 => some Instr.vmaxFp
  | 7 => some Instr.vfma
  | 8 => some Instr.vfms
  | 9 => some Instr.vfnma
  | 10 => some Instr.vrsqrte
  | 11 => some Instr.vrcpe
  | 12 => some Instr.vabsFp
  | 13 => some Instr.vnegFp
  | 14 => some Instr.vsgnj
  | 15 => some Instr.vclass
  | 16 => some Instr.vround
  | _ => none

/-- Major 0x32 (R56). -/
def v32Ctor (minor : Nat) : Option (VOp → Instr) :=
  match minor with
  | 0 => some Instr.veq
  | 1 => some Instr.vne
  | 2 => some Instr.vlt
  | 3 => some Instr.vle
  | 4 => some Instr.vgt
  | 5 => some Instr.vge
  | 6 => some Instr.vltN
  | 7 => some Instr.vleN
  | 8 => some Instr.vgtN
  | 9 => some Instr.vgeN
  | 10 => some Instr.vnz
  | 11 => some Instr.vnan
  | _ => none

/-- Major 0x33 (R56). -/
def v33Ctor (minor : Nat) : Option (VOp → Instr) :=
  match minor with
  | 0 => some Instr.vcvt
  | 1 => some Instr.vcvtSat
  | 2 => some Instr.vretag
  | 3 => some Instr.vquant
  | _ => none

/-- Major 0x34 (R56). -/
def v34Ctor (minor : Nat) : Option (VOp → Instr) :=
  match minor with
  | 0 => some Instr.vredsumOrd
  | 1 => some Instr.vredsumTree
  | 2 => some Instr.vredmax
  | 3 => some Instr.vredmin
  | 4 => some Instr.vredand
  | 5 => some Instr.vredor
  | 6 => some Instr.vredxor
  | _ => none

/-- Major 0x35 (R56). -/
def v35Ctor (minor : Nat) : Option (VOp → Instr) :=
  match minor with
  | 0 => some Instr.vslideup
  | 1 => some Instr.vslidedown
  | 2 => some Instr.vslide1up
  | 3 => some Instr.vslide1down
  | 4 => some Instr.vgather
  | 5 => some Instr.vcompress
  | 6 => some Instr.vexpand
  | 7 => some Instr.vrev
  | _ => none

/-- Major 0x36 (R56). -/
def v36Ctor (minor : Nat) : Option (VOp → Instr) :=
  match minor with
  | 0 => some Instr.kand
  | 1 => some Instr.kor
  | 2 => some Instr.kxor
  | 3 => some Instr.knot
  | 4 => some Instr.kandn
  | 5 => some Instr.kbrkb
  | 6 => some Instr.kbrka
  | 7 => some Instr.kbrkf
  | 8 => some Instr.kfirst
  | 9 => some Instr.kcount
  | 10 => some Instr.kiota
  | 11 => some Instr.vid
  | _ => none

/-- Major 0x37 (R56). -/
def v37Ctor (minor : Nat) : Option (VOp → Instr) :=
  match minor with
  | 0 => some Instr.vmv
  | 1 => some Instr.vsplat
  | 2 => some Instr.vsplati
  | 3 => some Instr.vmvxs
  | 4 => some Instr.vmvsx
  | 5 => some Instr.vmerge
  | 6 => some Instr.vextract
  | _ => none

/-- Major 0x38 (R56). -/
def v38Ctor (minor : Nat) : Option (VOp → Instr) :=
  match minor with
  | 0 => some Instr.vladd
  | 1 => some Instr.vlsub
  | 2 => some Instr.vlpow
  | 3 => some Instr.vlrecip
  | _ => none

/-- Major 0x64 (R56). -/
def v64Ctor (minor : Nat) : Option (VOp → Instr) :=
  match minor with
  | 0 => some Instr.vopa
  | _ => none

/-- Major 0x50, by `mode` (R56). -/
def vm50Ctor (minor : Nat) : Option (VMOp → Instr) :=
  match minor with
  | 0 => some Instr.vld
  | 1 => some Instr.vlds
  | 2 => some Instr.vldx
  | 3 => some Instr.vldxo
  | 4 => some Instr.vldc
  | _ => none

/-- Major 0x51, by `mode` (R56). -/
def vm51Ctor (minor : Nat) : Option (VMOp → Instr) :=
  match minor with
  | 0 => some Instr.vst
  | 1 => some Instr.vsts
  | 2 => some Instr.vstx
  | 3 => some Instr.vstxo
  | 4 => some Instr.vstc
  | _ => none

/-- Major 0x52 (R56). -/
def vamoCtor (minor : Nat) : Option (BitVec 3 → VMOp → Instr) :=
  match minor with
  | 0 => some Instr.vamoAdd
  | 1 => some Instr.vamoMin
  | 2 => some Instr.vamoMax
  | 3 => some Instr.vamoMinN
  | 4 => some Instr.vamoMaxN
  | 5 => some Instr.vamoAnd
  | 6 => some Instr.vamoOr
  | 7 => some Instr.vamoXor
  | 8 => some Instr.vamoSwap
  | 9 => some Instr.vamoFadd
  | _ => none

/-- The table of a major of format V (R56). -/
def vCtor (major : Nat) (minor : Nat) : Option (VOp → Instr) :=
  match major with
  | 0x30 => v30Ctor minor
  | 0x31 => v31Ctor minor
  | 0x32 => v32Ctor minor
  | 0x33 => v33Ctor minor
  | 0x34 => v34Ctor minor
  | 0x35 => v35Ctor minor
  | 0x36 => v36Ctor minor
  | 0x37 => v37Ctor minor
  | 0x38 => v38Ctor minor
  | 0x64 => v64Ctor minor
  | _ => none

/-- The fields of format V; `imm` says that bit 5 of `minor` selects the immediate form (R51, R52, R54). -/
def Code.vop (c : Code) (imm : Bool) : VOp :=
  { vd := c.f.extractLsb' 0 5, vs1 := c.fld 0 5,
    src2 := if imm then .imm (c.fld 32 16) else if c.f.getLsbD 5 then .x (c.fld 5 6) else .v (c.fld 5 5),
    vs3 := c.fld 11 5, k := c.fld 16 3, zm := c.tail.getLsbD 19, et := c.fld 20 4, rm := c.fld 30 2,
    opt := if imm then 0 else c.fld 32 16 }

/-- The second-source field of format V is broken: bit 5 of a v register name, or `s2`, `sx` in the immediate form (R52, R54). -/
def Code.badS2 (c : Code) (imm : Bool) : Bool :=
  if imm then c.f.getLsbD 5 || c.fld 5 6 != 0 else !c.f.getLsbD 5 && c.tail.getLsbD 10

/-- The fields of format VM (R51). -/
def Code.vmop (c : Code) : VMOp :=
  { v := c.f.extractLsb' 0 5, base := c.fld 0 6, idx := c.fld 6 6, iw := c.fld 26 2, k := c.fld 12 3,
    zm := c.tail.getLsbD 15, et := c.fld 16 4, ff := c.tail.getLsbD 23, nt := c.tail.getLsbD 24,
    r := c.tail.getLsbD 25, aux := c.fld 32 6, imm := c.fld 38 26 }

/-- The fields of format MX (R51, R191). -/
def Code.mxop (c : Code) : MXOp :=
  { zi := c.f.getLsbD 5, w := c.f.extractLsb' 3 2, z := c.f.extractLsb' 0 3, sub := c.tail.getLsbD 21,
    xdep := c.fld 15 6, xcol := c.fld 9 6, xrow := c.fld 3 6, sl := c.tail.getLsbD 2, lf := c.tail.getLsbD 1,
    q := c.tail.getLsbD 0 }

/-- The fields of format TM (R51). -/
def Code.tmop (c : Code) : TMOp :=
  { xd := c.f, imm := c.fld 38 26, xcols := c.fld 28 6, xrows := c.fld 22 6, stride := c.fld 16 6,
    base := c.fld 10 6, sl := c.tail.getLsbD 9, ff := c.tail.getLsbD 8, mtype := c.fld 4 4, tile := c.fld 0 4 }

/-- The fields of format S (R51). -/
def Code.stripop (c : Code) : StripOp :=
  { off := c.fld 48 16, y := c.tail.getLsbD 32, p1 := c.fld 0 6, p2 := c.fld 6 6, p3 := c.fld 12 6, p4 := c.fld 18 6,
    e1 := c.fld 24 2, e2 := c.fld 26 2, e3 := c.fld 28 2, e4 := c.fld 30 2 }

/-- `aux8` of a scalar atomic (R93). -/
def Code.amoop (c : Code) : AmoOp := { rel := c.tail.getLsbD 27, acq := c.tail.getLsbD 26, w := c.fld 24 2 }

/-- The result of a table lookup. -/
def orUnassigned : Option Instr → Except DecodeError Instr
  | some i => .ok i
  | none => .error .unassigned

/-- A reserved field is zero, or the encoding is refused (R53). -/
def needZero {n : Nat} (b : BitVec n) (k : Except DecodeError Instr) : Except DecodeError Instr :=
  if b = 0 then k else .error .reservedField

/-- `tl` is the format's (R57), or the encoding is refused. -/
def needTl (c : Code) (tl : BitVec 3) (k : Except DecodeError Instr) : Except DecodeError Instr :=
  if c.tl = tl then k else .error .tailLength

/-- Misc (R101). -/
def decodeMisc (c : Code) : Except DecodeError Instr :=
  needTl c 0 <|
  match c.f.toNat with
  | 0 => .ok .nop
  | 1 => .ok .yield
  | 2 => .ok .exit
  | 3 => .ok .eret
  | 4 => .ok .wfi
  | 5 => .ok .fenceI
  | 6 => .ok .twait
  | 7 => .ok .fwait
  | _ => .error .unassigned

/-- Format B majors: 0x01, 0x02, 0x0C, 0x15, 0x17 (R56). -/
def decodeB (c : Code) : Except DecodeError Instr :=
  needTl c 1 <|
  let s1 : XReg := c.fld 0 6
  let s2 : XReg := c.fld 6 6
  let minor := (c.fld 12 4).toNat
  match c.major.toNat with
  | 0x01 => orUnassigned ((aluCtor minor).map fun k => k c.f s1 s2)
  | 0x02 =>
    match alu2Ctor minor, alu2Ctor1 minor with
    | some k, _ => .ok (k c.f s1 s2)
    | none, some k => needZero s2 (.ok (k c.f s1))
    | none, none => .error .unassigned
  | 0x0C => if minor = 0 then .ok (.claim c.f s2 s1) else .error .unassigned
  | 0x15 =>
    match minor with
    | 0 => needZero c.f (.ok (.larm s1 s2))
    | 1 => .ok (.lwait c.f s1 s2)
    | 2 => needZero s2 (.ok (.lread c.f s1))
    | 3 => needZero c.f (.ok (.linit s1 s2))
    | _ => .error .unassigned
  | 0x17 =>
    match minor with
    | 0 => .ok (.lpost c.f s1 s2)
    | 1 => needZero s2 (.ok (.glaunch c.f s1))
    | 2 => .ok (.gwait c.f s1 s2)
    | 3 => needZero s1 (needZero s2 (.ok (.getid c.f)))
    | _ => .error .unassigned
  | _ => .error .reservedMajor

/-- Format I majors: 0x03, 0x04, 0x08, 0x0B, 0x0D, 0x0E (R56). -/
def decodeI (c : Code) : Except DecodeError Instr :=
  needTl c 2 <|
  let s1 : XReg := c.fld 0 6
  let sub := (c.fld 6 2).toNat
  let imm : BitVec 24 := c.fld 8 24
  match c.major.toNat with
  | 0x03 => orUnassigned ((imm3Ctor sub).map fun k => k c.f s1 imm)
  | 0x04 => orUnassigned ((imm4Ctor sub).map fun k => k c.f s1 imm)
  | 0x08 => if sub = 0 then .ok (.jalr c.f s1 imm) else .error .unassigned
  | 0x0B => if sub = 0 then needZero (c.fld 16 16) (.ok (.setvl c.f s1 (c.fld 8 8))) else .error .unassigned
  | 0x0D =>
    match sub with
    | 0 => needZero (c.fld 20 12) (needZero s1 (.ok (.crd c.f (c.fld 8 12))))
    | 1 => needZero (c.fld 20 12) (needZero c.f (.ok (.cwr (c.fld 8 12) s1)))
    | _ => .error .unassigned
  | 0x0E =>
    needZero c.f <|
    match sub with
    | 0 => needZero s1 (.ok (.trap imm))
    | 1 =>
      needZero (c.fld 10 22) <|
      match (c.fld 8 2).toNat with
      | 0 => .ok (.tlbinvPage s1)
      | 1 => .ok (.tlbinvCtx s1)
      | 2 => needZero s1 (.ok .tlbinvAll)
      | _ => .error .unassigned
    | 2 => needZero imm (.ok (.vsave s1))
    | 3 => needZero imm (.ok (.vrest s1))
    | _ => .error .unassigned
  | _ => .error .reservedMajor

/-- Format LS majors: 0x10, 0x11 (R88, R89). -/
def decodeLS (c : Code) : Except DecodeError Instr :=
  needTl c 2 <|
  let ty : BitVec 4 := c.fld 6 4
  match c.major.toNat with
  | 0x10 => if ty.ult 7 then .ok (.ld c.f (c.fld 0 6) (c.fld 11 21) ty (c.tail.getLsbD 10)) else .error .unassigned
  | 0x11 => if ty.ult 4 then .ok (.st c.f (c.fld 0 6) (c.fld 11 21) ty (c.tail.getLsbD 10)) else .error .unassigned
  | _ => .error .reservedMajor

/-- Format C: `amo` (R93). -/
def decodeAmo (c : Code) : Except DecodeError Instr :=
  let minor := (c.fld 18 6).toNat
  needZero (c.fld 28 4) <|
  if minor = 9 then .ok (.amoCas c.f (c.fld 0 6) (c.fld 6 6) (c.fld 12 6) c.amoop)
  else needZero (c.fld 12 6) (orUnassigned ((amoCtor minor).map fun k => k c.f (c.fld 0 6) (c.fld 6 6) c.amoop))

/-- Format C: sync (R215). -/
def decodeSync (c : Code) : Except DecodeError Instr :=
  let s1 : XReg := c.fld 0 6
  let s2 : XReg := c.fld 6 6
  let s3 : XReg := c.fld 12 6
  let sc : BitVec 8 := c.fld 24 8
  match (c.fld 18 6).toNat with
  | 0 => needZero c.f (.ok (.bind s1 s2 s3 sc))
  | 1 => needZero c.f (needZero s2 (needZero s3 (.ok (.unbind s1 sc))))
  | 2 => needZero s3 (.ok (.acq c.f s1 s2 sc))
  | 3 => needZero c.f (needZero s2 (needZero s3 (.ok (.rel s1 sc))))
  | 4 => needZero c.f (needZero s1 (needZero s2 (needZero s3 (.ok (.fence sc)))))
  | _ => .error .unassigned

/-- Format C: scalar FP (R97). -/
def decodeFp (c : Code) : Except DecodeError Instr :=
  let s1 : XReg := c.fld 0 6
  let s2 : XReg := c.fld 6 6
  let s3 : XReg := c.fld 12 6
  let t : BitVec 8 := c.fld 24 8
  let minor := (c.fld 18 6).toNat
  match minor with
  | 4 => needZero s3 (needZero s2 (.ok (.fsqrt c.f s1 t)))
  | 7 => .ok (.fma c.f s1 s2 s3 t)
  | 8 => needZero s3 (needZero s2 (.ok (.fcvt c.f s1 t)))
  | 12 => needZero s3 (needZero s2 (.ok (.fclass c.f s1 t)))
  | _ => needZero s3 (orUnassigned ((fp2Ctor minor).map fun k => k c.f s1 s2 t))

/-- Format C: fabric and cursors (R234, R239, R247). -/
def decodeFabric (c : Code) : Except DecodeError Instr :=
  let s1 : XReg := c.fld 0 6
  let s2 : XReg := c.fld 6 6
  needZero (c.fld 12 6) <|
  match (c.fld 18 6).toNat with
  | 0 => needZero c.f (needZero s2 (needZero (c.fld 24 8) (.ok (if s1 = 0 then .fcfgRelease else .fcfg s1))))
  | 1 => needZero s2 (needZero (c.fld 24 8) (.ok (.frun c.f s1)))
  | 2 => needZero c.f (needZero (c.fld 27 5) (.ok (.sopen (c.fld 24 2) s1 s2 (c.tail.getLsbD 26))))
  | 3 => needZero (c.fld 28 4) (needZero (c.fld 5 1) (needZero (c.fld 11 1)
      (.ok (.smatch c.f (c.fld 0 5) (c.fld 6 5) (c.fld 24 2) (c.fld 26 2)))))
  | 4 => needZero s2 (needZero (c.fld 26 6) (.ok (.sseek c.f (c.fld 24 2) s1)))
  | 5 => needZero c.f (needZero s1 (needZero s2 (needZero (c.fld 26 6) (.ok (.sclose (c.fld 24 2))))))
  | _ => .error .unassigned

/-- Format C: rows between z and v (R194). -/
def decodeZ (c : Code) : Except DecodeError Instr :=
  let s1 : XReg := c.fld 0 6
  let s2 : XReg := c.fld 6 6
  let z : BitVec 3 := c.fld 24 3
  needZero (c.fld 27 5) <| needZero (c.fld 12 6) <|
  match (c.fld 18 6).toNat with
  | 0 => needZero c.f (needZero s1 (needZero s2 (.ok (.tzero z))))
  | 1 => needZero s2 (needZero (c.f.extractLsb' 5 1) (.ok (.tmovr (c.f.extractLsb' 0 5) z s1)))
  | 2 => needZero c.f (needZero (c.fld 11 1) (.ok (.tmvr z (c.fld 6 5) s1)))
  | _ => .error .unassigned

/-- Format C majors: 0x12, 0x13, 0x14, 0x16, 0x18, 0x63 (R56). -/
def decodeC (c : Code) : Except DecodeError Instr :=
  needTl c 2 <|
  match c.major.toNat with
  | 0x12 => decodeAmo c
  | 0x13 => decodeSync c
  | 0x14 => decodeFp c
  | 0x16 =>
    needZero (c.fld 24 8) (needZero (c.fld 12 6)
      (orUnassigned ((copyCtor (c.fld 18 6).toNat).map fun k => k c.f (c.fld 0 6) (c.fld 6 6))))
  | 0x18 => decodeFabric c
  | 0x63 => decodeZ c
  | _ => .error .reservedMajor

/-- Format V majors (R51, R54). -/
def decodeV (c : Code) : Except DecodeError Instr :=
  needTl c 3 <|
  let imm := c.tail.getLsbD 29
  if c.badS2 imm then .error .reservedField
  else orUnassigned ((vCtor c.major.toNat (c.fld 24 5).toNat).map fun k => k (c.vop imm))

/-- Format VM majors (R51, R156, R167). -/
def decodeVM (c : Code) : Except DecodeError Instr :=
  needTl c 4 <|
  needZero (c.f.extractLsb' 5 1) <|
  let minor : BitVec 4 := c.fld 28 4
  let mode : BitVec 3 := c.fld 20 3
  match c.major.toNat with
  | 0x50 => needZero minor (orUnassigned ((vm50Ctor mode.toNat).map fun k => k c.vmop))
  | 0x51 => needZero minor (orUnassigned ((vm51Ctor mode.toNat).map fun k => k c.vmop))
  | 0x52 => orUnassigned ((vamoCtor minor.toNat).map fun k => k mode c.vmop)
  | _ => .error .reservedMajor

/-- Formats MX and TM (R191, R199). -/
def decodeTile (c : Code) : Except DecodeError Instr :=
  needTl c 4 <|
  match c.major.toNat with
  | 0x60 =>
    needZero (c.fld 26 38) <|
    match (c.fld 22 4).toNat with
    | 0 => .ok (.tmma c.mxop)
    | 1 => .ok (.tmms c.mxop)
    | _ => .error .unassigned
  | 0x61 => needZero (c.fld 34 4) (.ok (.tld c.tmop))
  | 0x62 => needZero (c.fld 34 4) (.ok (.tst c.tmop))
  | _ => .error .reservedMajor

/-- Formats L, P, BC and S (R81–R85, R143). -/
def decodeWide (c : Code) : Except DecodeError Instr :=
  match c.major.toNat with
  | 0x05 => needTl c 4 (.ok (.li c.f c.tail))
  | 0x06 => needTl c 2 (.ok (.adr c.f (c.fld 0 32)))
  | 0x07 => needTl c 2 (.ok (.jal c.f (c.fld 0 32)))
  | 0x09 =>
    needTl c 2 (needZero c.f
      (orUnassigned ((branchCtor (c.fld 12 3).toNat).map fun k => k (c.fld 0 6) (c.fld 6 6) (c.fld 15 17))))
  | 0x0A => needTl c 4 (needZero (c.fld 33 15) (.ok (.strip c.f c.stripop)))
  | _ => .error .reservedMajor

/-- The instruction a code's fields name, its majors by format (R56). -/
def readFields (c : Code) : Except DecodeError Instr :=
  match c.major.toNat with
  | 0x00 => decodeMisc c
  | 0x01 | 0x02 | 0x0C | 0x15 | 0x17 => decodeB c
  | 0x03 | 0x04 | 0x08 | 0x0B | 0x0D | 0x0E => decodeI c
  | 0x05 | 0x06 | 0x07 | 0x09 | 0x0A => decodeWide c
  | 0x10 | 0x11 => decodeLS c
  | 0x12 | 0x13 | 0x14 | 0x16 | 0x18 | 0x63 => decodeC c
  | 0x30 | 0x31 | 0x32 | 0x33 | 0x34 | 0x35 | 0x36 | 0x37 | 0x38 | 0x64 => decodeV c
  | 0x50 | 0x51 | 0x52 => decodeVM c
  | 0x60 | 0x61 | 0x62 => decodeTile c
  | 0x7F => .ok (.udf c.tl c.f)
  | _ => .error .reservedMajor

/-- The decoder: the fields, and then the checks of the instruction's entry. -/
def decode (c : Code) : Except DecodeError Instr :=
  match readFields c with
  | .error e => .error e
  | .ok i =>
    match check i with
    | none => .ok i
    | some e => .error e

/-- The instruction from an instruction's bits as spec/opcode_table.json numbers them: bits 15:0 are the head, bit 16 is tail
bit 0. The table gives no row more bits than these. -/
def decodeTableWord (nbits w : Nat) : Option Instr :=
  if nbits < 16 then none
  else (decode { head := BitVec.ofNat 16 w, tail := BitVec.ofNat 64 (w / 2 ^ 16) }).toOption

/-! ### The encoder -/

/-- A code from its head fields and a tail of `n` bits. -/
def codeOf {n : Nat} (major : BitVec 7) (tl : BitVec 3) (f : BitVec 6) (t : BitVec n) : Code :=
  { head := headOf major tl f, tail := t.setWidth 64 }

/-- Format B. -/
def encB (major : BitVec 7) (minor : BitVec 4) (f s1 s2 : XReg) : Code := codeOf major 1 f (minor ++ s2 ++ s1)

/-- Format C. -/
def encC (major : BitVec 7) (minor : BitVec 6) (f s1 s2 s3 : XReg) (aux : BitVec 8) : Code :=
  codeOf major 2 f (aux ++ minor ++ s3 ++ s2 ++ s1)

/-- Format I. -/
def encI (major : BitVec 7) (sub : BitVec 2) (f s1 : XReg) (imm : BitVec 24) : Code := codeOf major 2 f (imm ++ sub ++ s1)

/-- Format LS. -/
def encLS (major : BitVec 7) (f base : XReg) (off : BitVec 21) (ty : BitVec 4) (ord : Bool) : Code :=
  codeOf major 2 f (off ++ BitVec.ofBool ord ++ ty ++ base)

/-- Format BC. -/
def encBC (cond : BitVec 3) (s1 s2 : XReg) (off : BitVec 17) : Code := codeOf 0x09 2 0 (off ++ cond ++ s2 ++ s1)

/-- The `sx`, `s2`, immediate-form bit and `imm16` of a second source. -/
def encSrc2 (opt : BitVec 16) : Src2 → Bool × BitVec 6 × Bool × BitVec 16
  | .v r => (false, (0 : BitVec 1) ++ r, false, opt)
  | .x r => (true, r, false, opt)
  | .imm i => (false, 0, true, i)

/-- Format V. -/
def encV (major : BitVec 7) (minor : BitVec 5) (o : VOp) : Code :=
  let p := encSrc2 o.opt o.src2
  codeOf major 3 (BitVec.ofBool p.1 ++ o.vd)
    (p.2.2.2 ++ o.rm ++ BitVec.ofBool p.2.2.1 ++ minor ++ o.et ++ BitVec.ofBool o.zm ++ o.k ++ o.vs3 ++ p.2.1 ++ o.vs1)

/-- Format VM. -/
def encVM (major : BitVec 7) (minor : BitVec 4) (mode : BitVec 3) (o : VMOp) : Code :=
  codeOf major 4 ((0 : BitVec 1) ++ o.v)
    (o.imm ++ o.aux ++ minor ++ o.iw ++ BitVec.ofBool o.r ++ BitVec.ofBool o.nt ++ BitVec.ofBool o.ff ++ mode ++ o.et ++
      BitVec.ofBool o.zm ++ o.k ++ o.idx ++ o.base)

/-- Format MX. -/
def encMX (minor : BitVec 4) (o : MXOp) : Code :=
  codeOf 0x60 4 (BitVec.ofBool o.zi ++ o.w ++ o.z)
    (minor ++ BitVec.ofBool o.sub ++ o.xdep ++ o.xcol ++ o.xrow ++ BitVec.ofBool o.sl ++ BitVec.ofBool o.lf ++
      BitVec.ofBool o.q)

/-- Format TM. -/
def encTM (major : BitVec 7) (o : TMOp) : Code :=
  codeOf major 4 o.xd
    (o.imm ++ (0 : BitVec 4) ++ o.xcols ++ o.xrows ++ o.stride ++ o.base ++ BitVec.ofBool o.sl ++ BitVec.ofBool o.ff ++
      o.mtype ++ o.tile)

/-- Format S. -/
def encS (c : XReg) (o : StripOp) : Code :=
  codeOf 0x0A 4 c
    (o.off ++ (0 : BitVec 15) ++ BitVec.ofBool o.y ++ o.e4 ++ o.e3 ++ o.e2 ++ o.e1 ++ o.p4 ++ o.p3 ++ o.p2 ++ o.p1)

/-- `aux8` of a scalar atomic. -/
def encAmo (o : AmoOp) : BitVec 8 := (0 : BitVec 4) ++ BitVec.ofBool o.rel ++ BitVec.ofBool o.acq ++ o.w

/-- The encoding of an instruction; an event of the device has none. -/
def encode : Instr → Option Code
  | .nop => some (codeOf 0x00 0 0 (0 : BitVec 1))
  | .yield => some (codeOf 0x00 0 1 (0 : BitVec 1))
  | .exit => some (codeOf 0x00 0 2 (0 : BitVec 1))
  | .eret => some (codeOf 0x00 0 3 (0 : BitVec 1))
  | .wfi => some (codeOf 0x00 0 4 (0 : BitVec 1))
  | .fenceI => some (codeOf 0x00 0 5 (0 : BitVec 1))
  | .twait => some (codeOf 0x00 0 6 (0 : BitVec 1))
  | .fwait => some (codeOf 0x00 0 7 (0 : BitVec 1))
  | .udf t f => some { head := headOf 0x7F t f, tail := 0 }
  | .add d a b => some (encB 0x01 0 d a b)
  | .sub d a b => some (encB 0x01 1 d a b)
  | .and d a b => some (encB 0x01 2 d a b)
  | .or d a b => some (encB 0x01 3 d a b)
  | .xor d a b => some (encB 0x01 4 d a b)
  | .sll d a b => some (encB 0x01 5 d a b)
  | .srl d a b => some (encB 0x01 6 d a b)
  | .sra d a b => some (encB 0x01 7 d a b)
  | .slt d a b => some (encB 0x01 8 d a b)
  | .sltN d a b => some (encB 0x01 9 d a b)
  | .mul d a b => some (encB 0x01 10 d a b)
  | .mulh d a b => some (encB 0x01 11 d a b)
  | .mulhN d a b => some (encB 0x01 12 d a b)
  | .div d a b => some (encB 0x01 13 d a b)
  | .divN d a b => some (encB 0x01 14 d a b)
  | .rem d a b => some (encB 0x01 15 d a b)
  | .remN d a b => some (encB 0x02 0 d a b)
  | .min d a b => some (encB 0x02 1 d a b)
  | .max d a b => some (encB 0x02 2 d a b)
  | .minN d a b => some (encB 0x02 3 d a b)
  | .maxN d a b => some (encB 0x02 4 d a b)
  | .andn d a b => some (encB 0x02 5 d a b)
  | .orn d a b => some (encB 0x02 6 d a b)
  | .clz d a => some (encB 0x02 7 d a 0)
  | .ctz d a => some (encB 0x02 8 d a 0)
  | .cpop d a => some (encB 0x02 9 d a 0)
  | .sext8 d a => some (encB 0x02 10 d a 0)
  | .sext16 d a => some (encB 0x02 11 d a 0)
  | .sext32 d a => some (encB 0x02 12 d a 0)
  | .zext32 d a => some (encB 0x02 13 d a 0)
  | .addi d a imm => some (encI 0x03 0 d a imm)
  | .andi d a imm => some (encI 0x03 1 d a imm)
  | .ori d a imm => some (encI 0x03 2 d a imm)
  | .xori d a imm => some (encI 0x03 3 d a imm)
  | .slli d a imm => some (encI 0x04 0 d a imm)
  | .srli d a imm => some (encI 0x04 1 d a imm)
  | .srai d a imm => some (encI 0x04 2 d a imm)
  | .slti d a imm => some (encI 0x04 3 d a imm)
  | .li d imm => some (codeOf 0x05 4 d imm)
  | .adr d imm => some (codeOf 0x06 2 d imm)
  | .jal l off => some (codeOf 0x07 2 l off)
  | .jalr l a off => some (encI 0x08 0 l a off)
  | .beq a b off => some (encBC 0 a b off)
  | .bne a b off => some (encBC 1 a b off)
  | .blt a b off => some (encBC 2 a b off)
  | .bge a b off => some (encBC 3 a b off)
  | .bltN a b off => some (encBC 4 a b off)
  | .bgeN a b off => some (encBC 5 a b off)
  | .strip c o => some (encS c o)
  | .setvl d a vt => some (encI 0x0B 0 d a ((0 : BitVec 16) ++ vt))
  | .claim d req c => some (encB 0x0C 0 d c req)
  | .crd d n => some (encI 0x0D 0 d 0 ((0 : BitVec 12) ++ n))
  | .cwr n a => some (encI 0x0D 1 0 a ((0 : BitVec 12) ++ n))
  | .trap code => some (encI 0x0E 0 0 0 code)
  | .tlbinvPage a => some (encI 0x0E 1 0 a 0)
  | .tlbinvCtx a => some (encI 0x0E 1 0 a 1)
  | .tlbinvAll => some (encI 0x0E 1 0 0 2)
  | .vsave a => some (encI 0x0E 2 0 a 0)
  | .vrest a => some (encI 0x0E 3 0 a 0)
  | .ld d b off ty acq => some (encLS 0x10 d b off ty acq)
  | .st v b off ty rel => some (encLS 0x11 v b off ty rel)
  | .amoSwap d a b o => some (encC 0x12 0 d a b 0 (encAmo o))
  | .amoAdd d a b o => some (encC 0x12 1 d a b 0 (encAmo o))
  | .amoAnd d a b o => some (encC 0x12 2 d a b 0 (encAmo o))
  | .amoOr d a b o => some (encC 0x12 3 d a b 0 (encAmo o))
  | .amoXor d a b o => some (encC 0x12 4 d a b 0 (encAmo o))
  | .amoMin d a b o => some (encC 0x12 5 d a b 0 (encAmo o))
  | .amoMax d a b o => some (encC 0x12 6 d a b 0 (encAmo o))
  | .amoMinN d a b o => some (encC 0x12 7 d a b 0 (encAmo o))
  | .amoMaxN d a b o => some (encC 0x12 8 d a b 0 (encAmo o))
  | .amoCas d a e n o => some (encC 0x12 9 d a e n (encAmo o))
  | .bind obj base len sc => some (encC 0x13 0 0 obj base len sc)
  | .unbind obj sc => some (encC 0x13 1 0 obj 0 0 sc)
  | .acq d obj mn sc => some (encC 0x13 2 d obj mn 0 sc)
  | .rel obj sc => some (encC 0x13 3 0 obj 0 0 sc)
  | .fence sc => some (encC 0x13 4 0 0 0 0 sc)
  | .fadd d a b t => some (encC 0x14 0 d a b 0 t)
  | .fsub d a b t => some (encC 0x14 1 d a b 0 t)
  | .fmul d a b t => some (encC 0x14 2 d a b 0 t)
  | .fdiv d a b t => some (encC 0x14 3 d a b 0 t)
  | .fsqrt d a t => some (encC 0x14 4 d a 0 0 t)
  | .fmin d a b t => some (encC 0x14 5 d a b 0 t)
  | .fmax d a b t => some (encC 0x14 6 d a b 0 t)
  | .fma d a b c t => some (encC 0x14 7 d a b c t)
  | .fcvt d a t => some (encC 0x14 8 d a 0 0 t)
  | .fcmpEq d a b t => some (encC 0x14 9 d a b 0 t)
  | .fcmpLt d a b t => some (encC 0x14 10 d a b 0 t)
  | .fcmpLe d a b t => some (encC 0x14 11 d a b 0 t)
  | .fclass d a t => some (encC 0x14 12 d a 0 0 t)
  | .larm l t => some (encB 0x15 0 0 l t)
  | .lwait d l g => some (encB 0x15 1 d l g)
  | .lread d l => some (encB 0x15 2 d l 0)
  | .linit l g => some (encB 0x15 3 0 l g)
  | .cpy d p l => some (encC 0x16 0 d p l 0 0)
  | .cpy2d d p l => some (encC 0x16 1 d p l 0 0)
  | .sxfer d p l => some (encC 0x16 2 d p l 0 0)
  | .mdec d p l => some (encC 0x16 3 d p l 0 0)
  | .nxfer d p l => some (encC 0x16 4 d p l 0 0)
  | .lpost d p q => some (encB 0x17 0 d p q)
  | .glaunch d g => some (encB 0x17 1 d g 0)
  | .gwait d g gen => some (encB 0x17 2 d g gen)
  | .getid d => some (encB 0x17 3 d 0 0)
  | .fcfg a => some (encC 0x18 0 0 a 0 0 0)
  | .fcfgRelease => some (encC 0x18 0 0 0 0 0 0)
  | .frun d n => some (encC 0x18 1 d n 0 0 0)
  | .sopen c base len k64 => some (encC 0x18 2 0 base len 0 ((0 : BitVec 5) ++ BitVec.ofBool k64 ++ c))
  | .smatch d va vb ca cb => some (encC 0x18 3 d ((0 : BitVec 1) ++ va) ((0 : BitVec 1) ++ vb) 0 ((0 : BitVec 4) ++ cb ++ ca))
  | .sseek d c key => some (encC 0x18 4 d key 0 0 ((0 : BitVec 6) ++ c))
  | .sclose c => some (encC 0x18 5 0 0 0 0 ((0 : BitVec 6) ++ c))
  | .vaddInt o => some (encV 0x30 0 o)
  | .vsubInt o => some (encV 0x30 1 o)
  | .vmulInt o => some (encV 0x30 2 o)
  | .vmulh o => some (encV 0x30 3 o)
  | .vmulhN o => some (encV 0x30 4 o)
  | .vdivInt o => some (encV 0x30 5 o)
  | .vdivN o => some (encV 0x30 6 o)
  | .vrem o => some (encV 0x30 7 o)
  | .vremN o => some (encV 0x30 8 o)
  | .vminInt o => some (encV 0x30 9 o)
  | .vminN o => some (encV 0x30 10 o)
  | .vmaxInt o => some (encV 0x30 11 o)
  | .vmaxN o => some (encV 0x30 12 o)
  | .vand o => some (encV 0x30 13 o)
  | .vor o => some (encV 0x30 14 o)
  | .vxor o => some (encV 0x30 15 o)
  | .vsll o => some (encV 0x30 16 o)
  | .vsrl o => some (encV 0x30 17 o)
  | .vsra o => some (encV 0x30 18 o)
  | .vaddsat o => some (encV 0x30 19 o)
  | .vaddsatN o => some (encV 0x30 20 o)
  | .vsubsat o => some (encV 0x30 21 o)
  | .vsubsatN o => some (encV 0x30 22 o)
  | .vabsInt o => some (encV 0x30 23 o)
  | .vnegInt o => some (encV 0x30 24 o)
  | .vmacc o => some (encV 0x30 25 o)
  | .vclz o => some (encV 0x30 26 o)
  | .vcpop o => some (encV 0x30 27 o)
  | .vaddFp o => some (encV 0x31 0 o)
  | .vsubFp o => some (encV 0x31 1 o)
  | .vmulFp o => some (encV 0x31 2 o)
  | .vdivFp o => some (encV 0x31 3 o)
  | .vsqrt o => some (encV 0x31 4 o)
  | .vminFp o => some (encV 0x31 5 o)
  | .vmaxFp o => some (encV 0x31 6 o)
  | .vfma o => some (encV 0x31 7 o)
  | .vfms o => some (encV 0x31 8 o)
  | .vfnma o => some (encV 0x31 9 o)
  | .vrsqrte o => some (encV 0x31 10 o)
  | .vrcpe o => some (encV 0x31 11 o)
  | .vabsFp o => some (encV 0x31 12 o)
  | .vnegFp o => some (encV 0x31 13 o)
  | .vsgnj o => some (encV 0x31 14 o)
  | .vclass o => some (encV 0x31 15 o)
  | .vround o => some (encV 0x31 16 o)
  | .veq o => some (encV 0x32 0 o)
  | .vne o => some (encV 0x32 1 o)
  | .vlt o => some (encV 0x32 2 o)
  | .vle o => some (encV 0x32 3 o)
  | .vgt o => some (encV 0x32 4 o)
  | .vge o => some (encV 0x32 5 o)
  | .vltN o => some (encV 0x32 6 o)
  | .vleN o => some (encV 0x32 7 o)
  | .vgtN o => some (encV 0x32 8 o)
  | .vgeN o => some (encV 0x32 9 o)
  | .vnz o => some (encV 0x32 10 o)
  | .vnan o => some (encV 0x32 11 o)
  | .vcvt o => some (encV 0x33 0 o)
  | .vcvtSat o => some (encV 0x33 1 o)
  | .vretag o => some (encV 0x33 2 o)
  | .vquant o => some (encV 0x33 3 o)
  | .vredsumOrd o => some (encV 0x34 0 o)
  | .vredsumTree o => some (encV 0x34 1 o)
  | .vredmax o => some (encV 0x34 2 o)
  | .vredmin o => some (encV 0x34 3 o)
  | .vredand o => some (encV 0x34 4 o)
  | .vredor o => some (encV 0x34 5 o)
  | .vredxor o => some (encV 0x34 6 o)
  | .vslideup o => some (encV 0x35 0 o)
  | .vslidedown o => some (encV 0x35 1 o)
  | .vslide1up o => some (encV 0x35 2 o)
  | .vslide1down o => some (encV 0x35 3 o)
  | .vgather o => some (encV 0x35 4 o)
  | .vcompress o => some (encV 0x35 5 o)
  | .vexpand o => some (encV 0x35 6 o)
  | .vrev o => some (encV 0x35 7 o)
  | .kand o => some (encV 0x36 0 o)
  | .kor o => some (encV 0x36 1 o)
  | .kxor o => some (encV 0x36 2 o)
  | .knot o => some (encV 0x36 3 o)
  | .kandn o => some (encV 0x36 4 o)
  | .kbrkb o => some (encV 0x36 5 o)
  | .kbrka o => some (encV 0x36 6 o)
  | .kbrkf o => some (encV 0x36 7 o)
  | .kfirst o => some (encV 0x36 8 o)
  | .kcount o => some (encV 0x36 9 o)
  | .kiota o => some (encV 0x36 10 o)
  | .vid o => some (encV 0x36 11 o)
  | .vmv o => some (encV 0x37 0 o)
  | .vsplat o => some (encV 0x37 1 o)
  | .vsplati o => some (encV 0x37 2 o)
  | .vmvxs o => some (encV 0x37 3 o)
  | .vmvsx o => some (encV 0x37 4 o)
  | .vmerge o => some (encV 0x37 5 o)
  | .vextract o => some (encV 0x37 6 o)
  | .vladd o => some (encV 0x38 0 o)
  | .vlsub o => some (encV 0x38 1 o)
  | .vlpow o => some (encV 0x38 2 o)
  | .vlrecip o => some (encV 0x38 3 o)
  | .vld o => some (encVM 0x50 0 0 o)
  | .vlds o => some (encVM 0x50 0 1 o)
  | .vldx o => some (encVM 0x50 0 2 o)
  | .vldxo o => some (encVM 0x50 0 3 o)
  | .vldc o => some (encVM 0x50 0 4 o)
  | .vst o => some (encVM 0x51 0 0 o)
  | .vsts o => some (encVM 0x51 0 1 o)
  | .vstx o => some (encVM 0x51 0 2 o)
  | .vstxo o => some (encVM 0x51 0 3 o)
  | .vstc o => some (encVM 0x51 0 4 o)
  | .vamoAdd mode o => some (encVM 0x52 0 mode o)
  | .vamoMin mode o => some (encVM 0x52 1 mode o)
  | .vamoMax mode o => some (encVM 0x52 2 mode o)
  | .vamoMinN mode o => some (encVM 0x52 3 mode o)
  | .vamoMaxN mode o => some (encVM 0x52 4 mode o)
  | .vamoAnd mode o => some (encVM 0x52 5 mode o)
  | .vamoOr mode o => some (encVM 0x52 6 mode o)
  | .vamoXor mode o => some (encVM 0x52 7 mode o)
  | .vamoSwap mode o => some (encVM 0x52 8 mode o)
  | .vamoFadd mode o => some (encVM 0x52 9 mode o)
  | .tmma o => some (encMX 0 o)
  | .tmms o => some (encMX 1 o)
  | .vopa o => some (encV 0x64 0 o)
  | .tzero z => some (encC 0x63 0 0 0 0 0 ((0 : BitVec 5) ++ z))
  | .tmovr vd z r => some (encC 0x63 1 ((0 : BitVec 1) ++ vd) r 0 0 ((0 : BitVec 5) ++ z))
  | .tmvr z vs r => some (encC 0x63 2 0 r ((0 : BitVec 1) ++ vs) 0 ((0 : BitVec 5) ++ z))
  | .tld o => some (encTM 0x61 o)
  | .tst o => some (encTM 0x62 o)
  | .elementFire _ _ _ _ => none
  | .tileStep _ _ _ => none
  | .ganderCheck _ _ _ _ => none
  | .hallQuiesce _ => none
  | .ztileDrop _ _ => none
  | .threadStart => none
  | .preempt _ => none
  | .preemptTimeout _ => none
  | .threadResume _ => none
  | .copyDrainTimeout _ _ => none
  | .transferComplete _ _ => none
  | .landingArrival _ _ => none
  | .graphInstanceStart _ _ => none
  | .graphGenerationFinish _ => none
  | .fabricNodeFire _ _ => none
  | .collectiveCombine _ _ _ => none
  | .collectiveTimeout _ _ => none
  | .trainReceive _ => none
  | .ackTagExpiry _ _ => none
  | .idempotentRetransmit _ => none
  | .idempotentTimeout _ => none
  | .nonidempotentRetransmit _ _ => none
  | .nonidempotentTimeout _ _ => none
  | .ownerRequest _ _ => none
  | .ownerAckPacket _ _ _ => none
  | .partialTrainDiscard _ _ => none
  | .remoteReply _ _ _ => none
  | .watermarkReport _ _ => none
  | .rvidSilenceTimeout _ _ => none
  | .quarantineEnd _ _ => none
  | .rvidRelease _ _ => none
  | .warmReset _ => none
  | .coldRestart _ _ => none
  | .liveMigration _ _ => none
  | .netRdmaWriteIn _ => none
  | .netRdmaReadIn _ => none
  | .netSendIn _ => none
  | .netAtomicIn _ => none
  | .throttleUpdate _ _ => none
  | .thermalShutdown => none
  | .boot => none
  | .bootComplete => none
  | .updreqWrite _ => none
  | .updreqRead => none
  | .hbeat => none
  | .updateHeartbeatTimeout => none
  | .registerWrite _ _ => none
  | .checkpoint => none
  | .checkpointRestore _ => none
  | .getVersion => none
  | .getCapabilities => none
  | .negotiateAlgorithms _ _ => none
  | .getDigests => none
  | .getCertificate _ => none
  | .challenge _ _ => none
  | .getMeasurements _ => none
  | .spdmUnsupported _ => none
  | .reservedEncoding _ _ => none
  | .writeAppliedAtHome _ _ => none
  | .remoteAccessIn _ => none
  | .linkCrcRetry _ _ => none
  | .galleryAllocation _ _ _ _ _ => none
  | .powerFailure => none

end Sys2Proof
end

