-- ==== Sys2Proof/Machine/State.lean ====
section
/-! DEFINITION. The state of the module as plain data: every piece of state INVENTORY.md lists, the two ways a step can
stop, and the state after reset. -/

namespace Sys2Proof.Machine

/-- A map from numbers to values in one canonical form: keys strictly rising, and no entry equal to the value that an
unlisted key reads as. -/
abbrev Sparse (α : Type) := List (Nat × α)

/-- Memory by physical address; an unlisted byte reads as 0 (log entry 2). -/
abbrev Memory := Sparse Byte

/-- Who executes instructions (spec/00 R2, R3). -/
inductive Agent where
  /-- the thread with this tile-local index on tile (hall, tile) -/
  | tile (hall tile idx : Nat)
  /-- a Benzia core -/
  | core (n : Nat)
  deriving DecidableEq, Repr

/-- What a thread is doing (spec/15 R257–R259, spec/16 R285, spec/22 R342). -/
inductive RunState where
  | running
  /-- pre-empted; at a yield point or not -/
  | suspended (atYield : Bool)
  | exited
  | aborted
  deriving DecidableEq, Repr

/-- The registers an exception saves into, and the vector base; one set for S and, on a core, one for M (R273, R274). -/
structure TrapRegs where
  ppl   : BitVec 2
  ie    : Bool
  pie   : Bool
  vec   : Word
  cause : Word
  epc   : Word
  val   : Word
  deriving DecidableEq, Repr

/-- A line read at an entry: its address and its 64 bytes, byte 0 lowest (spec/03 R42, R50). -/
structure Line where
  addr  : Word
  bytes : BitVec 512
  deriving DecidableEq, Repr

/-- One version of a v register (spec/04 R65–R69). `absent` lists the elements to come from its writer; `inherit` those, absent ones
among them, whose old value is still to come from the older version: a kept element becomes present with it. `base` gives old values
that are not the older version's: those of a version between the two that has closed. `writer` is the post number of the instruction
that opened the version. -/
structure VVer where
  tag     : EType
  data    : Sparse (BitVec 32)
  absent  : List Nat
  inherit : List Nat
  base    : List (Nat × BitVec 32)
  writer  : Nat
  deriving DecidableEq, Repr

/-- A v register: its newest version and an older one while that is open (R67). -/
structure VSt where
  new : VVer
  old : Option VVer
  deriving DecidableEq, Repr

/-- One version of a mask register: the true bits. -/
structure KVer where
  bits    : Sparse Bool
  absent  : List Nat
  inherit : List Nat
  base    : List (Nat × Bool)
  writer  : Nat
  deriving DecidableEq, Repr

/-- A mask register. -/
structure KSt where
  new : KVer
  old : Option KVer
  deriving DecidableEq, Repr

/-- A thread's vector partition (R61, R62). k0 has no storage; slot 0 of `k` is never read. -/
structure Part where
  v : Vector VSt 32
  k : Vector KSt 8
  deriving DecidableEq, Repr

/-- A store or `vamo` element, or a piece of a block, for another device that is formed and not sent (spec/12 R221): its index,
device, physical and virtual address, its bytes, and the flags it raises when it is done (R25). -/
structure Formed where
  e    : Nat
  dev  : BitVec 14
  pa   : Nat
  va   : Word
  data : List Byte
  flags : BitVec 5
  deriving DecidableEq, Repr

/-- A window entry (spec/04 R73, spec/16 R282). `post` counts the thread's posts without wrap and orders the entries; `seq` is the
architectural sequence number (R336). `prog`, `eng` and `acc` hold progress, `got` the bytes that a block or row has read so far
(R210); `back` lists the units that were done when `vrest` brought the entry back (R340); `sent` lists elements whose remote
requests are in flight, `formed` those formed and not sent; `indet` lists the indeterminate ones (R309) and `told` says that
REMIND was taken for them; `soft` lists checked elements with their count of failed checks (R338). `shared` says that a store with
`.nt` has been in flight together with another one of the same progress word (R155). `held` says that the entry waits to open its
versions, with the tags it will give its v registers (R67 item 3). -/
structure Entry where
  pc    : Word
  code  : Code
  instr : Instr
  vl    : Nat
  vtype : BitVec 8
  frm   : BitVec 2
  seq   : BitVec 32
  post  : Nat
  xs    : List Word
  prog  : Nat
  eng   : List Word
  done  : List Nat
  indet : List Nat
  told  : Bool
  sent  : List Nat
  formed : List Formed
  soft  : List (Nat × Nat)
  acc   : List Word
  got   : List Byte
  back  : List Nat
  shared : Bool
  held  : Option (List (VReg × EType))
  deriving DecidableEq, Repr

/-- A stream cursor (spec/13 R245). -/
structure Cursor where
  base   : Word
  len    : Nat
  pos    : Nat
  isOpen : Bool
  k64    : Bool
  win    : List Word
  deriving DecidableEq, Repr

/-- What an uncommitted scalar instruction waits for, with its address: a value of its own window entry (spec/07 R127), the reply
to a serial (spec/18 R310), the response to an idempotent remote access (R301), or the object at a physical address (spec/12
R218). -/
inductive Await where
  | entry (pc : Word) (post : Nat)
  | serial (pc : Word) (serial : BitVec 32)
  | access (pc : Word)
  | object (pc : Word) (pa : Nat)
  deriving DecidableEq, Repr

/-- A plain scalar load or store that has been committed and not performed (spec/12 R207, R212): destination, device (nothing for
this one), physical address, size, whether the value is sign-extended, and for a store its bytes. -/
structure DLoad where
  d    : XReg
  dev  : Option (BitVec 14)
  pa   : Nat
  n    : Nat
  sgn  : Bool
  data : Option (List Byte)
  deriving DecidableEq, Repr

/-- What hardware keeps beside the record of a saved window, which has no place for it (log entry 73): the area's physical
address; for each v and mask register with two open versions the place of the newer one's writer among the entries, 2i + 2 for
entry i and 2i + 1 in front of it; the old values of absent elements that their writer may yet leave as they were, by register, or
32 more for the older version, and element; the old values of a newest version that are not the older one's, by register; the tags
that the entries at the end still wait to open versions with; and the entries whose REMIND has been taken. -/
structure Notes where
  area  : Nat
  vpos  : List (Nat × Nat)
  kpos  : List (Nat × Nat)
  vkeep : List ((Nat × Nat) × BitVec 32)
  kkeep : List ((Nat × Nat) × Bool)
  vbase : List (Nat × List (Nat × BitVec 32))
  kbase : List (Nat × List (Nat × Bool))
  held  : List (List (VReg × EType))
  told  : List Nat
  deriving DecidableEq, Repr

/-- A fabric's state of a thread that is switched out (spec/13 R243): image address, iteration counter, the run's remaining count,
carried tokens, and the image's records as they were configured, to tell whether it has changed (R234). -/
structure FabSave where
  img     : Word
  counter : Nat
  remain  : Nat
  tokens  : List (BitVec 32)
  nodes   : List (BitVec 64)
  edges   : List (BitVec 64)
  binds   : List (BitVec 64)
  deriving DecidableEq, Repr

/-- A line that an entry in progress is reading: where it lies, by the one translation of its entry, and the bytes read so far
(R42, R50). -/
structure LineRead where
  dev   : Option (BitVec 14)
  pa    : Nat
  bytes : List Byte
  deriving DecidableEq, Repr

/-- A thread of a tile or a Benzia core (spec/04 R61, spec/16 R274). `lineIn` is the line an entry in progress is reading (R50).
`lateF` and `lateL` hold the flags that its window has raised since its scalar state was saved (R25, R285). `unchecked` lists the
checked elements (post number, element) whose Gander check has not passed (R336, R337). `stripC` is the count register of the
`strip.y` at which it was suspended (R144), `spaceOf` the thread whose partition stands in its space (R286). `loads` lists its
accesses to come, oldest first; `saved` goes with its save area; `rests` gives the level and the units of each copy whose
remainder the area holds (R289). -/
structure Thread where
  tid        : Nat
  who        : Agent
  run        : RunState
  ctx        : BitVec 32
  launch     : Nat
  rank       : BitVec 16
  tcount     : Nat
  stage      : BitVec 3
  prio       : Nat
  startNo    : Nat
  x          : Vector Word 64
  pc         : Word
  entering   : Bool
  cameFrom   : Word
  line       : Option Line
  lineIn     : Option LineRead
  prefetched : List Line
  vl         : Nat
  vtype      : BitVec 8
  grant      : Nat
  fsr        : BitVec 25
  fcsr       : BitVec 7
  lsat       : BitVec 3
  lateF      : BitVec 5
  lateL      : BitVec 3
  stall      : Bool
  remind     : Bool
  pl         : BitVec 2
  sregs      : TrapRegs
  mregs      : TrapRegs
  winrec     : Word
  vowner     : Word
  sscratch   : Word
  featen0    : BitVec 6
  rc         : Bool
  irq        : List Word
  part       : Option Part
  window     : List Entry
  frozen     : Bool
  seqn       : BitVec 32
  posts      : Nat
  cursors    : Vector Cursor 4
  pendPre    : Option Bool
  spaceOf    : Option Nat
  gaveAway   : Bool
  fabPend    : Option FabSave
  stripC     : Option XReg
  await      : Option Await
  unchecked  : List (Nat × Nat)
  loads      : List DLoad
  saved      : Option Notes
  rests      : List (BitVec 2 × Nat)
  deriving DecidableEq, Repr

/-- An accumulator tile (spec/10 R185, R202); `holder` is the thread that holds it (R186). -/
structure ZTile where
  data    : Sparse (BitVec 32)
  short   : Bool
  dropped : Bool
  holder  : Option Nat
  deriving DecidableEq, Repr

/-- A weight bank or row buffer (R185); an unlisted element is the zero code of the tag. `ptag` is the tag given by the
latest posted tile instruction (R71, R196). -/
structure CodeTile where
  tag  : EType
  ptag : EType
  data : Sparse (BitVec 16)
  deriving DecidableEq, Repr

/-- A write that its home has not applied (spec/12 R208). `last` says that the thread's earlier writes are applied before it
(R155). -/
structure Write where
  pa    : Nat
  bytes : List Byte
  tid   : Nat
  last  : Bool
  deriving DecidableEq, Repr

/-- A posted tile instruction in the Ox queue: its thread and post number (spec/10 R187). -/
structure OxItem where
  tid  : Nat
  post : Nat
  deriving DecidableEq, Repr

/-- The state a tile's threads share. -/
structure Tile where
  z       : Vector ZTile 8
  w       : Vector CodeTile 4
  q       : Vector CodeTile 2
  owner   : Option (BitVec 32)
  ox      : List OxItem
  stores  : List Write
  retired : Bool
  marked  : Bool
  deriving DecidableEq, Repr

/-- A cached translation (spec/16 R280): context, first virtual address, size in bytes, leaf entry. -/
structure TlbEnt where
  ctx  : BitVec 32
  base : Nat
  size : Nat
  leaf : BitVec 64
  deriving DecidableEq, Repr

/-- A run of the fabric in progress (spec/13 R239): thread, post number, first iteration index, length, next iteration,
the nodes already fired in it with their results, the pending pipe fault of a collective run (iteration, cause, address), the
collective elements returned for the current iteration, and the nodes fired in later iterations (R233): iteration, node, result. -/
structure FRun where
  tid   : Nat
  post  : Nat
  n0    : Nat
  count : Nat
  j     : Nat
  fired : List (Nat × BitVec 32)
  fault : Option (Nat × Byte × Word)
  coll  : List (Nat × BitVec 32)
  ahead : List (Nat × Nat × BitVec 32)
  deriving DecidableEq, Repr

/-- The Arcade fabric of a hall (R233–R243): owner, waiters in order, image address and records, iteration counter, and the
token each carried edge holds. -/
structure Fabric where
  owner   : Option Nat
  waiters : List Nat
  img     : Word
  nodes   : List (BitVec 64)
  edges   : List (BitVec 64)
  binds   : List (BitVec 64)
  counter : Nat
  tokens  : List (BitVec 32)
  runs    : List FRun
  deriving DecidableEq, Repr

/-- The state a hall's tiles share; `spare` is the number of the tile that the hall's spare has replaced (spec/22 R344). -/
structure Hall where
  buffer : List Write
  tlb    : List TlbEnt
  fabric : Fabric
  spare  : Option Nat
  deriving DecidableEq, Repr

/-- How far a serial has come (spec/18 R304, R311). -/
inductive SerialState where
  | awaiting | indeterminate | resolved
  deriving DecidableEq, Repr

/-- An outstanding serial of a context with what retransmission and delivery need (R302, R303, R311). `elems` gives for each
element of the train its index in the instruction; `post` is the window entry of a `vamo`; `gen` is the graph generation the
thread runs for: its number here, its header's address and its count (R314). -/
structure OutSerial where
  serial : BitVec 32
  dev    : BitVec 14
  req    : Request
  st     : SerialState
  kind   : Nat
  tid    : Nat
  id     : BitVec 32
  pc     : Word
  va     : List Word
  elems  : List Nat
  post   : Nat
  xd     : XReg
  xreq   : XReg
  minor  : Nat
  et     : EType
  pay    : Nat
  gen    : Option (Nat × Word × BitVec 32)
  deriving DecidableEq, Repr

/-- A record for the asynchronous fault queue that waits for room (spec/18 R314). -/
structure FaultRec where
  out   : OutSerial
  cause : Byte
  elem  : Nat
  deriving DecidableEq, Repr

/-- A context: its record's physical address and the registers loaded from it (spec/16 R283); `gb` is the base of its gallery
mapping (spec/08 R147). `kept` lists the payloads that records of the fault queue still name: place, size, and the record's number
in the ring (R314); `news` counts for each owner the serials resolved since the last watermark it was told (R304). -/
structure Ctx where
  ctxid      : BitVec 32
  record     : Nat
  ptroot     : Nat
  rc         : Bool
  bindtab    : Word
  rvid       : BitVec 24
  serialnext : BitVec 32
  serialack  : BitVec 32
  outHdr     : Word
  faultHdr   : Word
  featen     : BitVec 6
  pool       : Word
  qmask      : BitVec 64
  trapvec    : Word
  out        : List OutSerial
  records    : List FaultRec
  irqCore    : Nat
  gb         : Word
  kept       : List (Nat × Nat × BitVec 32)
  news       : List (BitVec 14 × Nat)
  aborted    : Bool
  frozen     : Bool
  deriving DecidableEq, Repr

/-- A launch packet read as R255 lays it out. -/
structure Packet where
  entry   : Word
  count   : Word
  args    : List Word
  work    : Word
  done    : Word
  hmask   : BitVec 32
  ctxid   : BitVec 32
  tmask   : BitVec 16
  threads : Nat
  stage   : Byte
  prio    : Nat
  gmax    : Nat
  gmin    : Nat
  gang    : Bool
  deriving DecidableEq, Repr

/-- A launch whose threads are being placed or run (spec/15 R257, R261): the places not yet started (rank, hall, tile, tile-local
index), the tiles where its threads have started, and how many threads have exited. `node` names the graph node it runs for. -/
structure Launch where
  id     : Nat
  pkt    : Packet
  ctx    : BitVec 32
  todo   : List (Nat × Nat × Nat × Nat)
  ran    : List (Nat × Nat)
  total  : Nat
  exited : Nat
  failed : Bool
  node   : Option (Nat × Nat)
  core   : Bool
  deriving DecidableEq, Repr

/-- A launch queue (R256, R260, R263): the numbers of its launches, and how many packets it has accepted. -/
structure Queue where
  packets  : List Nat
  accepted : Nat
  deriving DecidableEq, Repr

/-- What an instance of a graph node is doing (spec/15 R271). -/
inductive NodeState where
  | waiting | ready | running | finished | failed | skipped
  deriving DecidableEq, Repr

/-- A node record read as R267 lays it out: packet bytes, class, predecessors, regions (base, length, mode). -/
structure Node where
  packet : List Byte
  cls    : Nat
  preds  : List Nat
  regs   : List (Word × Nat × Byte)
  deriving DecidableEq, Repr

/-- One generation of a graph (R266–R271). -/
structure Gen where
  id       : Nat
  ctx      : BitVec 32
  addr     : Word
  g        : BitVec 32
  nodes    : List Node
  st       : List NodeState
  failed   : Bool
  deferred : Bool
  tid      : Nat
  deriving DecidableEq, Repr

/-- The hardware scheduler (spec/15). -/
structure Sched where
  queues   : Sparse Queue
  pointers : Vector Nat 8
  launches : List Launch
  gens     : List Gen
  pool     : List (Nat × Nat)
  paused   : Bool
  nextId   : Nat
  starts   : Nat
  deriving DecidableEq, Repr

/-- Which copy instruction queued a transfer (spec/09 R171). -/
inductive XferKind where
  | cpy | cpy2d | sxfer | mdec | nxfer
  deriving DecidableEq, Repr

/-- A queued transfer (R172, R173): its parameter block (address and bytes at issue), landing word, units, bytes already
delivered, bytes moved and destination bytes written (R174, R289), the tile whose port it holds, and the graph node it runs for. -/
structure Xfer where
  id     : Nat
  kind   : XferKind
  ctx    : BitVec 32
  pl     : BitVec 2
  tid    : Nat
  block  : Word
  params : List Byte
  lword  : Word
  units  : Nat
  sent   : Nat
  moved  : Nat
  wrote  : Nat
  place  : Option (Nat × Nat)
  node   : Option (Nat × Nat)
  deriving DecidableEq, Repr

/-- An NVMe namespace behind a storage port (R178): its logical block size, whether a block carries metadata, and the contexts it
is granted to. -/
structure Namespace where
  port  : Nat
  nsid  : Nat
  bsize : Nat
  plain : Bool
  ctxs  : List (BitVec 32)
  deriving DecidableEq, Repr

/-- A queue pair of a network port (R182–R184). -/
structure QueuePair where
  qpn   : Nat
  ctx   : BitVec 32
  err   : Bool
  recvs : List Nat
  deriving DecidableEq, Repr

/-- A media session (R179, R180): its context and stream area, the frames shown so far, and the IRAP pictures with
NoRaslOutputFlag = 1 decoded so far. -/
structure Session where
  ctx    : BitVec 32
  base   : Word
  shown  : BitVec 32
  period : BitVec 16
  deriving DecidableEq, Repr

/-- A registered memory region (R184). -/
structure Region where
  ctx   : BitVec 32
  base  : Word
  len   : Nat
  rkey  : BitVec 32
  read  : Bool
  write : Bool
  lword : Word
  deriving DecidableEq, Repr

/-- The bounce ring (spec/16 R290): where it lies, how many entries it has, how many are written, and where payloads go. -/
structure Bounce where
  base    : Nat
  size    : Nat
  used    : Nat
  payload : Nat
  deriving DecidableEq, Repr

/-- What a network port answered (R184), or sent for an operation of a queue pair: its code and the message (R182). -/
inductive NetReply where
  | request (op : Nat) (m : NetMsg)
  | ack | nakAccess | nakInvalid | rnr
  | data (bytes : List Byte)
  deriving DecidableEq, Repr

/-- The state of a cached request at an owner (spec/18 R305). -/
structure CacheEnt where
  rvid   : BitVec 24
  serial : BitVec 32
  reply  : Option Reply
  deriving DecidableEq, Repr

/-- A range an owner grants to an RVID (R313). -/
structure Grant where
  rvid  : BitVec 24
  base  : Nat
  size  : Nat
  read  : Bool
  write : Bool
  deriving DecidableEq, Repr

/-- An owner's exactly-once state (R305, R307, R309, R313). -/
structure Owner where
  inc     : BitVec 16
  cache   : List CacheEnt
  floors  : List (BitVec 24 × BitVec 32)
  quarant : List (BitVec 24)
  grants  : List Grant
  partials : List Request
  room    : Nat
  deriving DecidableEq, Repr

/-- Another device that answers at the ports: its memory and its owner state. Model's own list (log entry 6). -/
structure Peer where
  id    : BitVec 14
  mem   : Memory
  owner : Owner
  up    : Bool
  deriving DecidableEq, Repr

/-- A collective group of a Hiend port (spec/13 R244): group, port, contexts it is configured for, own rank, members. -/
structure CollGroup where
  grp     : Nat
  port    : Nat
  ctxs    : List (BitVec 32)
  rank    : Nat
  members : Nat
  deriving DecidableEq, Repr

/-- What this device's Hiend ports hold (spec/12 R221, spec/18). -/
structure Hiend where
  id       : BitVec 14
  learned  : List (BitVec 14 × BitVec 16)
  owner    : Owner
  tags     : List (BitVec 14 × Nat)
  partials : List Train
  groups   : List CollGroup
  replies  : List (BitVec 24 × BitVec 32 × Reply)
  retries  : List Nat
  disabled : List Nat
  deriving DecidableEq, Repr

/-- A structure whose events the RAS controller counts (spec/22 R343). -/
inductive RasKey where
  | hbmRow (row : Nat)
  | galleryLine (pa : Nat)
  | laneSlice (hall tile lane : Nat)
  | ox (hall tile : Nat)
  | lane (hall tile lane : Nat)
  | port (n : Nat)
  deriving DecidableEq, Repr

/-- The RAS controller (R343–R345): the next record's number, the events counted, how often its interrupt was raised, the Benzia
core that Benzia OS names for it, the gallery lines that have reached their threshold, and the lines that a spare line of the
slice has replaced, once for each spare. -/
structure Ras where
  number : BitVec 32
  counts : List (RasKey × Nat)
  irqs   : Nat
  core   : Nat
  lasting : List Nat
  spared : List Nat
  deriving DecidableEq, Repr

/-- A bundle in a flash slot (spec/23 R347): its header's fields, and the bytes the signature and the digests cover. -/
structure Bundle where
  magic  : BitVec 32
  ver    : BitVec 32
  minver : BitVec 32
  bad    : Bool
  key    : BitVec 16
  header : List Byte
  sig    : List Byte
  comps  : List (Nat × List Byte × List Byte)
  deriving DecidableEq, Repr

/-- An answer of the SPDM responder (spec/23 R349). -/
inductive SpdmReply where
  | version (v : Byte)
  | capabilities (sessions : Bool)
  | algorithms
  | digests (d : List Byte)
  | certificate (c : List Byte)
  | challenge (sig : List Byte)
  | measurements (m : List (Nat × List Byte)) (sig : List Byte)
  | unsupportedRequest
  | error
  deriving DecidableEq, Repr

/-- A checkpoint of the device (R352): its memory, with the w banks in their area, and what the device holds of contexts, work and
connections. -/
structure Ckpt where
  mem     : Memory
  sched   : Sched
  tiles   : List ((Nat × Nat) × Tile)
  ctxs    : List Ctx
  threads : List Thread
  xfers   : List Xfer
  allocs  : List (Nat × Nat × BitVec 32)
  qps     : List QueuePair
  regions : List Region
  media   : List Session
  digest  : List Byte
  sig     : List Byte
  deriving DecidableEq, Repr

/-- The state of a process that migration streams to its target (R353): contexts with their outstanding lists, its threads, the w
banks of its tiles, its memory by physical address, its connections with their regions and receives, its transfers and media
sessions, its launches with the queues they stand in, its graph generations, its gallery ranges, and whether an object of `mmrev`
1 is among its images. -/
structure Process where
  ctxs    : List Ctx
  threads : List Thread
  tiles   : List ((Nat × Nat) × Tile)
  mem     : Memory
  qps     : List QueuePair
  regions : List Region
  xfers   : List Xfer
  media   : List Session
  launches : List Launch
  queues  : List (Nat × Nat)
  gens    : List Gen
  pool    : List (Nat × Nat)
  allocs  : List (Nat × Nat × BitVec 32)
  old     : Bool
  deriving DecidableEq, Repr

/-- The service registers and what firmware keeps (spec/23 R346–R355). -/
structure Service where
  slot      : Bool
  fallback  : Bool
  rcause    : Byte
  ver       : BitVec 32
  recovery  : Bool
  upd       : BitVec 4
  rej       : Bool
  updBundle : Option Bundle
  hbeat     : BitVec 32
  lvl       : Nat
  tj        : Byte
  pcap      : Bool
  tcap      : Bool
  pwrcap    : BitVec 12
  rasring   : Word
  flash     : List Bundle
  counter   : BitVec 32
  running   : Option Bundle
  schedFw   : List Byte
  spdm      : List SpdmReply
  ckpts     : List Ckpt
  migrated  : List Process
  handover  : Option Sched
  updates   : Nat
  deriving DecidableEq, Repr

/-- Power of the module (R355). -/
inductive Power where
  | on | diesOff | off
  deriving DecidableEq, Repr

/-- Which of the manual's free orders the model takes at once (log entry 4): elements fire as soon as they are ready, stores
are applied as they are executed, remote requests are answered by the peer's owner as they are sent, what is no single access
(a line at its entry, a block, a row, a copy) moves whole, and scalar loads and stores are performed as they are executed. A flag
that is off leaves the step to its event or input. -/
structure Policy where
  fire   : Bool
  apply  : Bool
  remote : Bool
  whole  : Bool
  order  : Bool
  deriving DecidableEq, Repr

/-- What reaches the machine from outside and no row of the opcode table names (log entry 68). -/
inductive Input where
  /-- An error in the memory unit that holds an address: corrected, or its data are lost (spec/22 R341). -/
  | memoryError (pa : Nat) (lost : Bool)
  /-- An error in a scalar register file, an instruction cache or a loop buffer that a thread uses: of one bit, or of two (R339). -/
  | coreError (tid : Nat) (twice : Bool)
  /-- A parity error in a register that the fabric or `vsave` reads for a thread (R340). -/
  | parityRead (tid : Nat) (u : Upset)
  /-- Another device stops answering, or answers again (spec/18 R308). -/
  | peerUp (dev : BitVec 14) (up : Bool)
  /-- A bundle written through the recovery mailbox into a slot; `b` for slot B (spec/23 R348). -/
  | recoveryWrite (b : Bool) (x : Bundle)
  /-- Benzia OS ends a launch as failed (spec/15 R261). -/
  | endLaunch (id : Nat)
  /-- A load or store that has been committed is performed (spec/12 R207, R212). -/
  | performLoad (tid k : Nat)
  /-- Benzia OS names the core for the RAS interrupt (spec/22 R345). -/
  | rasCore (core : Nat)
  /-- A part of a copy's bytes moves: as many as `n` (spec/09 R174). -/
  | moveBytes (id n : Nat)
  /-- The state of a process arrives from the device it leaves (spec/23 R353). -/
  | migrateIn (p : Process)
  /-- The target of a migration has sent its first packet for a context (spec/18 R312). -/
  | handedOver (ctx : BitVec 32)
  deriving DecidableEq, Repr

/-- Which agent or event has the next turn (model's own, log entry 3). -/
inductive Turn where
  | event (i : Instr)
  | thread (tid : Nat)
  | input (x : Input)
  deriving DecidableEq, Repr

/-- The machine. `th` is the thread or core whose turn it is; `others` are the rest. `agenda` holds the turns already decided;
`stalled` says that `th` waits. `fresh` counts the free values used. `words` lists where landing words have been changed as such
(spec/08 R149; log entry 28). `allocs` lists the gallery ranges allocated, oldest first: base, size, context (spec/04 R76). `dues`
lists contexts that are aborted as the step ends, since an access on their behalf met an uncorrectable unit: context, address
(spec/22 R341), and `stops` copies that an abort has stopped, of whose destinations the rest becomes unpredictable as the step
ends (spec/09 R173). -/
structure State where
  th      : Thread
  others  : List Thread
  stalled : Bool
  agenda  : List Turn
  policy  : Policy
  fresh   : Nat
  mem     : Memory
  badUnit : List Nat
  dues    : List (BitVec 32 × Nat)
  words   : List Nat
  allocs  : List (Nat × Nat × BitVec 32)
  tiles   : List ((Nat × Nat) × Tile)
  halls   : Sparse Hall
  ctxs    : List Ctx
  sched   : Sched
  xfers   : List Xfer
  stops   : List Xfer
  media   : List Session
  spaces  : List Namespace
  qps     : List QueuePair
  regions : List Region
  bounce  : Option Bounce
  netOut  : List NetReply
  hiend   : Hiend
  peers   : List Peer
  ras     : Ras
  svc     : Service
  power   : Power
  deriving DecidableEq, Repr

/-- The machine stops with a fault: no power. -/
inductive Fault where
  /-- Raised by a step while no die that executes anything has power (spec/23 R355). Safe: nothing executes. -/
  | noPower
  deriving DecidableEq, Repr

/-- The model has no meaning for an instruction. -/
inductive Refusal where
  /-- Raised by the dispatcher for a row of the table that has no meaning yet. Safe: nothing is claimed of it. -/
  | notModelled (mnemonic : String)
  deriving DecidableEq, Repr

/-! ### Reset -/

def TrapRegs.zero : TrapRegs := { ppl := 0, ie := false, pie := false, vec := 0, cause := 0, epc := 0, val := 0 }

/-- A closed cursor (R75). -/
def Cursor.closed : Cursor := { base := 0, len := 0, pos := 0, isOpen := false, k64 := false, win := [] }

/-- v register at thread start: every element present, 0, tag i32 (R75). -/
def VSt.start : VSt := { new := { tag := 2, data := [], absent := [], inherit := [], base := [], writer := 0 }, old := none }

/-- Mask register at thread start: every bit present and false (R75). -/
def KSt.start : KSt := { new := { bits := [], absent := [], inherit := [], base := [], writer := 0 }, old := none }

/-- The partition at thread start (R75). -/
def Part.start : Part := { v := Vector.replicate 32 VSt.start, k := Vector.replicate 8 KSt.start }

/-- A Benzia core after power-on: at M, since cores 0–13 are at M during boot (R273); pc is slot 1 of the line at 0, as R75
sends traps there for an unset vector (log entry 1). -/
def Thread.powerOn (n : Nat) : Thread :=
  { tid := n, who := .core n, run := .running, ctx := 0, launch := 0, rank := 0, tcount := 1, stage := 0, prio := 0,
    startNo := 0, x := Vector.replicate 64 0, pc := 2, entering := true, cameFrom := 2, line := none, lineIn := none, prefetched := [],
    vl := 0, vtype := 0, grant := 0, fsr := 0, fcsr := 0, lsat := 0, lateF := 0, lateL := 0, stall := false, remind := false, pl := 3,
    sregs := TrapRegs.zero, mregs := TrapRegs.zero, winrec := 0, vowner := -1, sscratch := 0, featen0 := 0x3F, rc := false,
    irq := [], part := none, window := [], frozen := false, seqn := 0, posts := 0,
    cursors := Vector.replicate 4 Cursor.closed, pendPre := none, spaceOf := none, gaveAway := false, fabPend := none, stripC := none,
    await := none, unchecked := [], loads := [], saved := none, rests := [] }

/-- z tile before any holder starts: 0.0 (log entry 1). -/
def ZTile.zero : ZTile := { data := [], short := false, dropped := false, holder := none }

/-- w bank or q buffer that no context has used: the zero code under tag l16 (R76). -/
def CodeTile.zero : CodeTile := { tag := 9, ptag := 9, data := [] }

def Tile.fresh : Tile :=
  { z := Vector.replicate 8 ZTile.zero, w := Vector.replicate 4 CodeTile.zero, q := Vector.replicate 2 CodeTile.zero,
    owner := none, ox := [], stores := [], retired := false, marked := false }

def Fabric.free : Fabric :=
  { owner := none, waiters := [], img := 0, nodes := [], edges := [], binds := [], counter := 0, tokens := [], runs := [] }

def Hall.fresh : Hall := { buffer := [], tlb := [], fabric := Fabric.free, spare := none }

def Queue.empty : Queue := { packets := [], accepted := 0 }

def Sched.empty : Sched :=
  { queues := [], pointers := Vector.replicate 8 0, launches := [], gens := [], pool := [], paused := false, nextId := 16,
    starts := 0 }

/-- An owner with an empty cache; `room` is how many entries the default region of 256 MiB holds (R305; log entry 1). -/
def Owner.fresh : Owner :=
  { inc := 0, cache := [], floors := [], quarant := [], grants := [], partials := [], room := 16384 }

/-- The ports at power-on: device 0x0011 (log entry 1). -/
def Hiend.fresh : Hiend :=
  { id := 0x0011, learned := [], owner := Owner.fresh, tags := [], partials := [], groups := [], replies := [], retries := [],
    disabled := [] }

def Service.fresh : Service :=
  { slot := false, fallback := false, rcause := 0, ver := 0, recovery := false, upd := 0, rej := false, updBundle := none,
    hbeat := 0, lvl := 0, tj := 0, pcap := false, tcap := false, pwrcap := 2000, rasring := 0, flash := [], counter := 0,
    running := none, schedFw := [], spdm := [], ckpts := [], migrated := [], handover := none, updates := 0 }

/-- The module right after reset: power is on, the sixteen Benzia cores stand at their first instruction, and the boot ROM's step
(R348) is the first turn. -/
def State.reset : State :=
  { th := Thread.powerOn 0, others := (List.range 15).map fun n => Thread.powerOn (n + 1), stalled := false, agenda := [.event .boot],
    policy := { fire := true, apply := true, remote := true, whole := true, order := true }, fresh := 0, mem := [], badUnit := [],
    dues := [], words := [], allocs := [], tiles := [], halls := [],
    ctxs := [], sched := Sched.empty, xfers := [], stops := [], media := [], spaces := [], qps := [], regions := [], bounce := none, netOut := [],
    hiend := Hiend.fresh, peers := [], ras := { number := 0, counts := [], irqs := 0, core := 0, lasting := [], spared := [] },
    svc := Service.fresh, power := .on }

end Sys2Proof.Machine
end

