-- ==== Sys2Proof/Machine/Bits.lean ====
section
/-! DEFINITION. The canonical maps, byte order and bit helpers every meaning uses. -/

namespace Sys2Proof.Machine

/-! ### Sparse maps -/

/-- The value at a key; an unlisted key reads as `d`. -/
def sget {α : Type} (d : α) : Sparse α → Nat → α
  | [], _ => d
  | (k, v) :: r, a => if k = a then v else if a < k then d else sget d r a

/-- Write a key, keeping the canonical form: writing `d` removes the entry. -/
def sset {α : Type} [DecidableEq α] (d : α) : Sparse α → Nat → α → Sparse α
  | [], a, v => if v = d then [] else [(a, v)]
  | (k, w) :: r, a, v =>
    if a < k then (if v = d then (k, w) :: r else (a, v) :: (k, w) :: r)
    else if a = k then (if v = d then r else (a, v) :: r)
    else (k, w) :: sset d r a v

/-- The canonical form: keys strictly rising, no entry equal to `d`. -/
def swf {α : Type} [DecidableEq α] (d : α) : Sparse α → Bool
  | [] => true
  | [(_, v)] => decide (v ≠ d)
  | (k, v) :: (k', v') :: r => decide (v ≠ d) && decide (k < k') && swf d ((k', v') :: r)

/-- Write consecutive keys. -/
def ssetList {α : Type} [DecidableEq α] (d : α) (m : Sparse α) (a : Nat) : List α → Sparse α
  | [] => m
  | v :: r => ssetList d (sset d m a v) (a + 1) r

/-- Read consecutive keys. -/
def sgetList {α : Type} (d : α) (m : Sparse α) (a : Nat) : Nat → List α
  | 0 => []
  | n + 1 => sget d m a :: sgetList d m (a + 1) n

/-- Memory is in its canonical form. -/
def Memory.wf (m : Memory) : Bool := swf (0 : Byte) m

/-- One byte of memory. -/
def memByte (m : Memory) (pa : Nat) : Byte := sget 0 m pa

/-- Bytes of memory from `pa` up. -/
def memRead (m : Memory) (pa n : Nat) : List Byte := sgetList 0 m pa n

/-- Write bytes from `pa` up. -/
def memWrite (m : Memory) (pa : Nat) (bs : List Byte) : Memory := ssetList 0 m pa bs

/-! ### Byte order -/

/-- Little-endian value of bytes (spec/03 R42, R45; spec/16 R281). -/
def leNat : List Byte → Nat
  | [] => 0
  | b :: r => b.toNat + 256 * leNat r

/-- The `n` low bytes of a value, lowest first. -/
def leBytes : Nat → Nat → List Byte
  | 0, _ => []
  | n + 1, v => BitVec.ofNat 8 v :: leBytes n (v / 256)

/-- A word from bytes. -/
def leWord (bs : List Byte) : Word := BitVec.ofNat 64 (leNat bs)

/-- `n` bytes of a list at an offset, short lists padded with 0. -/
def bytesAt (bs : List Byte) (off n : Nat) : List Byte :=
  let t := (bs.drop off).take n
  t ++ List.replicate (n - t.length) 0

/-- The little-endian field of `n` bytes at an offset. -/
def fieldAt (bs : List Byte) (off n : Nat) : Nat := leNat (bytesAt bs off n)

/-- Replace bytes of a list at an offset. -/
def patchAt (bs : List Byte) (off : Nat) (new : List Byte) : List Byte :=
  bs.take off ++ new ++ bs.drop (off + new.length)

/-! ### Bits -/

/-- Bit field `lo`, width `n`, of a natural number. -/
def natField (v lo n : Nat) : Nat := v / 2 ^ lo % 2 ^ n

/-- Sign extension of the low `w` bits to 64 (spec/01 R15 `sext`). -/
def sextTo64 (w : Nat) (v : Word) : Word := (v.setWidth w).signExtend 64

/-- Zero extension of the low `w` bits to 64. -/
def zextTo64 (w : Nat) (v : Word) : Word := (v.setWidth w).setWidth 64

/-- A natural number's low `w` bits read as two's complement. -/
def toSigned (w : Nat) (v : Nat) : Int :=
  let m := v % 2 ^ w
  if m < 2 ^ (w - 1) then (m : Int) else (m : Int) - 2 ^ w

/-- The low `w` bits of an integer. -/
def ofInt (w : Nat) (v : Int) : Nat := (v % (2 ^ w : Int)).toNat

/-- Leading zero bits within `w` (R79, R111). -/
def leadingZeros (w v : Nat) : Nat := if v = 0 then w else w - 1 - Nat.log2 v

/-- Trailing zero bits within `w`. -/
def trailingZeros : Nat → Nat → Nat
  | 0, _ => 0
  | w + 1, v => if v % 2 = 1 then 0 else 1 + trailingZeros w (v / 2)

/-- One bits within `w`. -/
def popCount : Nat → Nat → Nat
  | 0, _ => 0
  | w + 1, v => v % 2 + popCount w (v / 2)

/-- Bits as indices: the one bits of `v` below `n`, from `i` up. -/
def bitsOf (v : Nat) : Nat → Nat → List Nat
  | 0, _ => []
  | n + 1, i => if v / 2 ^ i % 2 = 1 then i :: bitsOf v n (i + 1) else bitsOf v n (i + 1)

/-- A bit set of indices as a natural number. -/
def bitsTo (l : List Nat) : Nat := l.foldl (fun a i => if a / 2 ^ i % 2 = 1 then a else a + 2 ^ i) 0

/-- Insert an index into a list with no repeats, kept rising. -/
def insertIdx : List Nat → Nat → List Nat
  | [], a => [a]
  | b :: r, a => if a < b then a :: b :: r else if a = b then b :: r else b :: insertIdx r a

/-- Replace the value under a key of an association list, or add it. -/
def assocSet {κ β : Type} [DecidableEq κ] (l : List (κ × β)) (k : κ) (v : β) : List (κ × β) :=
  match l with
  | [] => [(k, v)]
  | (k', v') :: r => if k' = k then (k, v) :: r else (k', v') :: assocSet r k v

/-- The value under a key of an association list. -/
def assocGet {κ β : Type} [DecidableEq κ] (l : List (κ × β)) (k : κ) : Option β :=
  match l with
  | [] => none
  | (k', v) :: r => if k' = k then some v else assocGet r k

end Sys2Proof.Machine
end

