-- ==== Sys2Proof/Machine/Float.lean ====
section
/-! DEFINITION. Binary floating point on exact values (spec/02 R20–R23): a value is unpacked to sign, significand and exponent,
an operation is computed exactly, and the result is rounded once. -/

namespace Sys2Proof.Machine

/-- A binary format: fraction bits, exponent bits (R20). -/
structure FFmt where
  frac : Nat
  expo : Nat
  deriving DecidableEq, Repr

def FFmt.f16 : FFmt := ⟨10, 5⟩
def FFmt.bf16 : FFmt := ⟨7, 8⟩
def FFmt.f32 : FFmt := ⟨23, 8⟩
def FFmt.f64 : FFmt := ⟨52, 11⟩

/-- The format of a float element type (R55); other codes read as f32. -/
def fmtOf (et : EType) : FFmt :=
  match et.toNat with
  | 4 => .f16
  | 5 => .bf16
  | 7 => .f64
  | _ => .f32

/-- Width in bits. -/
def FFmt.width (f : FFmt) : Nat := 1 + f.expo + f.frac

def FFmt.bias (f : FFmt) : Nat := 2 ^ (f.expo - 1) - 1

/-- The canonical NaN (R20). -/
def FFmt.nan (f : FFmt) : Nat := (2 ^ f.expo - 1) * 2 ^ f.frac + 2 ^ (f.frac - 1)

def FFmt.inf (f : FFmt) (neg : Bool) : Nat :=
  (if neg then 2 ^ (f.expo + f.frac) else 0) + (2 ^ f.expo - 1) * 2 ^ f.frac

/-- The largest finite value. -/
def FFmt.maxFin (f : FFmt) (neg : Bool) : Nat := f.inf neg - 1

def FFmt.zero (f : FFmt) (neg : Bool) : Nat := if neg then 2 ^ (f.expo + f.frac) else 0

/-- A value: a NaN (quiet or signalling), an infinity, or ±m × 2^e exactly, `m` = 0 for the zeros. -/
inductive FVal where
  | nan (signalling : Bool)
  | inf (neg : Bool)
  | fin (neg : Bool) (m : Nat) (e : Int)
  deriving DecidableEq, Repr

/-- The value of a bit pattern (R20). -/
def unpack (f : FFmt) (bits : Nat) : FVal :=
  let neg := bits / 2 ^ (f.expo + f.frac) % 2 = 1
  let e := bits / 2 ^ f.frac % 2 ^ f.expo
  let m := bits % 2 ^ f.frac
  if e = 2 ^ f.expo - 1 then
    if m = 0 then .inf neg else .nan (m < 2 ^ (f.frac - 1))
  else if e = 0 then .fin neg m (1 - (f.bias : Int) - f.frac)
  else .fin neg (m + 2 ^ f.frac) ((e : Int) - f.bias - f.frac)

/-- Rounding modes, coded as `frm` (R24): 0 RNE, 1 RTZ, 2 RDN, 3 RUP. -/
abbrev RMode := BitVec 2

/-- Flags, placed as `fcsr` bits 4:0 (R24): nv, dz, of, uf, nx. -/
abbrev FFlags := BitVec 5

def flNV : FFlags := 16
def flDZ : FFlags := 8
def flOF : FFlags := 4
def flUF : FFlags := 2
def flNX : FFlags := 1

/-- Whether rounding moves away from zero: sign, lowest kept bit, and the discarded part as a fraction rem / den. -/
def roundsUp (rm : RMode) (neg odd : Bool) (rem den : Nat) : Bool :=
  if rem = 0 then false
  else match rm.toNat with
    | 0 => if 2 * rem > den then true else if 2 * rem < den then false else odd
    | 1 => false
    | 2 => neg
    | _ => !neg

/-- m × 2^e / d (d > 0) rounded to an integer multiple of 2^q: the multiple, and whether it is inexact. -/
def roundAt (rm : RMode) (neg : Bool) (m d : Nat) (e q : Int) : Nat × Bool :=
  let num := if e ≥ q then m * 2 ^ (e - q).toNat else m
  let den := if e ≥ q then d else d * 2 ^ (q - e).toNat
  let k := num / den
  let r := num % den
  (if roundsUp rm neg (k % 2 = 1) r den then k + 1 else k, r != 0)

/-- floor(log2 (m × 2^e / d)) for m > 0. -/
def ilog2 (m d : Nat) (e : Int) : Int :=
  let a : Int := (Nat.log2 m : Int) - Nat.log2 d
  -- m/d lies in (2^(a-1), 2^(a+1)); decide which side of 2^a
  let ge := if a ≥ 0 then m ≥ d * 2 ^ a.toNat else m * 2 ^ (-a).toNat ≥ d
  (if ge then a else a - 1) + e

/-- The exact value ±m × 2^e / d (m > 0) rounded once to a format, with OF, UF and NX as R22 states: tininess is detected
after rounding, as if the exponent range were unbounded. `prec` limits the significant bits (R115). -/
def roundPrec (f : FFmt) (prec : Nat) (rm : RMode) (neg : Bool) (m d : Nat) (e : Int) : Nat × FFlags :=
  let emin : Int := 1 - (f.bias : Int)
  let l := ilog2 m d e
  let q0 : Int := l + 1 - prec
  let qmin : Int := emin - f.frac
  let q := max q0 qmin
  let (k, inexact) := roundAt rm neg m d e q
  -- tiny: rounded to full precision with unbounded exponent, the magnitude is below 2^emin
  let (ku, _) := roundAt rm neg m d e q0
  let tiny := l < emin && !(l = emin - 1 && ku = 2 ^ prec)
  let val := k
  let lk : Int := if val = 0 then emin else (Nat.log2 val : Int) + q
  if lk > f.bias then
    let away := match rm.toNat with
      | 0 => true
      | 1 => false
      | 2 => neg
      | _ => !neg
    (if away then f.inf neg else f.maxFin neg, flOF ||| flNX)
  else
    let sgn := f.zero neg
    let enc :=
      if val = 0 then 0
      else if lk < emin then val * 2 ^ (q - qmin).toNat
      else
        let sig := if q ≥ lk - f.frac then val * 2 ^ (q - (lk - f.frac)).toNat else val / 2 ^ ((lk - f.frac) - q).toNat
        (lk + f.bias).toNat * 2 ^ f.frac + (sig - 2 ^ f.frac)
    let fl : FFlags := (if inexact then flNX else 0) ||| (if tiny && inexact then flUF else 0)
    (sgn + enc, fl)

/-- Round ±m × 2^e / d to a format; an exact zero keeps its sign. -/
def roundFin (f : FFmt) (rm : RMode) (neg : Bool) (m d : Nat) (e : Int) : Nat × FFlags :=
  if m = 0 then (f.zero neg, 0) else roundPrec f (f.frac + 1) rm neg m d e

/-- Pack a value without arithmetic: NaN becomes canonical, a finite value is rounded. -/
def packVal (f : FFmt) (rm : RMode) : FVal → Nat × FFlags
  | .nan s => (f.nan, if s then flNV else 0)
  | .inf n => (f.inf n, 0)
  | .fin n m e => roundFin f rm n m 1 e

def FVal.isNan : FVal → Bool
  | .nan _ => true
  | _ => false

def FVal.isSnan : FVal → Bool
  | .nan s => s
  | _ => false

def FVal.neg : FVal → FVal
  | .nan s => .nan s
  | .inf n => .inf !n
  | .fin n m e => .fin (!n) m e

/-- NV of the signalling operands. -/
def snanFlag (vs : List FVal) : FFlags := if vs.any FVal.isSnan then flNV else 0

/-- The sign of an exact zero sum of operands of opposite signs (R113). -/
def zeroSign (rm : RMode) : Bool := rm = 2

/-- The exact sum of two finite values as sign, significand, exponent; equal-sign zeros keep the sign. -/
def addFin (rm : RMode) (n1 : Bool) (m1 : Nat) (e1 : Int) (n2 : Bool) (m2 : Nat) (e2 : Int) : Bool × Nat × Int :=
  let e := min e1 e2
  let a : Int := (m1 * 2 ^ (e1 - e).toNat : Nat)
  let b : Int := (m2 * 2 ^ (e2 - e).toNat : Nat)
  let s := (if n1 then -a else a) + (if n2 then -b else b)
  if s = 0 then ((if n1 = n2 then n1 else zeroSign rm), 0, e)
  else (decide (s < 0), s.natAbs, e)

/-- a + b (R22, R23). -/
def fAddV (f : FFmt) (rm : RMode) (a b : FVal) : Nat × FFlags :=
  match a, b with
  | .nan _, _ => (f.nan, snanFlag [a, b])
  | _, .nan _ => (f.nan, snanFlag [a, b])
  | .inf x, .inf y => if x = y then (f.inf x, 0) else (f.nan, flNV)
  | .inf x, .fin _ _ _ => (f.inf x, 0)
  | .fin _ _ _, .inf y => (f.inf y, 0)
  | .fin n1 m1 e1, .fin n2 m2 e2 =>
    let (n, m, e) := addFin rm n1 m1 e1 n2 m2 e2
    roundFin f rm n m 1 e

def fAdd (f : FFmt) (rm : RMode) (a b : Nat) : Nat × FFlags := fAddV f rm (unpack f a) (unpack f b)

def fSub (f : FFmt) (rm : RMode) (a b : Nat) : Nat × FFlags := fAddV f rm (unpack f a) (unpack f b).neg

/-- The exact product, or its special outcome. -/
def mulV (a b : FVal) : FVal × FFlags :=
  match a, b with
  | .nan _, _ => (.nan false, snanFlag [a, b])
  | _, .nan _ => (.nan false, snanFlag [a, b])
  | .inf x, .inf y => (.inf (x != y), 0)
  | .inf x, .fin n m _ => if m = 0 then (.nan false, flNV) else (.inf (x != n), 0)
  | .fin n m _, .inf y => if m = 0 then (.nan false, flNV) else (.inf (n != y), 0)
  | .fin n1 m1 e1, .fin n2 m2 e2 => (.fin (n1 != n2) (m1 * m2) (e1 + e2), 0)

def fMul (f : FFmt) (rm : RMode) (a b : Nat) : Nat × FFlags :=
  let (p, fl) := mulV (unpack f a) (unpack f b)
  let (r, fl') := packVal f rm p
  (r, fl ||| fl')

/-- a × b + c with one rounding; `np`, `nc` negate the product and c first (R113). 0 × ∞ raises NV even beside a NaN c. -/
def fFma (f : FFmt) (rm : RMode) (np nc : Bool) (a b c : Nat) : Nat × FFlags :=
  let c' := if nc then (unpack f c).neg else unpack f c
  let (p, fl) := mulV (unpack f a) (unpack f b)
  let p' := if np then p.neg else p
  if p'.isNan || c'.isNan then (f.nan, fl ||| snanFlag [c'])
  else
    let (r, fl') := fAddV f rm p' c'
    (r, fl ||| fl')

def fDiv (f : FFmt) (rm : RMode) (a b : Nat) : Nat × FFlags :=
  match unpack f a, unpack f b with
  | .nan s, y => (f.nan, snanFlag [.nan s, y])
  | x, .nan s => (f.nan, snanFlag [x, .nan s])
  | .inf _, .inf _ => (f.nan, flNV)
  | .inf x, .fin n _ _ => (f.inf (x != n), 0)
  | .fin n _ _, .inf y => (f.zero (n != y), 0)
  | .fin n1 m1 e1, .fin n2 m2 e2 =>
    if m2 = 0 then (if m1 = 0 then (f.nan, flNV) else (f.inf (n1 != n2), flDZ))
    else roundFin f rm (n1 != n2) m1 m2 (e1 - e2)

/-- Integer square root by bits: the largest r < 2^n with r² ≤ v. -/
def isqrtBits : Nat → Nat → Nat → Nat
  | 0, _, r => r
  | n + 1, v, r =>
    let r' := r + 2 ^ n
    isqrtBits n v (if r' * r' ≤ v then r' else r)

def isqrt (v : Nat) : Nat := isqrtBits (Nat.log2 v / 2 + 1) v 0

/-- √(m × 2^e) with a sticky bit below: significand and exponent whose rounding to at most `p` bits is that of the root. -/
def sqrtSticky (p m : Nat) (e : Int) : Nat × Int :=
  -- scale so that the root has at least p + 2 bits and the exponent is even
  let k := 2 * p + 6
  let e1 := e - k
  let m1 := m * 2 ^ k
  let (m2, e2) := if e1 % 2 = 0 then (m1, e1) else (2 * m1, e1 - 1)
  let r := isqrt m2
  (2 * r + (if r * r = m2 then 0 else 1), e2 / 2 - 1)

def fSqrt (f : FFmt) (rm : RMode) (a : Nat) : Nat × FFlags :=
  match unpack f a with
  | .nan s => (f.nan, if s then flNV else 0)
  | .inf n => if n then (f.nan, flNV) else (f.inf false, 0)
  | .fin n m e =>
    if m = 0 then (f.zero n, 0)
    else if n then (f.nan, flNV)
    else
      let (r, e') := sqrtSticky (f.frac + 2) m e
      roundFin f rm false r 1 e'

/-- The order of two finite or infinite values: a < b. -/
def ltFin (n1 : Bool) (m1 : Nat) (e1 : Int) (n2 : Bool) (m2 : Nat) (e2 : Int) : Bool :=
  let e := min e1 e2
  let a : Int := (m1 * 2 ^ (e1 - e).toNat : Nat)
  let b : Int := (m2 * 2 ^ (e2 - e).toNat : Nat)
  (if n1 then -a else a) < (if n2 then -b else b)

/-- a < b by value; NaNs are unordered. −0 = +0. -/
def fLtV : FVal → FVal → Bool
  | .inf x, .inf y => x && !y
  | .inf x, .fin _ _ _ => x
  | .fin _ _ _, .inf y => !y
  | .fin n1 m1 e1, .fin n2 m2 e2 => ltFin n1 m1 e1 n2 m2 e2
  | _, _ => false

/-- a = b by value. -/
def fEqV : FVal → FVal → Bool
  | .inf x, .inf y => x == y
  | .fin n1 m1 e1, .fin n2 m2 e2 => !ltFin n1 m1 e1 n2 m2 e2 && !ltFin n2 m2 e2 n1 m1 e1
  | _, _ => false

def FVal.isZero : FVal → Bool
  | .fin _ m _ => m == 0
  | _ => false

def FVal.signBit : FVal → Bool
  | .nan _ => false
  | .inf n => n
  | .fin n _ _ => n

/-- minimumNumber (`mx` false) or maximumNumber (R98): −0 below +0, a NaN loses, two NaNs give the canonical NaN. -/
def fMinMax (f : FFmt) (mx : Bool) (a b : Nat) : Nat × FFlags :=
  let x := unpack f a
  let y := unpack f b
  let fl := snanFlag [x, y]
  if x.isNan && y.isNan then (f.nan, fl)
  else if x.isNan then (b % 2 ^ f.width, fl)
  else if y.isNan then (a % 2 ^ f.width, fl)
  else
    let aLess := fLtV x y || (x.isZero && y.isZero && x.signBit && !y.signBit)
    ((if aLess != mx then a else b) % 2 ^ f.width, fl)

/-- The relations of R99, R117: 0 eq, 1 lt, 2 le. The second result is NV. -/
def fCompare (f : FFmt) (rel : Nat) (a b : Nat) : Bool × FFlags :=
  let x := unpack f a
  let y := unpack f b
  let un := x.isNan || y.isNan
  let fl : FFlags := if rel = 0 then snanFlag [x, y] else if un then flNV else 0
  (!un && (match rel with
    | 0 => fEqV x y
    | 1 => fLtV x y
    | _ => fLtV x y || fEqV x y), fl)

/-- The class mask (R99). -/
def fClassMask (f : FFmt) (a : Nat) : Nat :=
  match unpack f a with
  | .nan s => if s then 2 ^ 8 else 2 ^ 9
  | .inf n => if n then 1 else 2 ^ 7
  | .fin n m _ =>
    if m = 0 then (if n then 2 ^ 3 else 2 ^ 4)
    else if m < 2 ^ f.frac then (if n then 2 ^ 2 else 2 ^ 5)
    else (if n then 2 ^ 1 else 2 ^ 6)

/-- Round to an integral value in the format (R114 `vround`). -/
def fRound (f : FFmt) (rm : RMode) (a : Nat) : Nat × FFlags :=
  match unpack f a with
  | .nan s => (f.nan, if s then flNV else 0)
  | .inf n => (f.inf n, 0)
  | .fin n m e =>
    if m = 0 || e ≥ 0 then (a % 2 ^ f.width, 0)
    else
      let (k, ix) := roundAt rm n m 1 e 0
      ((roundFin f rm n k 1 0).1, if ix then flNX else 0)

/-- A float value rounded to an integer type of `w` bits (R100): out of range gives the minimum or maximum with NV. -/
def fToInt (w : Nat) (uns : Bool) (rm : RMode) (v : FVal) : Nat × FFlags :=
  let hi : Int := if uns then 2 ^ w - 1 else 2 ^ (w - 1) - 1
  let lo : Int := if uns then 0 else -(2 ^ (w - 1))
  match v with
  | .nan _ => (ofInt w hi, flNV)
  | .inf n => (ofInt w (if n then lo else hi), flNV)
  | .fin n m e =>
    let (k, ix) := roundAt rm n m 1 e 0
    let i : Int := if n then -(k : Int) else k
    if i > hi then (ofInt w hi, flNV)
    else if i < lo then (ofInt w lo, flNV)
    else (ofInt w i, if ix then flNX else 0)

/-- The value of an integer. -/
def intVal (i : Int) : FVal := .fin (decide (i < 0)) i.natAbs 0

/-- Replace an overflowing result by the largest finite value of its sign (R119 `vcvt.sat`). -/
def satOverflow (f : FFmt) (v : FVal) (r : Nat × FFlags) : Nat × FFlags :=
  if r.2 &&& flOF != 0 then (f.maxFin v.signBit, r.2) else r

/-- The estimates of R115: 1/√a or 1/a rounded RNE to at most 8 significant bits. -/
def fEstimate (f : FFmt) (root : Bool) (a : Nat) : Nat × FFlags :=
  match unpack f a with
  | .nan s => (f.nan, if s then flNV else 0)
  | .inf n => if n && root then (f.nan, flNV) else (f.zero n, 0)
  | .fin n m e =>
    if m = 0 then (f.inf n, flDZ)
    else if root && n then (f.nan, flNV)
    else
      let (r, fl) :=
        if root then
          -- 1/√(m·2^e) = √(2^(2k) / m) · 2^(-k) · 2^(-e/2), formed with a sticky bit
          let e2 := if e % 2 = 0 then e else e - 1
          let m2 := if e % 2 = 0 then m else 2 * m
          let k := 24 + Nat.log2 m2
          let num := 2 ^ (2 * k)
          let qt := num / m2
          let s := isqrt qt
          let exact := s * s * m2 = num
          roundPrec f 8 0 false (2 * s + (if exact then 0 else 1)) 1 (-(k : Int) - e2 / 2 - 1)
        else roundPrec f 8 0 n 1 m (-e)
      (r, fl &&& flOF)

end Sys2Proof.Machine
end

