-- ==== Sys2Proof/Machine/Lns.lean ====
section
/-! DEFINITION. The log formats l16 and l8, their product table and conversions (spec/02 R26–R32, spec/06 R124–R126). -/

namespace Sys2Proof.Machine

/-- A log format: `big` is l16 (Q6.9), otherwise l8 (Q4.3). -/
structure LFmt where
  big : Bool
  deriving DecidableEq, Repr

def LFmt.of (et : EType) : LFmt := ⟨et == 9⟩

/-- Fraction bits of L. -/
def LFmt.f (l : LFmt) : Nat := if l.big then 9 else 3

/-- Bits of L. -/
def LFmt.lbits (l : LFmt) : Nat := if l.big then 15 else 7

def LFmt.zero (l : LFmt) : Nat := if l.big then 0x4000 else 0x40
def LFmt.nan (l : LFmt) : Nat := if l.big then 0xC000 else 0xC0
def LFmt.inf (l : LFmt) (neg : Bool) : Nat := (if neg then 2 ^ l.lbits else 0) + (if l.big then 0x3FFF else 0x3F)

/-- The largest and smallest finite L (R28). -/
def LFmt.maxL (l : LFmt) : Int := if l.big then 0x3FFE else 0x3E
def LFmt.minL (l : LFmt) : Int := if l.big then -16383 else -63

/-- A code from its sign and L. -/
def LFmt.code (l : LFmt) (neg : Bool) (L : Int) : Nat := (if neg then 2 ^ l.lbits else 0) + ofInt l.lbits L

/-- Flags placed as `lsat` bits (R29): nx, unf, ovf. -/
abbrev LFlags := BitVec 3

def lfNX : LFlags := 4
def lfUNF : LFlags := 2
def lfOVF : LFlags := 1

/-- A log value (R26, R27). -/
inductive LVal where
  | nan
  | zero
  | inf (neg : Bool)
  | fin (neg : Bool) (L : Int)
  deriving DecidableEq, Repr

def lUnpack (l : LFmt) (c : Nat) : LVal :=
  let c := c % 2 ^ (l.lbits + 1)
  if c = l.nan then .nan
  else if c = l.zero then .zero
  else
    let neg := c / 2 ^ l.lbits % 2 = 1
    let L := toSigned l.lbits c
    if L = l.maxL + 1 then .inf neg else .fin neg L

/-- 24 bits of 2^(i/512) × 2^24, by bits: the largest r < 2^25 with r^512 ≤ 2^(i + 24·512). -/
def root512 : Nat → Nat → Nat → Nat
  | 0, _, r => r
  | n + 1, t, r =>
    let r' := r + 2 ^ n
    root512 n t (if r' ^ 512 ≤ t then r' else r)

/-- T16[i] = RNE(2^(i/512) × 2^23) − 2^23 (R31): from one bit more, since the value is irrational or exact. -/
def tableT16 (i : Nat) : Nat := (root512 25 (2 ^ (i + 24 * 512)) 0 + 1) / 2 - 2 ^ 23

/-- T8[j] = T16[64 j] (R31). -/
def tableT8 (j : Nat) : Nat := tableT16 (64 * j)

/-- (1 + T[i] / 2^23) × 2^e with e, i from t (R30), as an exact value. -/
def lPower (l : LFmt) (neg : Bool) (t : Int) : FVal :=
  let e := t / (2 ^ l.f : Int)
  let i := (t % (2 ^ l.f : Int)).toNat
  .fin neg (2 ^ 23 + (if l.big then tableT16 i else tableT8 i)) (e - 23)

/-- `lprod(a, b)` as a value (R30): +0 for a zero product, never −0. -/
def lProd (l : LFmt) (a b : Nat) : FVal :=
  match lUnpack l a, lUnpack l b with
  | .nan, _ => .nan false
  | _, .nan => .nan false
  | .zero, .inf _ => .nan false
  | .inf _, .zero => .nan false
  | .zero, _ => .fin false 0 0
  | _, .zero => .fin false 0 0
  | .inf x, .inf y => .inf (x != y)
  | .inf x, .fin n _ => .inf (x != n)
  | .fin n _, .inf y => .inf (n != y)
  | .fin n1 l1, .fin n2 l2 => lPower l (n1 != n2) (l1 + l2)

/-- `l_to_lin` (R32), exact in f32. -/
def lToLin (l : LFmt) (c : Nat) : FVal :=
  match lUnpack l c with
  | .nan => .nan false
  | .zero => .fin false 0 0
  | .inf n => .inf n
  | .fin n L => lPower l n L

/-- The integer nearest to 2^f × log2(m × 2^e / 1) for m > 0 (R28 step 3). With K = 2^(f+1), floor(K log2 m) = log2 (m^K);
half-integers are not met, since the boundary is irrational. -/
def nearestL (l : LFmt) (m : Nat) (e : Int) : Int :=
  let k : Nat := 2 ^ (l.f + 1)
  let v : Int := (Nat.log2 (m ^ k) : Int) + e * k
  (v + 1) / 2

/-- Conversion of an exact linear value to a log code (R28). -/
def linToL (l : LFmt) (v : FVal) : Nat × LFlags :=
  match v with
  | .nan _ => (l.nan, 0)
  | .inf n => (l.inf n, 0)
  | .fin n m e =>
    if m = 0 then (l.zero, 0)
    else
      let c := nearestL l m e
      if c > l.maxL then (l.code n l.maxL, lfOVF ||| lfNX)
      else if c < l.minL then (l.zero, lfUNF ||| lfNX)
      else
        -- exact only for a power of two
        let pow2 := 2 ^ Nat.log2 m = m
        (l.code n c, if pow2 then 0 else lfNX)

/-- l16 to l8 (R38, R119). -/
def l16To8 (c : Nat) : Nat × LFlags :=
  let b : LFmt := ⟨true⟩
  let s : LFmt := ⟨false⟩
  match lUnpack b c with
  | .nan => (s.nan, 0)
  | .zero => (s.zero, 0)
  | .inf n => (s.inf n, 0)
  | .fin n L =>
    let q := L / 64
    let r := L % 64
    let k := if r > 32 || (r = 32 && q % 2 = 1) then q + 1 else q
    if k > 62 then (s.code n 62, lfOVF ||| lfNX)
    else if k < -63 then (s.zero, lfUNF ||| lfNX)
    else (s.code n k, if r = 0 then 0 else lfNX)

/-- l8 to l16 (R119), exact. -/
def l8To16 (c : Nat) : Nat :=
  let b : LFmt := ⟨true⟩
  match lUnpack ⟨false⟩ c with
  | .nan => b.nan
  | .zero => b.zero
  | .inf n => b.inf n
  | .fin n L => b.code n (L * 64)

/-- Order of two log values by value: a < b (R117); the NaN code is unordered. -/
def lLt (l : LFmt) (a b : Nat) : Bool :=
  let key : LVal → Option Int := fun v => match v with
    | .nan => none
    | .zero => some 0
    | .inf n => some (if n then -100000 else 100000)
    | .fin n L => some (if n then -(L + 40000) else L + 40000)
  match key (lUnpack l a), key (lUnpack l b) with
  | some x, some y => x < y
  | _, _ => false

/-- Equality by value (R117). -/
def lEq (l : LFmt) (a b : Nat) : Bool :=
  match lUnpack l a, lUnpack l b with
  | .nan, _ => false
  | _, .nan => false
  | x, y => x == y

/-- `vladd`, `vlsub` (R124). -/
def lAdd (l : LFmt) (sub : Bool) (a b : Nat) : Nat × FFlags × LFlags :=
  let x := lToLin l a
  let y := if sub then (lToLin l b).neg else lToLin l b
  match x, y with
  | .nan _, _ => (l.nan, 0, 0)
  | _, .nan _ => (l.nan, 0, 0)
  | .inf n, .inf m => if n = m then (l.inf n, 0, 0) else (l.nan, flNV, 0)
  | .inf n, .fin _ _ _ => (l.inf n, 0, 0)
  | .fin _ _ _, .inf m => (l.inf m, 0, 0)
  | .fin n1 m1 e1, .fin n2 m2 e2 =>
    let (n, m, e) := addFin 0 n1 m1 e1 n2 m2 e2
    if m = 0 then (l.zero, 0, 0)
    else
      let (c, fl) := linToL l (.fin n m e)
      (c, 0, fl)

/-- `vlpow` (R125). -/
def lPow (l : LFmt) (a : Nat) (n : Int) : Nat × FFlags × LFlags :=
  match lUnpack l a with
  | .nan => (l.nan, 0, 0)
  | v =>
    if n = 0 then (l.code false 0, 0, 0)
    else
      let s := match v with
        | .inf x => x
        | .fin x _ => x
        | _ => false
      if s && n % 16 ≠ 0 then (l.nan, flNV, 0)
      else
        let sg := s && (n / 16) % 2 ≠ 0
        match v with
        | .zero => if n > 0 then (l.zero, 0, 0) else (l.inf false, flDZ, 0)
        | .inf _ => if n > 0 then (l.inf sg, 0, 0) else (l.zero, 0, 0)
        | .fin _ L =>
          let t := L * n
          let q := t / 16
          let r := t % 16
          let c := if r > 8 || (r = 8 && q % 2 ≠ 0) then q + 1 else q
          if c > l.maxL then (l.code sg l.maxL, 0, lfOVF ||| lfNX)
          else if c < l.minL then (l.zero, 0, lfUNF ||| lfNX)
          else (l.code sg c, 0, if r ≠ 0 then lfNX else 0)
        | .nan => (l.nan, 0, 0)

/-- `vlrecip` (R126). -/
def lRecip (l : LFmt) (a : Nat) : Nat × FFlags × LFlags :=
  match lUnpack l a with
  | .nan => (l.nan, 0, 0)
  | .zero => (l.inf false, flDZ, 0)
  | .inf _ => (l.zero, 0, 0)
  | .fin n L => if -L > l.maxL then (l.code n l.maxL, 0, lfOVF ||| lfNX) else (l.code n (-L), 0, 0)

end Sys2Proof.Machine
end

