-- ==== Sys2Proof/Machine/Block.lean ====
section
/-! DEFINITION. The block formats bx3, bx5, bx8 (spec/02 R33–R36, spec/06 R120). -/

namespace Sys2Proof.Machine

/-- Magnitude bits M of a block type (R33). -/
def bxM (et : EType) : Nat := if et == 10 then 2 else if et == 11 then 4 else 7

/-- Bytes of a block (R33). -/
def bxSize (et : EType) : Nat := if et == 10 then 8 else if et == 11 then 12 else 18

/-- One block: shared exponent, sub-shift byte, sixteen (sign, magnitude) fields. -/
structure Blk where
  E  : Nat
  qs : Nat
  el : List (Bool × Nat)
  deriving DecidableEq, Repr

/-- Element `i` decoded to its exact value (R34). -/
def blkVal (m : Nat) (E qs i : Nat) (s : Bool) (mag : Nat) : FVal :=
  if E = 0 then .fin false 0 0
  else if E = 255 then .nan false
  else if mag = 0 then .fin false 0 0
  else .fin s mag ((E : Int) - 127 - (qs / 2 ^ (2 * (i / 4)) % 4 : Nat) - m)

/-- floor(log2 |x|) of a finite non-zero value. -/
def flog2 : FVal → Int
  | .fin _ m e => (Nat.log2 m : Int) + e
  | _ => 0

/-- The largest floor(log2 |x|) among the non-zero finite values. -/
def maxLog : List FVal → Option Int
  | [] => none
  | v :: r =>
    if v.isZero || v.isNan then maxLog r
    else match maxLog r with
      | none => some (flog2 v)
      | some k => some (max (flog2 v) k)

/-- Does the decoded field equal the value? -/
def sameVal (a b : FVal) : Bool := fEqV a b

/-- Quantise one element at a scale (R35 step 5): sign, magnitude, saturated. -/
def quantElem (M : Nat) (E qsq : Nat) (x : FVal) : Bool × Nat × Bool :=
  match x with
  | .fin n m e =>
    if m = 0 then (false, 0, false)
    else
      let (k, _) := roundAt 0 n m 1 (e + M - E + 127 + qsq) 0
      let sat := k > 2 ^ M - 1
      let k' := if sat then 2 ^ M - 1 else k
      (if k' = 0 then false else n, k', sat)
  | _ => (false, 0, false)

/-- Quantise sixteen values (R35). -/
def quantise (M : Nat) (xs : List FVal) : Blk × FFlags :=
  if xs.any fun v => match v with | .fin _ _ _ => false | _ => true then
    ({ E := 255, qs := 0, el := xs.map fun _ => (false, 0) }, flNV)
  else match maxLog xs with
    | none => ({ E := 0, qs := 0, el := xs.map fun _ => (false, 0) }, 0)
    | some la =>
      let e0 := la + 128
      let E : Nat := if e0 < 1 then 1 else if e0 > 254 then 254 else e0.toNat
      let qsOf := fun q => match maxLog ((xs.drop (4 * q)).take 4) with
        | none => 3
        | some lq => (min 3 (max 0 ((E : Int) - 128 - lq))).toNat
      let qs := qsOf 0 + 4 * qsOf 1 + 16 * qsOf 2 + 64 * qsOf 3
      let qd := (xs.zip (List.range xs.length)).map fun (x, i) => quantElem M E (qs / 2 ^ (2 * (i / 4)) % 4) x
      let el := qd.map fun (s, m, _) => (s, m)
      let dec := (el.zip (List.range xs.length)).map fun ((s, m), i) => blkVal M E qs i s m
      let nx := (dec.zip xs).any fun (d, x) => !sameVal d x
      let uf := (el.zip xs).any fun ((_, m), x) => m == 0 && !x.isZero
      let of := e0 > 254 && qd.any fun (_, _, sat) => sat
      ({ E := E, qs := qs, el := el },
        (if nx then flNX else 0) ||| (if uf then flUF else 0) ||| (if of then flOF else 0))

/-- The register slots of a block (R120). -/
def blkSlots (M : Nat) (b : Blk) : List Nat :=
  (b.el.zip (List.range b.el.length)).map fun ((s, m), i) =>
    (if s then 2 ^ M else 0) + m + (if i = 0 then b.E * 256 else if i = 1 then b.qs * 256 else 0)

/-- A block from register slots (R120): every reader ignores the other bits. -/
def blkOfSlots (M : Nat) (sl : List Nat) : Blk :=
  { E := sl.headD 0 / 256 % 256, qs := (sl.drop 1).headD 0 / 256 % 256,
    el := sl.map fun v => (v / 2 ^ M % 2 = 1, v % 2 ^ M) }

/-- The little-endian bit string of the element fields. -/
def blkField (M : Nat) : List (Bool × Nat) → Nat
  | [] => 0
  | (s, m) :: r => (if s then 2 ^ M else 0) + m + 2 ^ (M + 1) * blkField M r

/-- A block's bytes in memory (R33). -/
def blkBytes (et : EType) (b : Blk) : List Byte :=
  BitVec.ofNat 8 b.E :: BitVec.ofNat 8 b.qs :: leBytes (bxSize et - 2) (blkField (bxM et) b.el)

/-- A block from its bytes in memory (R33). -/
def blkOfBytes (et : EType) (bs : List Byte) : Blk :=
  let M := bxM et
  let v := leNat (bs.drop 2)
  { E := fieldAt bs 0 1, qs := fieldAt bs 1 1,
    el := (List.range 16).map fun i => (v / 2 ^ ((M + 1) * i + M) % 2 = 1, natField v ((M + 1) * i) M) }

end Sys2Proof.Machine
end

