-- ==== Sys2Proof/Machine/Ops.lean ====
section
/-! DEFINITION. The named operations over registers, lines, translation, memory, landing words, traps and contexts that the
meanings share. -/

namespace Sys2Proof.Machine

open Host (Outcome)

/-! ### Actions -/

/-- How an action ends early: a trap of the instruction, which is then not committed (R275); a wait, uncommitted; an abort
completion of an access, at a physical address of this device or reported by another one, which ends the context (R341, R342). -/
inductive Exit where
  | trap (cause : Byte) (val : Word)
  | wait
  | abort (pa : Option Nat)
  deriving DecidableEq, Repr

/-- An action on the machine; an early end carries the state reached. -/
abbrev Act := StateT State (Except (Exit × State))

def endWith {α : Type} (e : Exit) : Act α := fun s => .error (e, s)

/-- Raise a trap (R275). -/
def trapWith {α : Type} (cause : Byte) (val : Word) : Act α := endWith (.trap cause val)

/-- The refusal of an access by its owner: a trap, or for DABORT the end of the context (R313, R342). -/
def refusedWith {α : Type} (cause : Byte) (val : Word) : Act α :=
  endWith (if cause = 0x0C then .abort none else .trap cause val)

/-! ### Cause codes (R275) -/

def cILL : Byte := 0x01
def cPRIV : Byte := 0x02
def cLINE : Byte := 0x03
def cTARGET : Byte := 0x04
def cALIGN : Byte := 0x05
def cPAGE : Byte := 0x06
def cPROT : Byte := 0x07
def cFMT : Byte := 0x08
def cVOWN : Byte := 0x09
def cRETN : Byte := 0x0A
def cREMIND : Byte := 0x0B
def cDABORT : Byte := 0x0C
def cGRANT : Byte := 0x0D
def cTRAP : Byte := 0x0E
def cASYNC : Byte := 0x0F

/-! ### Registers -/

/-- x0 reads 0 (R61). -/
def Thread.getX (t : Thread) (r : XReg) : Word := if r = 0 then 0 else t.x[r.toNat]'r.isLt

/-- A write to x0 is discarded (R77). -/
def Thread.setX (t : Thread) (r : XReg) (v : Word) : Thread :=
  if r = 0 then t else { t with x := t.x.set r.toNat v r.isLt }

def State.getX (s : State) (r : XReg) : Word := s.th.getX r

def State.setX (s : State) (r : XReg) (v : Word) : State := { s with th := s.th.setX r v }

def State.setTh (s : State) (t : Thread) : State := { s with th := t }

def Thread.isCore (t : Thread) : Bool :=
  match t.who with
  | .core _ => true
  | .tile _ _ _ => false

/-- The hall and tile of a tile thread. -/
def Thread.place (t : Thread) : Option (Nat × Nat) :=
  match t.who with
  | .tile h i _ => some (h, i)
  | .core _ => none

/-- `getid` (R264); on a core 0xFF00 | core number (R262). -/
def Thread.ident (t : Thread) : Word :=
  match t.who with
  | .tile h i n => (t.rank.setWidth 64 <<< 32) ||| BitVec.ofNat 64 (h % 256 * 2 ^ 24 + i % 256 * 2 ^ 16 + n % 256 * 2 ^ 8) |||
      t.stage.setWidth 64
  | .core n => BitVec.ofNat 64 (0xFF00 + n % 256)

/-- The `vowner` value that names the thread itself: {ctxid, id} (R274). -/
def Thread.selfOwner (t : Thread) : Word := (t.ctx.setWidth 64 <<< 32) ||| ((t.ident.setWidth 32).setWidth 64)

/-! ### Lines, heads and the next head (R42–R50) -/

/-- H of the header (R43). -/
def Line.heads (l : Line) : Nat := (l.bytes.extractLsb' 0 5).toNat

/-- Halfword `s` of a line (R42). -/
def Line.slot (l : Line) (s : Nat) : BitVec 16 := l.bytes.extractLsb' (16 * s) 16

/-- Tail bytes of heads 1 … s (R45). -/
def Line.tailSum (l : Line) : Nat → Nat
  | 0 => 0
  | s + 1 => l.tailSum s + tailBytes ((l.slot (s + 1)).extractLsb' 6 3).toNat

/-- R46. -/
def Line.malformed (l : Line) : Bool :=
  (l.bytes.extractLsb' 5 11 != 0) || l.heads == 0 || 2 * (l.heads + 1) + l.tailSum l.heads > 64

/-- The head in slot `s` with its tail (R45). -/
def Line.code (l : Line) (s : Nat) : Code :=
  let hd := l.slot s
  let n := tailBytes (hd.extractLsb' 6 3).toNat
  let lo := 64 - l.tailSum s
  { head := hd, tail := if n ≥ 8 then l.bytes.extractLsb' (8 * lo) 64
      else (l.bytes.extractLsb' (8 * lo) 64) &&& BitVec.ofNat 64 (2 ^ (8 * n) - 1) }

/-- The line of an address. -/
def lineOf (a : Word) : Word := a &&& ~~~(0x3F : Word)

/-- The slot an even address names in its line. -/
def slotOf (a : Word) : Nat := (a &&& 0x3F).toNat / 2

/-- next_head(pc) of R47 on the line as executed. -/
def nextHead (l : Line) (pc : Word) : Word := if slotOf pc < l.heads then pc + 2 else lineOf pc + 0x42

/-- An empty line, used where a thread has none. -/
def noLine : Line := { addr := 0, bytes := 0 }

def Thread.curLine (t : Thread) : Line := t.line.getD noLine

/-- The code of the instruction at the pc, from the snapshot. -/
def Thread.code (t : Thread) : Code := t.curLine.code (slotOf t.pc)

def Thread.nextPc (t : Thread) : Word := nextHead t.curLine t.pc

/-- Control passes to next_head(pc); beyond the last head the next line is entered (R47). -/
def Thread.advance (t : Thread) : Thread :=
  if slotOf t.pc < t.curLine.heads then { t with pc := t.nextPc }
  else { t with pc := t.nextPc, entering := true, cameFrom := t.pc }

/-- Control enters a target (R49): the checks are made when the entry is performed. -/
def Thread.enter (t : Thread) (target : Word) : Thread := { t with pc := target, entering := true, cameFrom := t.pc }

def State.advance (s : State) : State := { s with th := s.th.advance }

def State.enter (s : State) (target : Word) : State := { s with th := s.th.enter target }

/-- `trapval` of ILL and PRIV: the head in bits 15:0, the low 48 bits of the tail above (R57). -/
def codeVal (c : Code) : Word := (c.tail <<< 16) ||| c.head.setWidth 64

def State.codeVal (s : State) : Word := Machine.codeVal s.th.code

/-! ### Taking a trap and returning from one (R276, R294) -/

/-- The trap registers in use: those of M at M, else those of S (R273). -/
def Thread.tregs (t : Thread) : TrapRegs := if t.pl = 3 then t.mregs else t.sregs

def Thread.setTregs (t : Thread) (r : TrapRegs) : Thread :=
  if t.pl = 3 then { t with mregs := r } else { t with sregs := r }

/-- `trapcause` (R274): cause, `el`, `went`. -/
def causeWord (cause : Byte) (el : Bool) (went : Nat) : Word :=
  cause.setWidth 64 ||| (if el then 0x100 else 0) ||| BitVec.ofNat 64 (went % 32 * 2 ^ 16)

/-- Taking a trap (R276): the window freezes, the status and the trap registers are written, and control enters slot 1 of the
vector's line, which is read afresh (R50). `epc` is `trappc`. At M the level stays M (R273; log entry 10). -/
def Thread.takeTrap (t : Thread) (cause : Byte) (el : Bool) (went : Nat) (epc val : Word) : Thread :=
  let r := t.tregs
  let t' := t.setTregs { r with ppl := t.pl, pie := r.ie, ie := false, cause := causeWord cause el went, epc := epc, val := val }
  { t' with frozen := true, pl := if t.pl = 3 then 3 else 1, pc := r.vec + 2, entering := true, cameFrom := t.pc, line := none,
            lineIn := none }

/-- The image has a collective binding (spec/13 R237). -/
def Fabric.collective (f : Fabric) : Bool := f.binds.any fun b => b.extractLsb' 6 2 = 3

/-- The runs stand at an iteration boundary: what nodes have fired for a later token is given up, and nothing of it was visible
(R241). A run on a collective binding never stops. -/
def Fabric.boundary (f : Fabric) : Fabric :=
  if f.collective then f else { f with runs := f.runs.map fun r => { r with fired := [], ahead := [] } }

/-- What a window has begun and no access of it has performed is given up: a block or row read in part is read again (R72), and
its fabric's runs stand at a boundary (R241). -/
def State.giveUpParts (s : State) : State :=
  let s1 := { s with th := { s.th with window := s.th.window.map fun (e : Entry) => { e with got := [] } } }
  let stop := fun (x : Hall) => if x.fabric.owner = some s.th.tid then { x with fabric := x.fabric.boundary } else x
  { s1 with halls := s1.halls.map fun (x : Nat × Hall) => (x.1, stop x.2) }

/-- A scalar trap of the instruction at the pc, which is not committed. -/
def State.trap (s : State) (cause : Byte) (val : Word) : State :=
  let s1 := s.giveUpParts
  { s1 with th := s1.th.takeTrap cause false 0 s.th.pc val, stalled := false }

/-- An element, step or row trap: `trappc` is the first scalar instruction not committed (R72). -/
def State.trapElem (s : State) (cause : Byte) (went : Nat) (val : Word) : State :=
  let s1 := s.giveUpParts
  { s1 with th := s1.th.takeTrap cause true went s.th.pc val, stalled := false }

/-- `eret` (R294): the level returns to `ppl`; M and the reserved level are not entered from S (R273). The line is read afresh
(R50). -/
def Thread.eret (t : Thread) : Thread :=
  let r := t.tregs
  let t' := t.setTregs { r with ppl := 0, ie := r.pie, pie := true }
  let lv := if t.pl ≠ 3 ∧ 2 ≤ r.ppl.toNat then t.pl else r.ppl
  { t' with pl := lv, frozen := false, pc := r.epc, entering := true, cameFrom := t.pc, line := none, lineIn := none }

/-! ### Free values (R7) -/

/-- A byte the manual leaves open: constrained by nothing. -/
def freeByte : Act Byte := fun s => .ok (Config.freeByte s.fresh, { s with fresh := s.fresh + 1 })

/-- A word the manual leaves open. -/
def freeWord : Act Word := fun s => .ok (Config.freeWord s.fresh, { s with fresh := s.fresh + 1 })

/-! ### Threads, tiles, halls, contexts -/

/-- The thread numbered `tid`. -/
def State.thread (s : State) (tid : Nat) : Option Thread :=
  if s.th.tid = tid then some s.th else s.others.find? fun t => t.tid = tid

/-- Change the thread numbered `tid`. -/
def State.modThread (s : State) (tid : Nat) (f : Thread → Thread) : State :=
  if s.th.tid = tid then { s with th := f s.th }
  else { s with others := s.others.map fun t => if t.tid = tid then f t else t }

/-- All threads. -/
def State.threads (s : State) : List Thread := s.th :: s.others

/-- Give thread `tid` the turn; unknown numbers change nothing. -/
def State.select (s : State) (tid : Nat) : State :=
  if s.th.tid = tid then s
  else match s.others.find? fun t => t.tid = tid with
    | none => s
    | some t => { s with th := t, others := (s.others.filter fun u => u.tid ≠ tid) ++ [s.th] }

def State.tile (s : State) (h t : Nat) : Tile := (assocGet s.tiles (h, t)).getD Tile.fresh

def State.setTile (s : State) (h t : Nat) (x : Tile) : State := { s with tiles := assocSet s.tiles (h, t) x }

def State.hall (s : State) (h : Nat) : Hall := sget Hall.fresh s.halls h

def State.setHall (s : State) (h : Nat) (x : Hall) : State := { s with halls := sset Hall.fresh s.halls h x }

def State.ctx (s : State) (c : BitVec 32) : Option Ctx := s.ctxs.find? fun x => x.ctxid = c

def State.modCtx (s : State) (c : BitVec 32) (f : Ctx → Ctx) : State :=
  { s with ctxs := s.ctxs.map fun x => if x.ctxid = c then f x else x }

/-! ### Physical addresses (R5) -/

inductive PaKind where
  | hbm | gallery | reg | reserved
  deriving DecidableEq, Repr

def paKind (pa : Nat) : PaKind :=
  if pa < 0x006000000000 then .hbm
  else if 0x00F000000000 ≤ pa ∧ pa < 0x00F020000000 then .gallery
  else if 0x00FF00000000 ≤ pa ∧ pa < 0x010000000000 then .reg
  else .reserved

/-- The first byte of tile (h, t)'s gallery slice (R5). -/
def sliceBase (h t : Nat) : Nat := 0x00F000000000 + h * 2 ^ 24 + t * 2 ^ 20

/-- What an access needs of a leaf (R278). -/
inductive Access where
  | read | write | both | fetch
  deriving DecidableEq, Repr

/-- Where an address leads: a physical address here, or one at another device (R299). -/
inductive Loc where
  | here (pa : Nat)
  | away (dev : BitVec 14) (pa : Nat)
  deriving DecidableEq, Repr

/-! ### Uncorrectable units (R341) -/

/-- Some 32-byte unit of the range is uncorrectable (R341). -/
def State.touchesBad (s : State) (pa n : Nat) : Bool := s.badUnit.any fun u => u * 32 < pa + n && pa < u * 32 + 32

/-- Some uncorrectable unit is touched and not wholly covered (R341). -/
def State.partlyBad (s : State) (pa n : Nat) : Bool :=
  s.badUnit.any fun u => (u * 32 < pa + n && pa < u * 32 + 32) && !(pa ≤ u * 32 && u * 32 + 32 ≤ pa + n)

/-- An access on behalf of a context has met an uncorrectable unit, where no instruction takes the abort completion: the context is
aborted as the step ends (R341, R342; log entry 48). -/
def State.meetBad (s : State) (c : BitVec 32) (pa : Nat) : State :=
  if s.dues.any fun d => d.1 = c then s else { s with dues := s.dues ++ [(c, pa)] }

/-! ### Translation (R277–R280) -/

/-- A malformed entry at a level (R278): `lv` counts from 0. -/
def badEntry (lv : Nat) (e : BitVec 64) : Bool :=
  let leaf := e.getLsbD 1
  e.getLsbD 48 || (e.extractLsb' 7 7 != 0) ||
  (leaf && lv ≤ 1) || (!leaf && lv == 3) ||
  (leaf && lv == 2 && e.extractLsb' 14 11 != 0) ||
  (!leaf && (e.extractLsb' 49 15 != 0 || e.extractLsb' 2 5 != 0)) ||
  (leaf && !e.getLsbD 49 && e.extractLsb' 50 14 != 0)

/-- The base that bits 47:14 of an entry or of `ptroot` name. -/
def entryBase (e : BitVec 64) : Nat := (e.extractLsb' 14 34).toNat * 2 ^ 14

/-- The bits 47:14 of an entry moved on by `d` bytes. -/
def moveBase (e : BitVec 64) (d : BitVec 64) : BitVec 64 :=
  let mask : BitVec 64 := 0x0000FFFFFFFFC000
  (e &&& ~~~mask) ||| ((e + d) &&& mask)

/-- Entry `k` of the aligned run of 16 that holds the entry of an address. -/
def runSlot (m : Memory) (va sh table k : Nat) : BitVec 64 :=
  let i := va / 2 ^ sh % 2 ^ 11
  leWord (memRead m (table + 8 * (i - i % 16 + k)) 8)

/-- A valid leaf with `cont` = 1 (R279). -/
def contOf (e : BitVec 64) : Bool := e.getLsbD 0 && e.getLsbD 1 && e.getLsbD 6

/-- The entry that an access at a level uses, and log2 of the bytes it maps as a leaf: its own; in a run of 16 the run's first,
for the whole run; in a run that breaks its conditions one of the run's entries, whichever, and which one is open (R279). Levels 0
and 1 have no leaves. -/
def runEntry (m : Memory) (fr va sh table : Nat) : BitVec 64 × Nat :=
  let i := va / 2 ^ sh % 2 ^ 11
  let slot := runSlot m va sh table
  if 25 < sh ∨ !(List.range 16).any fun k => contOf (slot k) then (slot (i % 16), sh)
  else if entryBase (slot 0) % 2 ^ (sh + 4) = 0 ∧ (List.range 16).all fun k => slot k == slot 0 + BitVec.ofNat 64 (k * 2 ^ sh) then
    (slot 0, sh + 4)
  else
    let j := Config.contEntry va fr % 16
    let x := slot j
    if x.getLsbD 1 then (moveBase x (BitVec.ofNat 64 (i % 16 * 2 ^ sh) - BitVec.ofNat 64 (j * 2 ^ sh)), sh) else (x, sh)

/-- A walk meets an uncorrectable unit at a level (R341): in its entry, or in the run whose `cont` bits it looks at. -/
def State.walkBad (s : State) (va sh table : Nat) : Bool :=
  let i := va / 2 ^ sh % 2 ^ 11
  s.touchesBad (table + 8 * i) 8 ||
  (decide (sh ≤ 25) && ((List.range 16).any fun k => contOf (runSlot s.mem va sh table k)) && s.touchesBad (table + 8 * (i - i % 16)) 128)

/-- The walk (R277–R279): the leaf, and log2 of the bytes it maps; or the cause, DABORT at an uncorrectable unit (R341). Entries
are read at device scope. -/
def walkFrom (s : State) (va : Nat) : List Nat → Nat → Nat → Except Byte (BitVec 64 × Nat)
  | [], _, _ => .error cPROT
  | sh :: r, lv, table =>
    let (e, lg) := runEntry s.mem s.fresh va sh table
    if s.walkBad va sh table then .error cDABORT
    else if !e.getLsbD 0 then .error cPAGE
    else if badEntry lv e then .error cPROT
    else if e.getLsbD 1 then .ok (e, lg)
    else walkFrom s va r (lv + 1) (entryBase e)

def walk (s : State) (root va : Nat) : Except Byte (BitVec 64 × Nat) := walkFrom s va [47, 36, 25, 14] 0 root

/-- Does the leaf grant the access at this level (R278)? S and M may use pages with `u` set or clear. -/
def grants (leaf : BitVec 64) (pl : BitVec 2) (acc : Access) : Bool :=
  (pl != 0 || leaf.getLsbD 5) &&
  (match acc with
   | .read => leaf.getLsbD 2
   | .write => leaf.getLsbD 3
   | .both => leaf.getLsbD 2 && leaf.getLsbD 3
   | .fetch => leaf.getLsbD 4)

/-- The location a leaf gives for an address: PROT for a reserved address of this device (R5), and for a page with `rmt` = 1 while
`hiend` is masked (R274). -/
def leafLoc (own : BitVec 14) (hiend : Bool) (leaf : BitVec 64) (lg va : Nat) : Except Byte Loc :=
  let pa := entryBase leaf + va % 2 ^ lg
  let home : BitVec 14 := leaf.extractLsb' 50 14
  if leaf.getLsbD 49 && !hiend then .error cPROT
  else if leaf.getLsbD 49 && home != own then .ok (.away home pa)
  else if paKind pa = .reserved then .error cPROT
  else .ok (.here pa)

/-- A cached translation that covers an address (R280). -/
def tlbFind (tlb : List TlbEnt) (ctx : BitVec 32) (va : Nat) : Option TlbEnt :=
  tlb.find? fun e => e.ctx = ctx ∧ e.base ≤ va ∧ va < e.base + e.size

/-- Add a translation; a full TLB drops its oldest (R280). -/
def tlbAdd (tlb : List TlbEnt) (e : TlbEnt) : List TlbEnt :=
  if tlb.length < 4096 then tlb ++ [e] else tlb.drop 1 ++ [e]

/-- The address lies in the gallery slice of a retired tile that no spare has replaced: PROT (spec/22 R344). -/
def State.sliceRetired (s : State) (pa : Nat) : Bool :=
  s.tiles.any fun ((h, t), x) => x.retired && decide (sliceBase h t ≤ pa) && decide (pa < sliceBase h t + 2 ^ 20)

/-- PROT for a location in a retired slice. -/
def State.usable (s : State) : Except Byte Loc → Except Byte Loc
  | .ok (.here pa) => if s.sliceRetired pa then .error cPROT else .ok (.here pa)
  | r => r

/-- Translate by the tables of a context (R277, R278): the location or the cause, and the entry to cache. -/
def translateNow (s : State) (ctx : BitVec 32) (pl : BitVec 2) (hiend : Bool) (a : Nat) (acc : Access) : Except Byte (Loc × Option TlbEnt) :=
  match s.ctx ctx with
  | none => .error cPAGE
  | some c =>
    match walk s c.ptroot a with
    | .error e => .error e
    | .ok (leaf, lg) =>
      if grants leaf pl acc then
        (s.usable (leafLoc s.hiend.id hiend leaf lg a)).map fun l =>
          (l, some { ctx := ctx, base := a - a % 2 ^ lg, size := 2 ^ lg, leaf := leaf })
      else .error cPROT

/-- The tables still say what a cached translation says; tables that cannot be read do not differ from it. -/
def State.tlbCurrent (s : State) (e : TlbEnt) (a : Nat) : Bool :=
  match s.ctx e.ctx with
  | none => true
  | some c =>
    match walk s c.ptroot a with
    | .error e => e == cDABORT
    | .ok (leaf, lg) => leaf == e.leaf && 2 ^ lg == e.size

/-- Translate for a context at a level, through the TLB of a hall if the agent has one: the location or the cause, and the
entry to cache. While a cached translation differs from the tables, which of the two an access uses is open (R280). -/
def translate (s : State) (hall : Option Nat) (ctx : BitVec 32) (pl : BitVec 2) (hiend : Bool) (va : Word) (acc : Access) :
    Except Byte (Loc × Option TlbEnt) :=
  let a := va.toNat
  if a ≥ 2 ^ 56 then .error cPAGE
  else
    let cached := match hall with
      | none => none
      | some h => tlbFind (s.hall h).tlb ctx a
    match cached with
    | some e =>
      if s.tlbCurrent e a || Config.olderTranslation a s.th.pc s.fresh then
        if grants e.leaf pl acc then (s.usable (leafLoc s.hiend.id hiend e.leaf (Nat.log2 e.size) a)).map fun l => (l, none)
        else .error cPROT
      else (translateNow s ctx pl hiend a acc).map fun (l, _) => (l, none)
    | none => translateNow s ctx pl hiend a acc

/-- Keep a translation in the TLB of a hall. -/
def State.cacheTlb (s : State) (hall : Option Nat) : Option TlbEnt → State
  | none => s
  | some e =>
    match hall with
    | none => s
    | some h => s.setHall h { s.hall h with tlb := tlbAdd (s.hall h).tlb e }

/-- The hall whose TLB a thread uses. -/
def Thread.hall? (t : Thread) : Option Nat := t.place.map fun p => p.1

/-- Translate an address of the thread whose turn it is. At M addresses are physical (log entry 11). -/
def State.locate (s : State) (va : Word) (acc : Access) : Except Byte (Loc × Option TlbEnt) :=
  if s.th.pl = 3 then
    if va.toNat ≥ 2 ^ 48 ∨ paKind va.toNat = .reserved then .error cPROT else (s.usable (.ok (.here va.toNat))).map fun l => (l, none)
  else translate s s.th.hall? s.th.ctx s.th.pl (s.th.featen0.getLsbD 5) va acc

/-- The location of a virtual address, or PAGE or PROT with `trapval` = the address (R90, R162); a walk that meets an
uncorrectable unit ends the context (R341). -/
def xlate (va : Word) (acc : Access) : Act Loc := fun s =>
  match s.locate va acc with
  | .error c => .error (if c = cDABORT then .abort none else .trap c va, s)
  | .ok (l, e) => .ok (l, s.cacheTlb s.th.hall? e)

/-- ALIGN unless the address is a multiple of the size (R90). -/
def needAlign (va : Word) (size : Nat) : Act Unit :=
  if va.toNat % size = 0 then pure () else trapWith cALIGN va

/-! ### Bytes at their homes (R208, R341) -/

/-- The newest queued value of a byte: the queue is oldest first (R208). -/
def queuedByte (q : List Write) (pa : Nat) : Option Byte :=
  q.foldl (fun acc w => if w.pa ≤ pa ∧ pa < w.pa + w.bytes.length then w.bytes[pa - w.pa]? else acc) none

/-- A byte as an agent on a tile, or elsewhere, reads it (R208): the tile's store queue, the hall's write buffer, the home. -/
def State.readByte (s : State) (place : Option (Nat × Nat)) (pa : Nat) : Byte :=
  match place with
  | none => memByte s.mem pa
  | some (h, t) =>
    match queuedByte (s.tile h t).stores pa with
    | some b => b
    | none =>
      match queuedByte (s.hall h).buffer pa with
      | some b => b
      | none => memByte s.mem pa

/-- Consecutive bytes as an agent reads them. -/
def State.readBytes (s : State) (place : Option (Nat × Nat)) (pa : Nat) : Nat → List Byte
  | 0 => []
  | n + 1 => s.readByte place pa :: State.readBytes s place (pa + 1) n

/-- A write that covers a unit mends it (R341). -/
def State.mendUnits (s : State) (pa n : Nat) : State :=
  { s with badUnit := s.badUnit.filter fun u => !(pa ≤ u * 32 && u * 32 + 32 ≤ pa + n) }

/-- Bytes applied at their home (R208). -/
def State.apply (s : State) (pa : Nat) (bs : List Byte) : State :=
  { (s.mendUnits pa bs.length) with mem := memWrite s.mem pa bs }

/-- Bytes applied for a context: a write that would need the old bytes of an uncorrectable unit is not performed, and the context is
aborted (R341). -/
def State.applyFor (s : State) (c : BitVec 32) (pa : Nat) (bs : List Byte) : State :=
  if s.partlyBad pa bs.length then s.meetBad c pa else s.apply pa bs

/-! ### Service registers (R346) -/

/-- The value of a service register; nothing for an address the manual does not describe. -/
def svcReg (v : Service) (pa : Nat) : Option Word :=
  match pa with
  | 0x00FF00001000 => some ((if v.slot then 1 else 0) ||| (if v.fallback then 2 else 0) |||
      (v.rcause.setWidth 64 <<< 8) ||| (v.ver.setWidth 64 <<< 16))
  | 0x00FF00001008 => some (v.upd.setWidth 64 ||| (if v.rej then 0x10 else 0))
  | 0x00FF00001010 => some (v.hbeat.setWidth 64)
  | 0x00FF00001018 => some (BitVec.ofNat 64 (v.lvl % 16) ||| (v.tj.setWidth 64 <<< 8) ||| (if v.pcap then 0x10000 else 0) |||
      (if v.tcap then 0x20000 else 0))
  | 0x00FF00001020 => some (v.pwrcap.setWidth 64)
  | 0x00FF00001028 => some v.rasring
  | _ => none

/-- A read of `updreq` clears `rej` (R350). -/
def svcReadEffect (v : Service) (pa : Nat) : Service := if pa = 0x00FF00001008 then { v with rej := false } else v

/-- A bundle of `n` bytes in HBM (R347): header fields, and components by their offsets from its beginning. -/
def bundleOf (m : Memory) (base n : Nat) : Bundle :=
  let bs := memRead m base (min n 224)
  let comp := fun i =>
    let r := bytesAt bs (16 + 48 * i) 48
    let off := fieldAt r 4 4
    (fieldAt r 0 4, memRead m (base + off) (min (fieldAt r 8 8) (n - off)), bytesAt r 16 32)
  { magic := BitVec.ofNat 32 (fieldAt bs 0 4), ver := BitVec.ofNat 32 (fieldAt bs 4 4),
    minver := BitVec.ofNat 32 (fieldAt bs 8 4), bad := fieldAt bs 12 1 % 2 = 1, key := BitVec.ofNat 16 (fieldAt bs 14 2),
    header := patchAt (bytesAt bs 0 160) 12 [0], sig := bytesAt bs 160 64, comps := [comp 0, comp 1, comp 2] }

/-- The signature and digests of a bundle hold, with `bad` read as 0 (R347, R348). -/
def bundleSigned (b : Bundle) : Bool :=
  b.magic == 0x57465643 && Config.sm2Verify b.key.toNat b.header b.sig && b.comps.all fun (_, body, dig) => Config.sm3 body == dig

/-- A bundle passes every check of R348 under the anti-rollback counter. -/
def bundleValid (counter : BitVec 32) (b : Bundle) : Bool := bundleSigned b && !b.bad && !(b.ver.ult counter)

/-- Component of a type: 0 boot, 1 scheduler, 2 Benzia OS (R347). -/
def bundleComp (b : Bundle) (ty : Nat) : List Byte :=
  match b.comps.find? fun (t, _, _) => t = ty with
  | some (_, body, _) => body
  | none => []

/-- The queues are quiesced once no packet and no node instance is placed in part: the handover structure is written and the new
component starts, which places nothing (R350). -/
def State.closeQueues (s : State) : State :=
  if s.svc.upd = 1 ∧ !s.sched.paused ∧ !(s.sched.launches.any fun l => l.todo != [] && l.ran != [] && !l.failed) then
    { s with svc := { s.svc with handover := some s.sched }, sched := { s.sched with paused := true } }
  else s

/-- A write of `updreq` (R350): ignored with `rej` while an update is in progress; otherwise the bundle is checked and written
into the slot not booted, and the queues are quiesced at packet boundaries. -/
def State.updreq (s : State) (desc : Word) : State :=
  if s.svc.upd = 1 then { s with svc := { s.svc with rej := true } }
  else
    let d := memRead s.mem desc.toNat 32
    let b := bundleOf s.mem (fieldAt d 0 8) (fieldAt d 8 8)
    if bundleValid s.svc.counter b then
      let other := if s.svc.slot then 0 else 1
      let fl := s.svc.flash ++ List.replicate (2 - s.svc.flash.length) { b with magic := 0 }
      State.closeQueues { s with svc := { s.svc with upd := 1, updBundle := some b, flash := fl.set other b, updates := s.svc.updates + 1 } }
    else { s with svc := { s.svc with upd := 3 } }

/-- A write of `hbeat` by M (R346): the new component's first increment completes the update (R350). -/
def State.beat (s : State) (v : BitVec 32) : State :=
  let sv := { s.svc with hbeat := v }
  match sv.updBundle with
  | some b =>
    if sv.upd = 1 ∧ s.sched.paused ∧ v = s.svc.hbeat + 1 then
      { s with svc := { sv with upd := 2, updBundle := none, schedFw := bundleComp b 1 },
               sched := { s.sched with paused := false } }
    else { s with svc := sv }
  | none => { s with svc := sv }

/-- A write of a service register at a level (R346): writes to read-only registers are ignored. A write at an address of the range
at which the manual describes no register changes nothing the manual names (DESIGN CHOICE, log entry 12). -/
def State.svcWrite (s : State) (pl : BitVec 2) (pa : Nat) (v : Word) : State :=
  match pa with
  | 0x00FF00001008 => s.updreq v
  | 0x00FF00001010 => if pl = 3 then s.beat (v.setWidth 32) else s
  | 0x00FF00001020 =>
    let w : BitVec 12 := v.setWidth 12
    if w.toNat < 800 ∨ w.toNat > 2000 then s else { s with svc := { s.svc with pwrcap := w } }
  | 0x00FF00001028 => { s with svc := { s.svc with rasring := v &&& ~~~(0x3F : Word) } }
  | _ => s

/-- A read of a service register: its value and the state after it. At an address of the range at which the manual describes no
register the value is open (DESIGN CHOICE, log entry 12). -/
def State.svcRead (s : State) (pa : Nat) : Word × State :=
  match svcReg s.svc pa with
  | some v => (v, { s with svc := svcReadEffect s.svc pa })
  | none => (Config.freeWord s.fresh, { s with fresh := s.fresh + 1 })

/-! ### Local accesses -/

/-- Bytes of service registers: each register that the range touches is read whole, in order (log entry 12). The first number bounds
how many. -/
def State.readRegs (s : State) : Nat → Nat → Nat → List Byte × State
  | 0, _, _ => ([], s)
  | f + 1, pa, n =>
    if n = 0 then ([], s)
    else
      let k := min n (8 - pa % 8)
      let (v, s1) := s.svcRead (pa / 8 * 8)
      let (bs, s2) := State.readRegs s1 f (pa + k) (n - k)
      (bytesAt (leBytes 8 v.toNat) (pa % 8) k ++ bs, s2)

/-- Write bytes to service registers, each as one write of 64 bits; of a register that the range covers in part, the other bytes
written are open (log entry 12). -/
def State.writeRegs (s : State) (pl : BitVec 2) : Nat → Nat → List Byte → State
  | 0, _, _ => s
  | f + 1, pa, bs =>
    if bs = [] then s
    else
      let k := min bs.length (8 - pa % 8)
      if k = 8 then State.writeRegs (s.svcWrite pl pa (leWord (bs.take 8))) pl f (pa + 8) (bs.drop 8)
      else
        let v := leWord (patchAt (leBytes 8 (Config.freeWord s.fresh).toNat) (pa % 8) (bs.take k))
        State.writeRegs (State.svcWrite { s with fresh := s.fresh + 1 } pl (pa / 8 * 8) v) pl f (pa + k) (bs.drop k)

/-- Bytes at their home, and the state after the read: memory, or service registers. -/
def State.homeRead (s : State) (pa n : Nat) : List Byte × State :=
  if paKind pa = .reg then s.readRegs n pa n else (memRead s.mem pa n, s)

/-- A write at its home by an agent at a level: memory, or service registers. -/
def State.homeWrite (s : State) (pl : BitVec 2) (pa : Nat) (bs : List Byte) : State :=
  if paKind pa = .reg then s.writeRegs pl bs.length pa bs else s.apply pa bs

/-- Read bytes at a physical address of this device as the current thread sees them: DABORT for uncorrectable data. -/
def loadHere (pa n : Nat) : Act (List Byte) := fun s =>
  match paKind pa with
  | .reg => .ok (s.readRegs n pa n)
  | _ => if s.touchesBad pa n then .error (.abort (some pa), s) else .ok (s.readBytes s.th.place pa n, s)

/-- Queue a write in the tile's store queue (R208). -/
def State.queueWrite (s : State) (h t : Nat) (w : Write) : State :=
  s.setTile h t { s.tile h t with stores := (s.tile h t).stores ++ [w] }

/-- A queued write reaches its home (R208, R341). -/
def State.applyQueued (s : State) (w : Write) : State :=
  s.applyFor ((s.thread w.tid).map (·.ctx) |>.getD 0) w.pa w.bytes

/-- Apply every write of a queue, oldest first. -/
def State.applyAll (s : State) (ws : List Write) : State := ws.foldl State.applyQueued s

/-- Two writes share a byte. -/
def Write.meets (a b : Write) : Bool := decide (a.pa < b.pa + b.bytes.length) && decide (b.pa < a.pa + a.bytes.length)

/-- A queued write goes home before a later one: they share a byte (R212), or the later one is its thread's last (R155). -/
def Write.before (a b : Write) : Bool := a.meets b || (b.last && a.tid == b.tid)

/-- The writes of a queue that `p` names, with every earlier one that goes before one of them, and the rest, in order (R155,
R212). -/
def pullWrites (p : Write → Bool) (q : List Write) : List Write × List Write :=
  q.foldr (fun w (go, stay) => if p w || go.any w.before then (w :: go, stay) else (go, w :: stay)) ([], [])

/-- The queued writes of a tile and its hall that `p` names reach their homes, those that go before them first (R155, R208, R212).
-/
def State.drainWhere (s : State) (h t : Nat) (p : Write → Bool) : State :=
  let q := pullWrites p (s.tile h t).stores
  let b := pullWrites (fun w => p w || q.1.any w.before) (s.hall h).buffer
  let s1 := (s.applyAll b.1).applyAll q.1
  let s2 := s1.setHall h { s1.hall h with buffer := b.2 }
  s2.setTile h t { s2.tile h t with stores := q.2 }

/-- Every queued write of a tile and of its hall reaches its home (R208, R209). -/
def State.drain (s : State) (h t : Nat) : State :=
  let s1 := s.applyAll (s.hall h).buffer
  let s2 := s1.setHall h { s1.hall h with buffer := [] }
  let s3 := s2.applyAll (s2.tile h t).stores
  s3.setTile h t { s3.tile h t with stores := [] }

/-- The current thread's queued writes reach their homes. -/
def State.drainOwn (s : State) : State :=
  match s.th.place with
  | none => s
  | some (h, t) => if (s.tile h t).stores = [] ∧ (s.hall h).buffer = [] then s else s.drainWhere h t fun w => w.tid = s.th.tid

/-- A write touches a range of bytes. -/
def Write.within (w : Write) (pa n : Nat) : Bool := decide (w.pa < pa + n) && decide (pa < w.pa + w.bytes.length)

/-- What is queued on the current thread's way for some bytes reaches their home (R212). -/
def State.drainAt (s : State) (pa n : Nat) : State :=
  match s.th.place with
  | none => s
  | some (h, t) => if (s.tile h t).stores = [] ∧ (s.hall h).buffer = [] then s else s.drainWhere h t fun w => w.within pa n

/-- A write of another thread to some bytes is on its way. -/
def State.writeUnderway (s : State) (pa n : Nat) : Bool :=
  let other := fun (w : Write) => w.tid != s.th.tid && w.within pa n
  (s.tiles.any fun (_, x) => x.stores.any other) || s.halls.any fun (_, x) => x.buffer.any other

/-- A store of the current thread to a physical address of this device (R208, R341): a tile thread's goes through its tile's
store queue unless stores are applied at once, in their order. -/
def storeHere (pa : Nat) (bs : List Byte) : Act Unit := fun s =>
  match paKind pa with
  | .reg => .ok ((), s.writeRegs s.th.pl bs.length pa bs)
  | _ =>
    if s.partlyBad pa bs.length then .error (.abort (some pa), s)
    else match s.th.place with
      | some (h, t) =>
        if s.policy.apply then .ok ((), (s.drainAt pa bs.length).apply pa bs)
        else .ok ((), s.queueWrite h t { pa := pa, bytes := bs, tid := s.th.tid, last := false })
      | none => .ok ((), s.apply pa bs)

/-- A store that its home applies only after every earlier one of the thread on the way there (R155). -/
def storeLast (pa : Nat) (bs : List Byte) : Act Unit := do
  modify fun s => if s.policy.apply then s.drainOwn else s
  storeHere pa bs
  modify fun s => match s.th.place with
    | some (h, t) => if s.policy.apply then s
        else s.setTile h t { s.tile h t with stores := (s.tile h t).stores.modify ((s.tile h t).stores.length - 1) fun w => { w with last := true } }
    | none => s

/-- A read-modify-write at the home (R94, R168): the writes queued before it to its bytes have reached it first (R212). -/
def rmwHere (pa n : Nat) (f : Nat → Option Nat) : Act Nat := fun s =>
  match paKind pa with
  | .reg =>
    let (bs, s1) := s.readRegs n pa n
    match f (leNat bs) with
    | none => .ok (leNat bs, s1)
    | some v => .ok (leNat bs, s1.writeRegs s.th.pl n pa (leBytes n v))
  | _ =>
    if s.touchesBad pa n then .error (.abort (some pa), s)
    else
      let s1 := s.drainAt pa n
      let old := leNat (memRead s1.mem pa n)
      match f old with
      | none => .ok (old, s1)
      | some v => .ok (old, s1.apply pa (leBytes n v))

/-- The location of an address that the device resolves on behalf of a context: at M addresses are physical (log entry 11). -/
def State.resolve (s : State) (ctx : BitVec 32) (pl : BitVec 2) (hiend : Bool) (va : Word) (acc : Access) : Except Byte Loc :=
  if pl = 3 then (if va.toNat ≥ 2 ^ 48 ∨ paKind va.toNat = .reserved then .error cPROT else s.usable (.ok (.here va.toNat)))
  else (translate s none ctx pl hiend va acc).map (·.1)

/-- The physical address of an address of a context, as the device itself resolves it on the context's behalf; nothing if it
does not translate here. -/
def State.paOf (s : State) (ctx : BitVec 32) (pl : BitVec 2) (va : Word) (acc : Access) : Option Nat :=
  match s.resolve ctx pl true va acc with
  | .ok (.here pa) => some pa
  | _ => none

/-- The fields `issued`, `finished` and `status` of the graphs that have a generation in flight (spec/15 R266): their places. -/
def State.graphFields (s : State) : List Nat := s.sched.gens.filterMap fun g => (s.paOf g.ctx 1 g.addr .read).map (· + 8)

/-- The landing words that an access touches (R149), the sync objects that one of some threads is acquiring (R214), and the fields
of graphs in flight (R266): sixteen bytes each. -/
def State.wordsMet (s : State) (ts : List Thread) (pa n : Nat) : List Nat :=
  if paKind pa = .reg then []
  else
    let acquired := ts.filterMap fun t => match t.await with
      | some (.object _ o) => some o
      | _ => none
    (s.words ++ acquired ++ s.graphFields).filter fun w => w < pa + n && pa < w + 16

/-- Those that an access of the current thread touches. -/
def State.wordsAt (s : State) (pa n : Nat) : List Nat := s.wordsMet s.others pa n

/-- Fresh bytes that nothing constrains (R7). -/
def State.freeBytes (s : State) (n : Nat) : List Byte := (List.range n).map fun i => Config.freeByte (s.fresh + i)

/-- The fields of a landing word, an object or a graph become unpredictable (R149, R214, R266, R7), on the way that a store of the
current thread takes. -/
def State.spoil (s : State) (w : Nat) : State :=
  let bs := s.freeBytes 16
  let s1 := match s.th.place with
    | some (h, t) => if s.policy.apply then (s.drainAt w 16).apply w bs else s.queueWrite h t { pa := w, bytes := bs, tid := s.th.tid, last := false }
    | none => s.apply w bs
  { s1 with fresh := s1.fresh + 16 }

/-- Landing words, objects and graphs become unpredictable at their home. -/
def State.spoilHome (s : State) (ws : List Nat) : State :=
  ws.foldl (fun s w => { s.apply w (s.freeBytes 16) with fresh := s.fresh + 16 }) s

/-- A write by another device, or of another kind than a landing (R149): what it touches becomes unpredictable. -/
def State.applyPlain (s : State) (pa : Nat) (bs : List Byte) : State := (s.apply pa bs).spoilHome (s.wordsMet s.threads pa bs.length)

/-- A plain store (R149, R214): as `storeHere`, and the landing words and awaited objects it touches become unpredictable. -/
def storePlain (pa : Nat) (bs : List Byte) : Act Unit := do
  let ws := (← get).wordsAt pa bs.length
  storeHere pa bs
  modify fun s => ws.foldl State.spoil s

/-- An atomic or a compare-and-swap at the home (R94, R149, R214): as `rmwHere`, and the landing words and awaited objects it
touches become unpredictable. -/
def amoHere (pa n : Nat) (f : Nat → Option Nat) : Act Nat := do
  let ws := (← get).wordsAt pa n
  let old ← rmwHere pa n f
  modify fun s => s.spoilHome ws
  return old

/-! ### Landing words (R149, R150) -/

/-- A landing word's four fields. -/
structure LWord where
  count  : Nat
  target : Nat
  gen    : Nat
  flags  : Nat
  deriving DecidableEq, Repr

def lwOf (bs : List Byte) : LWord :=
  { count := fieldAt bs 0 4, target := fieldAt bs 4 4, gen := fieldAt bs 8 4, flags := fieldAt bs 12 4 }

def lwBytes (w : LWord) : List Byte := leBytes 4 w.count ++ leBytes 4 w.target ++ leBytes 4 w.gen ++ leBytes 4 w.flags

def LWord.armed (w : LWord) : Bool := w.flags % 2 = 1

/-- `check` of R150; reserved flag bits are written 0 (R149). -/
def lwCheck (w : LWord) : LWord :=
  if w.armed ∧ w.count ≥ w.target then
    { count := w.count - w.target, target := 0, gen := (w.gen + 1) % 2 ^ 32,
      flags := (if w.count > w.target ∨ w.flags / 2 % 2 = 1 then 2 else 0) + (if w.flags / 4 % 2 = 1 then 4 else 0) }
  else { w with flags := w.flags % 8 }

/-- `arrive` of R150. -/
def lwArrive (w : LWord) (u : Nat) : LWord :=
  if w.count + u > 0xFFFFFFFF then
    lwCheck { w with count := 0xFFFFFFFF, flags := w.flags % 2 + (w.flags / 2 % 2) * 2 + 4 }
  else lwCheck { w with count := w.count + u }

/-- A landing word stands at a physical address. -/
def State.noteWord (s : State) (pa : Nat) : State := { s with words := insertIdx s.words pa }

/-- Change the landing word at a physical address at its home: in memory, or in the registers that stand there (log entry 12). -/
def State.changeWord (s : State) (pl : BitVec 2) (pa : Nat) (f : LWord → LWord) : State :=
  let (bs, s1) := s.homeRead pa 16
  State.homeWrite (if paKind pa = .reg then s1 else s1.noteWord pa) pl pa (lwBytes (f (lwOf bs)))

/-- Units arrive at the landing word at a physical address. A word in an uncorrectable unit takes none (R341; log entry 48). -/
def State.arrive (s : State) (pa u : Nat) : State :=
  if s.touchesBad pa 16 then s else (s.noteWord pa).apply pa (lwBytes (lwArrive (lwOf (memRead s.mem pa 16)) u))

/-- Units arrive at the landing word at an address of a context; 0 counts nothing (R261), nor does one that does not translate
here at S (DESIGN CHOICE, log entry 38). -/
def State.arriveVa (s : State) (ctx : BitVec 32) (va : Word) (u : Nat) : State :=
  if va = 0 then s
  else match s.paOf ctx 1 va .both with
    | some pa => if s.touchesBad pa 16 then s.meetBad ctx pa else s.arrive pa u
    | none => s

/-! ### RAS records (R343, R345) -/

/-- A record's fields (R345). -/
structure RasRec where
  cls    : Nat
  action : Nat
  count  : Nat
  hall   : Nat := 0xFF
  tile   : Nat := 0xFF
  lane   : Nat := 0xFF
  port   : Nat := 0xFF
  ctx    : BitVec 32 := 0
  pa     : Nat := 0
  head   : Word := 0
  elem   : Nat := 0xFFFFFFFF
  deriving DecidableEq, Repr

/-- The 64 bytes of a record (R345); the time is a clock reading. -/
def rasBytes (number : BitVec 32) (time : Word) (r : RasRec) : List Byte :=
  leBytes 4 number.toNat ++ leBytes 1 r.cls ++ leBytes 1 r.action ++ leBytes 2 r.count ++ leBytes 1 r.hall ++ leBytes 1 r.tile ++
  leBytes 1 r.lane ++ leBytes 1 r.port ++ leBytes 4 r.ctx.toNat ++ leBytes 8 r.pa ++ leBytes 8 r.head.toNat ++
  leBytes 4 r.elem ++ leBytes 4 0 ++ leBytes 8 time.toNat ++ leBytes 16 0

/-- An interrupt with a record address for a Benzia core (R275). -/
def State.raiseAsync (s : State) (core : Nat) (record : Word) : State :=
  let f := fun (t : Thread) => if t.who = .core core then { t with irq := t.irq ++ [record] } else t
  { s with th := f s.th, others := s.others.map f }

/-- The RAS interrupt on the core that Benzia OS names for it, with the address of its record (R345; log entry 31). -/
def State.rasInterrupt (s : State) (record : Word) : State :=
  State.raiseAsync { s with ras := { s.ras with irqs := s.ras.irqs + 1 } } s.ras.core record

/-- Write a record into the ring and raise the RAS interrupt (R345). While `rasring` is 0 nothing is written. -/
def State.rasRecord (s : State) (r : RasRec) : State :=
  let n := s.ras.number
  let s1 := { s with ras := { s.ras with number := n + 1 } }
  if s.svc.rasring = 0 then s1
  else
    let hdr := s.svc.rasring.toNat
    let h := memRead s.mem hdr 64
    let base := fieldAt h 0 8
    let size := fieldAt h 8 4
    let head := fieldAt h 12 4
    let tail := fieldAt h 16 4
    let full := (head + 2 ^ 32 - tail) % 2 ^ 32 = size
    let s2 := s1.apply (base + 64 * (head % size)) (rasBytes n (Config.clock s.fresh) r)
    let s3 := s2.apply (hdr + 12) (leBytes 4 (head + 1))
    let s4 := if full then
        (s3.apply (hdr + 16) (leBytes 4 (tail + 1))).apply (hdr + 20) (leBytes 4 (fieldAt h 20 4 + 1))
      else s3
    State.rasInterrupt { s4 with fresh := s4.fresh + 1 } (BitVec.ofNat 64 (base + 64 * (head % size)))

/-- Events counted for a structure (R343). -/
def State.rasCount (s : State) (k : RasKey) : Nat := (assocGet s.ras.counts k).getD 0

/-- An event of a structure is counted, with those before it that are still within the window; how many are is a matter of time,
which the model has not, and is open (R343; log entry 31). -/
def State.rasBump (s : State) (k : RasKey) : State :=
  { s with fresh := s.fresh + 1,
           ras := { s.ras with counts := assocSet s.ras.counts k (min (s.rasCount k) (Config.eventsInWindow s.fresh) + 1) } }

/-- Mark a tile for retirement (R343, R344), with the events counted for the structure: it receives no new threads. -/
def State.markTile (s : State) (h t n : Nat) : State :=
  let x := s.tile h t
  if x.marked then s
  else (s.setTile h t { x with marked := true }).rasRecord { cls := 9, action := 4, count := n, hall := h, tile := t }

/-- Count an event of a tile's structure and retire the tile at the threshold (R343). -/
def State.rasTileEvent (s : State) (k : RasKey) (threshold h t : Nat) : State :=
  let s1 := s.rasBump k
  if s1.rasCount k ≥ threshold then s1.markTile h t (s1.rasCount k) else s1

/-- The structure that an error of memory counts for (R343): a 64-byte line of the gallery, or a row of HBM. -/
def memKeyOf (pa : Nat) : RasKey := if paKind pa = .gallery then .galleryLine (pa / 64 * 64) else .hbmRow (Config.hbmRow pa)

/-- The hall and tile whose gallery slice holds an address; 0xFF for none (R345). -/
def slicePlace (pa : Nat) : Nat × Nat :=
  if paKind pa = .gallery then ((pa - 0x00F000000000) / 2 ^ 24, pa / 2 ^ 20 % 16) else (0xFF, 0xFF)

/-- Byte 0x0B of a record about a memory address (R345): the high byte of the HBM pseudo-channel's number, or none. -/
def channelByte (pa : Nat) : Nat := if paKind pa = .hbm then Config.hbmChannel pa % 1024 / 256 else 0xFF

/-- An error of memory is counted and recorded (R341, R343, R345): a row or line that reaches its threshold is lasting. -/
def State.memError (s : State) (pa : Nat) (lost : Bool) : State :=
  let k := memKeyOf pa
  let p := slicePlace pa
  let s1 := s.rasBump k
  let n := s1.rasCount k
  let s2 := s1.rasRecord { cls := if lost then 6 else 5, action := 0, count := n, hall := p.1, tile := p.2, port := channelByte pa, pa := pa }
  let s3 := if n = 3 then
      let s3 := s2.rasRecord { cls := 9, action := 0, count := n, hall := p.1, tile := p.2, port := channelByte pa, pa := pa }
      match k with
      | .galleryLine a => { s3 with ras := { s3.ras with lasting := insertIdx s3.ras.lasting a } }
      | _ => s3
    else s2
  if lost && s.svc.rasring == 0 then s3.rasInterrupt 0 else s3

/-! ### Aborting a context (R342) and failing its launches (R261) -/

/-- A launch fails: its threads are discarded, and each that had not exited adds a unit to `done` (R261). -/
def State.failLaunch (s : State) (l : Launch) : State :=
  let s1 := s.arriveVa l.ctx l.pkt.done (l.total - l.exited)
  { s1 with sched := { s1.sched with
      launches := s1.sched.launches.map fun x => if x.id = l.id then { x with failed := true, todo := [], exited := x.total } else x,
      pool := s1.sched.pool.filter fun p => l.node != some p,
      gens := match l.node with
        | none => s1.sched.gens
        | some (g, n) => s1.sched.gens.map fun x => if x.id = g then { x with st := x.st.set n .failed, failed := true } else x } }

/-- A transfer stops with a status; its units still arrive (R173). `status` and `result` go into its block. -/
def statusOffset : XferKind → Nat
  | .cpy => 36
  | .cpy2d => 44
  | .sxfer => 28
  | .mdec => 80
  | .nxfer => 36

def resultOffset : XferKind → Nat
  | .cpy => 40
  | .cpy2d => 48
  | .sxfer => 32
  | .mdec => 88
  | .nxfer => 40

/-- Write bytes at an offset of a transfer's block, if it still translates. -/
def State.writeBlock (s : State) (x : Xfer) (off : Nat) (bs : List Byte) : State :=
  match s.paOf x.ctx x.pl (x.block + BitVec.ofNat 64 off) .write with
  | none => s
  | some pa => s.applyFor x.ctx pa bs

/-- Write `status` and `result` into a block. -/
def State.writeStatus (s : State) (x : Xfer) (status result : Nat) : State :=
  (s.writeBlock x (resultOffset x.kind) (leBytes 8 result)).writeBlock x (statusOffset x.kind) (leBytes 4 status)

/-- Units arrive at the landing word a transfer names, here or at another device (R173). -/
def State.unitsTo (s : State) (x : Xfer) (u : Nat) : State :=
  match s.resolve x.ctx x.pl true x.lword .both with
  | .ok (.here pa) => s.arrive pa u
  | .ok (.away dev pa) =>
    { s with peers := s.peers.map fun p =>
        if p.id = dev then { p with mem := memWrite p.mem pa (lwBytes (lwArrive (lwOf (memRead p.mem pa 16)) u)) } else p }
  | .error _ => s

/-- The landing word of a transfer stands in an uncorrectable unit of this device (R341). -/
def State.wordBad (s : State) (x : Xfer) : Bool := match s.resolve x.ctx x.pl true x.lword .both with
  | .ok (.here pa) => s.touchesBad pa 16
  | _ => false

/-- A transfer ends: status, then its remaining units where they reach their word, then its graph node. A node's landing word may be
0 for none (R268). A word in an uncorrectable unit gives the engine an abort completion (R341; log entry 48). -/
def State.endXferIf (s : State) (x : Xfer) (was result : Nat) (reach : Bool) : State :=
  let count := reach && !(x.node.isSome && x.lword == 0)
  let status := if was = 0 ∧ count ∧ s.wordBad x then 0x0C else was
  let s1 := s.writeStatus x status result
  let s2 := if count then s1.unitsTo x (x.units - x.sent) else s1
  { s2 with
    xfers := s2.xfers.filter fun y => y.id ≠ x.id
    sched := { s2.sched with gens := match x.node with
      | none => s2.sched.gens
      | some (g, n) => s2.sched.gens.map fun z => if z.id = g then
          { z with st := z.st.set n (if status = 0 then .finished else .failed), failed := z.failed || status != 0 } else z } }

/-- A transfer ends and its units arrive. -/
def State.endXfer (s : State) (x : Xfer) (status result : Nat) : State := s.endXferIf x status result true

/-- Release the fabrics a thread owns or waits for (R234). -/
def State.releaseFabrics (s : State) (tid : Nat) : State :=
  { s with halls := s.halls.map fun (h, x) =>
      (h, { x with fabric :=
        let f := { x.fabric with waiters := x.fabric.waiters.filter fun w => w ≠ tid }
        if f.owner = some tid then { Fabric.free with waiters := f.waiters } else f }) }

/-- A thread releases the z tiles it holds. -/
def State.releaseZ (s : State) (tid : Nat) : State :=
  { s with tiles := s.tiles.map fun (k, x) => (k, { x with z := x.z.map fun z => if z.holder = some tid then { z with holder := none } else z }) }

/-- A thread that is discarded stops where it stands (R261, R342); a core that ran for it is idle. -/
def Thread.halt (t : Thread) : Thread :=
  { t with run := if t.isCore then .exited else .aborted, await := none, window := [], part := none, pendPre := none, frozen := false,
           unchecked := [], loads := [], saved := none, rests := [] }

/-- The thread has not ended. -/
def Thread.alive (t : Thread) : Bool := t.run != .exited && t.run != .aborted

/-- A thread of an aborted context stops (R342). Firmware at M on a core is no thread of a context. -/
def Thread.stopFor (c : BitVec 32) (t : Thread) : Thread :=
  if t.ctx = c ∧ (t.pl ≠ 3 ∨ t.launch ≠ 0 ∨ t.isCore = false) ∧ t.alive then t.halt else t

/-- The context is aborted (R342): its threads stop, its launches fail, its copies stop with `status` 0x0C and the bytes done in
order (R173), its serials are not sent again. -/
def State.abortCtx (s : State) (c : BitVec 32) : State :=
  let victims := (s.threads.filter fun t => t.ctx = c ∧ !t.isCore).map (·.tid)
  let s1 := { s with th := s.th.stopFor c, others := s.others.map (Thread.stopFor c), stalled := false }
  let s2 := victims.foldl (fun s t => (s.releaseFabrics t).releaseZ t) s1
  let s3 := (s2.sched.launches.filter fun l => l.ctx = c ∧ !l.failed ∧ l.exited < l.total).foldl State.failLaunch s2
  let mine := s3.xfers.filter fun x => x.ctx = c
  let s4 := mine.foldl (fun s x => s.endXfer x 0x0C x.moved) { s3 with stops := s3.stops ++ mine }
  s4.modCtx c fun x => { x with aborted := true, out := [] }

/-- The context is aborted for a reason that no RAS record tells: Benzia OS learns of it by an interrupt on the context's core
(R261; log entry 48). -/
def State.abortTold (s : State) (c : BitVec 32) : State :=
  let s1 := s.abortCtx c
  match s.ctx c with
  | none => s1
  | some x => s1.raiseAsync x.irqCore 0

/-- DABORT met by the current thread (R341, R342): recorded where the unit is this device's, and its context aborted. -/
def State.dabort (s : State) : Option Nat → State
  | none => s.abortTold s.th.ctx
  | some pa =>
    let p := slicePlace pa
    (s.rasRecord { cls := 6, action := 2, count := s.rasCount (memKeyOf pa), hall := p.1, tile := p.2, port := channelByte pa, pa := pa,
                   ctx := s.th.ctx, head := s.th.pc }).abortCtx s.th.ctx

/-- The contexts for which an access met an uncorrectable unit in this step are aborted (R341, R342). -/
def State.abortDue (s : State) : State :=
  s.dues.foldl (fun s (c, pa) =>
    if (s.ctx c).all (·.aborted) then s
    else
      let p := slicePlace pa
      (s.rasRecord { cls := 6, action := 2, count := s.rasCount (memKeyOf pa), hall := p.1, tile := p.2, port := channelByte pa, pa := pa,
                     ctx := c }).abortCtx c) { s with dues := [] }

/-! ### Running an action -/

/-- The thread has a run in progress on a collective binding: a trap of another instruction waits for its end (R241). -/
def State.collectiveBusy (s : State) (tid : Nat) : Bool :=
  s.halls.any fun (_, h) => h.fabric.collective && h.fabric.runs.any fun r => r.tid = tid

/-- A trap that an instruction raises is taken, unless a run on a collective binding holds it back (R241) or a check is under way,
whose squash would come before the freeze (R338). -/
def State.trapOrWait (s : State) (c : Byte) (v : Word) : State :=
  if s.collectiveBusy s.th.tid || s.th.unchecked != [] then { s with stalled := true } else s.trap c v

/-- The outcome of an action: its trap is taken, its wait leaves the thread stalled at the instruction. -/
def runAct (a : Act Unit) (s : State) : Outcome State Fault Refusal :=
  match a s with
  | .ok (_, s') => .next s'
  | .error (.trap c v, s') => .next (s'.trapOrWait c v)
  | .error (.wait, s') => .next { s' with stalled := true }
  | .error (.abort pa, s') => .next (s'.dabort pa)

/-- The action ends and control passes to the next head. -/
def advanceAct : Act Unit := modify State.advance

/-- Write a register and pass to the next head. -/
def retX (d : XReg) (v : Word) : Act Unit := modify fun s => (s.setX d v).advance

/-- ILL with the head and tail of the instruction at the pc (R57). -/
def illegal {α : Type} : Act α := do trapWith cILL (← get).codeVal

/-- ILL on a Benzia core (R59). -/
def notOnCore : Act Unit := do if (← get).th.isCore then illegal else pure ()

/-- ILL while a feature is masked (R57, R274); the bit of `featen0`. -/
def needFeature (bit : Nat) : Act Unit := do if (← get).th.featen0.getLsbD bit then pure () else illegal

/-- PRIV at U (R58). -/
def needS : Act Unit := do
  let s ← get
  if s.th.pl = 0 then trapWith cPRIV s.codeVal else pure ()

end Sys2Proof.Machine
end

