-- ==== Sys2Proof/Machine/Operands.lean ====
section
/-! DEFINITION. Operand forms: second sources and immediates (spec/02 R37, R38; spec/06 R106), the format V key of an
instruction, source tags (spec/04 R70) and destination tags (R69). -/

namespace Sys2Proof.Machine

/-- Major, minor and fields of an instruction of format V (R56); nothing for the others. -/
def vkey : Instr → Option (Nat × Nat × VOp)
  | .vaddInt o => some (0x30, 0, o)
  | .vsubInt o => some (0x30, 1, o)
  | .vmulInt o => some (0x30, 2, o)
  | .vmulh o => some (0x30, 3, o)
  | .vmulhN o => some (0x30, 4, o)
  | .vdivInt o => some (0x30, 5, o)
  | .vdivN o => some (0x30, 6, o)
  | .vrem o => some (0x30, 7, o)
  | .vremN o => some (0x30, 8, o)
  | .vminInt o => some (0x30, 9, o)
  | .vminN o => some (0x30, 10, o)
  | .vmaxInt o => some (0x30, 11, o)
  | .vmaxN o => some (0x30, 12, o)
  | .vand o => some (0x30, 13, o)
  | .vor o => some (0x30, 14, o)
  | .vxor o => some (0x30, 15, o)
  | .vsll o => some (0x30, 16, o)
  | .vsrl o => some (0x30, 17, o)
  | .vsra o => some (0x30, 18, o)
  | .vaddsat o => some (0x30, 19, o)
  | .vaddsatN o => some (0x30, 20, o)
  | .vsubsat o => some (0x30, 21, o)
  | .vsubsatN o => some (0x30, 22, o)
  | .vabsInt o => some (0x30, 23, o)
  | .vnegInt o => some (0x30, 24, o)
  | .vmacc o => some (0x30, 25, o)
  | .vclz o => some (0x30, 26, o)
  | .vcpop o => some (0x30, 27, o)
  | .vaddFp o => some (0x31, 0, o)
  | .vsubFp o => some (0x31, 1, o)
  | .vmulFp o => some (0x31, 2, o)
  | .vdivFp o => some (0x31, 3, o)
  | .vsqrt o => some (0x31, 4, o)
  | .vminFp o => some (0x31, 5, o)
  | .vmaxFp o => some (0x31, 6, o)
  | .vfma o => some (0x31, 7, o)
  | .vfms o => some (0x31, 8, o)
  | .vfnma o => some (0x31, 9, o)
  | .vrsqrte o => some (0x31, 10, o)
  | .vrcpe o => some (0x31, 11, o)
  | .vabsFp o => some (0x31, 12, o)
  | .vnegFp o => some (0x31, 13, o)
  | .vsgnj o => some (0x31, 14, o)
  | .vclass o => some (0x31, 15, o)
  | .vround o => some (0x31, 16, o)
  | .veq o => some (0x32, 0, o)
  | .vne o => some (0x32, 1, o)
  | .vlt o => some (0x32, 2, o)
  | .vle o => some (0x32, 3, o)
  | .vgt o => some (0x32, 4, o)
  | .vge o => some (0x32, 5, o)
  | .vltN o => some (0x32, 6, o)
  | .vleN o => some (0x32, 7, o)
  | .vgtN o => some (0x32, 8, o)
  | .vgeN o => some (0x32, 9, o)
  | .vnz o => some (0x32, 10, o)
  | .vnan o => some (0x32, 11, o)
  | .vcvt o => some (0x33, 0, o)
  | .vcvtSat o => some (0x33, 1, o)
  | .vretag o => some (0x33, 2, o)
  | .vquant o => some (0x33, 3, o)
  | .vredsumOrd o => some (0x34, 0, o)
  | .vredsumTree o => some (0x34, 1, o)
  | .vredmax o => some (0x34, 2, o)
  | .vredmin o => some (0x34, 3, o)
  | .vredand o => some (0x34, 4, o)
  | .vredor o => some (0x34, 5, o)
  | .vredxor o => some (0x34, 6, o)
  | .vslideup o => some (0x35, 0, o)
  | .vslidedown o => some (0x35, 1, o)
  | .vslide1up o => some (0x35, 2, o)
  | .vslide1down o => some (0x35, 3, o)
  | .vgather o => some (0x35, 4, o)
  | .vcompress o => some (0x35, 5, o)
  | .vexpand o => some (0x35, 6, o)
  | .vrev o => some (0x35, 7, o)
  | .kand o => some (0x36, 0, o)
  | .kor o => some (0x36, 1, o)
  | .kxor o => some (0x36, 2, o)
  | .knot o => some (0x36, 3, o)
  | .kandn o => some (0x36, 4, o)
  | .kbrkb o => some (0x36, 5, o)
  | .kbrka o => some (0x36, 6, o)
  | .kbrkf o => some (0x36, 7, o)
  | .kfirst o => some (0x36, 8, o)
  | .kcount o => some (0x36, 9, o)
  | .kiota o => some (0x36, 10, o)
  | .vid o => some (0x36, 11, o)
  | .vmv o => some (0x37, 0, o)
  | .vsplat o => some (0x37, 1, o)
  | .vsplati o => some (0x37, 2, o)
  | .vmvxs o => some (0x37, 3, o)
  | .vmvsx o => some (0x37, 4, o)
  | .vmerge o => some (0x37, 5, o)
  | .vextract o => some (0x37, 6, o)
  | .vladd o => some (0x38, 0, o)
  | .vlsub o => some (0x38, 1, o)
  | .vlpow o => some (0x38, 2, o)
  | .vlrecip o => some (0x38, 3, o)
  | .vopa o => some (0x64, 0, o)
  | _ => none

/-- Mode and fields of a vector load (R56). -/
def loadKey : Instr → Option (Nat × VMOp)
  | .vld o => some (0, o)
  | .vlds o => some (1, o)
  | .vldx o => some (2, o)
  | .vldxo o => some (3, o)
  | .vldc o => some (4, o)
  | _ => none

/-- Mode and fields of a vector store (R56). -/
def storeKey : Instr → Option (Nat × VMOp)
  | .vst o => some (0, o)
  | .vsts o => some (1, o)
  | .vstx o => some (2, o)
  | .vstxo o => some (3, o)
  | .vstc o => some (4, o)
  | _ => none

/-- Minor, mode and fields of a `vamo` (R56). -/
def vamoKey : Instr → Option (Nat × Nat × VMOp)
  | .vamoAdd m o => some (0, m.toNat, o)
  | .vamoMin m o => some (1, m.toNat, o)
  | .vamoMax m o => some (2, m.toNat, o)
  | .vamoMinN m o => some (3, m.toNat, o)
  | .vamoMaxN m o => some (4, m.toNat, o)
  | .vamoAnd m o => some (5, m.toNat, o)
  | .vamoOr m o => some (6, m.toNat, o)
  | .vamoXor m o => some (7, m.toNat, o)
  | .vamoSwap m o => some (8, m.toNat, o)
  | .vamoFadd m o => some (9, m.toNat, o)
  | _ => none

/-! ### Immediates -/

/-- A signed 16-bit immediate in `w` bits. -/
def sext16To (w : Nat) (i : BitVec 16) : Nat := ofInt w i.toInt

/-- An f16 pattern read for a float type (R38): widened exactly, rounded RNE to bf16; a NaN becomes canonical. Raises no flag. -/
def immFloat (et : EType) (i : BitVec 16) : Nat :=
  if et == 4 then (if (unpack .f16 i.toNat).isNan then FFmt.f16.nan else i.toNat)
  else (packVal (fmtOf et) 0 (unpack .f16 i.toNat)).1

/-- An l16 code read for a log type (R38). -/
def immLog (et : EType) (i : BitVec 16) : Nat := if et == 9 then i.toNat else (l16To8 i.toNat).1

/-- The immediate of a type whose integers are sign-extended (`s`) or zero-extended (R37, R38, R106). -/
def immOf (et : EType) (s : Bool) (i : BitVec 16) : Nat :=
  if isFloatT et then immFloat et i
  else if isLogT et then immLog et i
  else if s then sext16To (widthOf et) i else i.toNat % 2 ^ widthOf et

/-- Integer minors whose immediate is zero-extended: bitwise, shifts and `.n` (R37, R106). -/
def immUnsigned (major minor : Nat) : Bool :=
  (major == 0x30 && (minor == 4 || minor == 6 || minor == 8 || minor == 10 || minor == 12 || minor == 13 || minor == 14 ||
    minor == 15 || minor == 16 || minor == 17 || minor == 18 || minor == 20 || minor == 22)) ||
  (major == 0x32 && (minor == 6 || minor == 7 || minor == 8 || minor == 9)) ||
  (major == 0x35 && (minor == 0 || minor == 1 || minor == 4)) ||
  (major == 0x37 && minor == 6)

/-- The rounding mode of an instruction (R21): `rm` 0 takes the dynamic mode snapshotted at post, 1 is RNE, 2 is RTZ. -/
def modeOf (rm frm : BitVec 2) : RMode := if rm = 0 then frm else if rm = 1 then 0 else 1

/-! ### Tags -/

/-- What a vector source's tag must be (R70). -/
inductive TagReq where
  | exact (t : EType)
  | width (w : Nat)
  /-- one of f16, bf16, f32, f64, l8, l16 (R121) -/
  | quantisable
  /-- an integer type (R118 `su`) -/
  | integer
  | any
  deriving DecidableEq, Repr

def TagReq.ok (r : TagReq) (t : EType) : Bool :=
  match r with
  | .exact u => t == u
  | .width w => widthOf t == w && t.ult 13
  | .quantisable => isFloatT t || isLogT t
  | .integer => isIntT t
  | .any => true

/-- Bitwise and move-like minors, which take any tag of the width and keep the first source's (R70). -/
def keepsTag (major minor : Nat) : Bool :=
  (major == 0x30 && (minor == 13 || minor == 14 || minor == 15)) || major == 0x35 ||
  (major == 0x37 && (minor == 0 || minor == 3 || minor == 5 || minor == 6))

/-- The requirement on `vs1`. -/
def req1 (major minor : Nat) (o : VOp) : TagReq :=
  if keepsTag major minor then .width (widthOf o.et)
  else if major == 0x33 then
    (if minor == 2 then .width (widthOf o.et) else if minor == 3 then .quantisable else if cvtSu o then .integer else .any)
  else if major == 0x34 && 4 ≤ minor then .width (widthOf o.et)
  else .exact o.et

/-- The requirement on a v second source. For the initial value of a bitwise reduction any tag of the width passes, as for its
elements (DESIGN CHOICE, log entry 70: R138 asks for the tag `et` of every init and for the width of every source of these
minors). -/
def req2 (major minor : Nat) (o : VOp) : TagReq :=
  if major == 0x35 && minor == 4 then .exact 2
  else if keepsTag major minor then .width (widthOf o.et)
  else if major == 0x31 && minor == 14 then .width (widthOf o.et)
  else if major == 0x38 && minor == 2 then .exact 1
  else if major == 0x34 && 4 ≤ minor then .width (widthOf o.et)
  else .exact o.et

/-- The v sources of a format V instruction with their requirements and whether each names a pair (R70, R109). -/
def vSources (major minor : Nat) (o : VOp) : List (VReg × TagReq × Bool) :=
  let sp := vSpec major minor
  (if sp.src1 == .vec then [(o.vs1, req1 major minor o, is64 o.et && !(major == 0x33 && (minor ≤ 1 || minor == 3)))] else []) ++
  (match o.src2 with
   | .v r => if sp.src2 == .vecOrX || sp.src2 == .vecOnly then
       [(r, req2 major minor o, is64 o.et && !(major == 0x35 && minor == 4))] else []
   | _ => []) ++
  (if sp.vs3 then [(o.vs3, .exact o.et, is64 o.et)] else [])

/-- The i type of a width (R114). -/
def intOfWidth (w : Nat) : EType := if w = 8 then 0 else if w = 16 then 1 else if w = 32 then 2 else 3

/-- The destination's tag (R69, R70, R114, R127); `t1` is the tag of the first source. -/
def dstTag (major minor : Nat) (o : VOp) (t1 : EType) : EType :=
  if keepsTag major minor then t1
  else if major == 0x31 && minor == 15 then intOfWidth (widthOf o.et)
  else o.et

end Sys2Proof.Machine
end

