-- ==== Sys2Proof/Machine/Flags.lean ====
section
/-! DEFINITION. Flags of `fcsr` and `lsat` (spec/02 R24, R25, R29) and the results of the element-wise instructions with the
flags they raise (spec/06 R111–R126, spec/07). -/

namespace Sys2Proof.Machine

/-- OR the flags of a firing element into the thread's sticky registers (R25). -/
def Thread.orFlags (t : Thread) (f : FFlags) (l : LFlags) : Thread :=
  { t with fcsr := t.fcsr ||| f.setWidth 7, lsat := t.lsat ||| l }

/-- The flags of an element, step or row of the window; those of a thread that is switched out come after its scalar state has been
saved (R25, R285). -/
def Thread.raise (t : Thread) (f : FFlags) (l : LFlags) : Thread :=
  let u := t.orFlags f l
  if t.run = .running then u else { u with lateF := t.lateF ||| f, lateL := t.lateL ||| l }

def State.orFlags (s : State) (f : FFlags) (l : LFlags) : State := { s with th := s.th.orFlags f l }

/-- The dynamic rounding mode (R24). -/
def Thread.frm (t : Thread) : RMode := t.fcsr.extractLsb' 5 2

/-- The result of an element and its flags. -/
structure ElemRes where
  val : Nat
  ff  : FFlags := 0
  lf  : LFlags := 0
  deriving DecidableEq, Repr

/-! ### Integers (R17–R19) -/

/-- Quotient of `w`-bit integers (R19). -/
def divRes (w : Nat) (uns : Bool) (a b : Nat) : Nat :=
  if b % 2 ^ w = 0 then 2 ^ w - 1
  else if uns then a % 2 ^ w / (b % 2 ^ w)
  else ofInt w (Int.tdiv (toSigned w a) (toSigned w b))

/-- Remainder of `w`-bit integers (R19). -/
def remRes (w : Nat) (uns : Bool) (a b : Nat) : Nat :=
  if b % 2 ^ w = 0 then a % 2 ^ w
  else if uns then a % 2 ^ w % (b % 2 ^ w)
  else ofInt w (Int.tmod (toSigned w a) (toSigned w b))

/-- High `w` bits of the exact product (R18). -/
def mulhRes (w : Nat) (uns : Bool) (a b : Nat) : Nat :=
  if uns then (a % 2 ^ w) * (b % 2 ^ w) / 2 ^ w else ofInt w (toSigned w a * toSigned w b / 2 ^ w)

/-- A value as a `w`-bit integer, signed or not. -/
def asInt (w : Nat) (uns : Bool) (a : Nat) : Int := if uns then ((a % 2 ^ w : Nat) : Int) else toSigned w a

/-- Minimum or maximum (R79, R111). -/
def minMaxRes (w : Nat) (uns mx : Bool) (a b : Nat) : Nat :=
  (if (asInt w uns a < asInt w uns b) != mx then a else b) % 2 ^ w

/-- Clamp to the range of a `w`-bit type. -/
def clampInt (w : Nat) (uns : Bool) (v : Int) : Int :=
  let lo : Int := if uns then 0 else -(2 ^ (w - 1))
  let hi : Int := if uns then 2 ^ w - 1 else 2 ^ (w - 1) - 1
  if v < lo then lo else if v > hi then hi else v

/-- Shift amounts use the low log2(w) bits (R18). -/
def sraRes (w a k : Nat) : Nat := ofInt w (toSigned w a / 2 ^ (k % w))

/-- Bitwise operations on `w` bits. -/
def bitRes (w : Nat) (op : Nat → Nat → Nat) (a b : Nat) : Nat := op (a % 2 ^ w) (b % 2 ^ w) % 2 ^ w

/-- Major 0x30 (R111): minor, width, sources. -/
def intRes (minor w a b c : Nat) : Nat :=
  match minor with
  | 0 => (a + b) % 2 ^ w
  | 1 => ofInt w ((a : Int) - b)
  | 2 => a * b % 2 ^ w
  | 3 => mulhRes w false a b
  | 4 => mulhRes w true a b
  | 5 => divRes w false a b
  | 6 => divRes w true a b
  | 7 => remRes w false a b
  | 8 => remRes w true a b
  | 9 => minMaxRes w false false a b
  | 10 => minMaxRes w true false a b
  | 11 => minMaxRes w false true a b
  | 12 => minMaxRes w true true a b
  | 13 => bitRes w (· &&& ·) a b
  | 14 => bitRes w (· ||| ·) a b
  | 15 => bitRes w (· ^^^ ·) a b
  | 16 => a * 2 ^ (b % w) % 2 ^ w
  | 17 => a % 2 ^ w / 2 ^ (b % w)
  | 18 => sraRes w a b
  | 19 => ofInt w (clampInt w false (toSigned w a + toSigned w b))
  | 20 => ofInt w (clampInt w true (asInt w true a + asInt w true b))
  | 21 => ofInt w (clampInt w false (toSigned w a - toSigned w b))
  | 22 => ofInt w (clampInt w true (asInt w true a - asInt w true b))
  | 23 => ofInt w (toSigned w a).natAbs
  | 24 => ofInt w (-toSigned w a)
  | 25 => (c + a * b) % 2 ^ w
  | 26 => leadingZeros w (a % 2 ^ w)
  | _ => popCount w a

/-! ### Floating point (R112–R115) -/

/-- Replace the sign bit of a `w`-bit pattern. -/
def withSign (w a : Nat) (neg : Bool) : Nat := a % 2 ^ (w - 1) + (if neg then 2 ^ (w - 1) else 0)

/-- Major 0x31: minor, format, mode, sources. -/
def fpRes (minor : Nat) (f : FFmt) (rm : RMode) (a b c : Nat) : ElemRes :=
  let w := f.width
  let r := fun (p : Nat × FFlags) => ({ val := p.1, ff := p.2 } : ElemRes)
  match minor with
  | 0 => r (fAdd f rm a b)
  | 1 => r (fSub f rm a b)
  | 2 => r (fMul f rm a b)
  | 3 => r (fDiv f rm a b)
  | 4 => r (fSqrt f rm a)
  | 5 => r (fMinMax f false a b)
  | 6 => r (fMinMax f true a b)
  | 7 => r (fFma f rm false false a b c)
  | 8 => r (fFma f rm false true a b c)
  | 9 => r (fFma f rm true false a b c)
  | 10 => r (fEstimate f true a)
  | 11 => r (fEstimate f false a)
  | 12 => { val := withSign w a false }
  | 13 => { val := withSign w a (a / 2 ^ (w - 1) % 2 = 0) }
  | 14 => { val := withSign w a (b / 2 ^ (w - 1) % 2 = 1) }
  | 15 => { val := fClassMask f a }
  | _ => r (fRound f rm a)

/-! ### Comparisons (R117) -/

/-- Major 0x32: minor, type, sources. -/
def cmpRes (minor : Nat) (et : EType) (a b : Nat) : Bool × FFlags :=
  let w := widthOf et
  if isIntT et then
    let rel := fun (uns : Bool) (k : Nat) =>
      let x := asInt w uns a
      let y := asInt w uns b
      match k with
      | 0 => decide (x < y)
      | 1 => decide (x ≤ y)
      | 2 => decide (x > y)
      | _ => decide (x ≥ y)
    ((match minor with
      | 0 => a % 2 ^ w == b % 2 ^ w
      | 1 => a % 2 ^ w != b % 2 ^ w
      | 10 => a % 2 ^ w != 0
      | n => if n ≤ 5 then rel false (n - 2) else rel true (n - 6)), 0)
  else if isFloatT et then
    let f := fmtOf et
    match minor with
    | 0 => fCompare f 0 a b
    | 1 => let (r, fl) := fCompare f 0 a b; (!r, fl)
    | 2 => fCompare f 1 a b
    | 3 => fCompare f 2 a b
    | 4 => fCompare f 1 b a
    | 5 => fCompare f 2 b a
    | 10 => (!(unpack f a).isZero, 0)
    | _ => ((unpack f a).isNan, 0)
  else
    let l := LFmt.of et
    ((match minor with
      | 0 => lEq l a b
      | 1 => !lEq l a b
      | 2 => lLt l a b
      | 3 => lLt l a b || lEq l a b
      | 4 => lLt l b a
      | 5 => lLt l b a || lEq l a b
      | 10 => a % 2 ^ (l.lbits + 1) != l.zero
      | _ => a % 2 ^ (l.lbits + 1) == l.nan), 0)

/-! ### Conversions (R119) -/

/-- The exact value of a source element (R32, R34 aside): integers signed or not, floats, logs through `l_to_lin`. -/
def valueOf (t : EType) (uns : Bool) (a : Nat) : FVal :=
  if isIntT t then intVal (asInt (widthOf t) uns a)
  else if isFloatT t then unpack (fmtOf t) a
  else lToLin (LFmt.of t) a

/-- An exact value into a destination type: floats round, logs follow R28, integers as R100. -/
def intoType (et : EType) (du sat : Bool) (rm : RMode) (v : FVal) : ElemRes :=
  if isFloatT et then
    let f := fmtOf et
    let p := packVal f rm v
    let q := if sat then satOverflow f v p else p
    { val := q.1, ff := q.2 }
  else if isLogT et then
    let p := linToL (LFmt.of et) v
    { val := p.1, lf := p.2 }
  else
    let p := fToInt (widthOf et) du rm v
    { val := p.1, ff := p.2 }

/-- `vcvt` and `vcvt.sat` (R119): source tag, destination type, options, mode, element bits. -/
def cvtRes (src et : EType) (su du sat : Bool) (rm : RMode) (a : Nat) : ElemRes :=
  if isIntT src && isIntT et then
    let x := asInt (widthOf src) su a
    { val := ofInt (widthOf et) (if sat then clampInt (widthOf et) du x else x) }
  else if isLogT src && isLogT et then
    if src == et then { val := a % 2 ^ widthOf et }
    else if et == 8 then
      let p := l16To8 a
      { val := p.1, lf := p.2 }
    else { val := l8To16 a }
  else intoType et du sat rm (valueOf src su a)

/-- An f32 value formed from a bx element, then converted (R119). -/
def cvtBxRes (et : EType) (du sat : Bool) (rm : RMode) (v : FVal) : ElemRes := intoType et du sat rm v

/-! ### Log domain (R124–R126) -/

def lnsRes (minor : Nat) (et : EType) (a b : Nat) : ElemRes :=
  let l := LFmt.of et
  let r := fun (p : Nat × FFlags × LFlags) => ({ val := p.1, ff := p.2.1, lf := p.2.2 } : ElemRes)
  match minor with
  | 0 => r (lAdd l false a b)
  | 1 => r (lAdd l true a b)
  | 2 => r (lPow l a (toSigned 16 b))
  | _ => r (lRecip l a)

/-! ### Reductions (R138) -/

/-- One combination of a reduction: minor, type, unsigned, mode. -/
def redStep (minor : Nat) (et : EType) (un : Bool) (rm : RMode) (a b : Nat) : ElemRes :=
  let w := widthOf et
  let r := fun (p : Nat × FFlags) => ({ val := p.1, ff := p.2 } : ElemRes)
  if isFloatT et then
    match minor with
    | 2 => r (fMinMax (fmtOf et) true a b)
    | 3 => r (fMinMax (fmtOf et) false a b)
    | _ => r (fAdd (fmtOf et) rm a b)
  else
    match minor with
    | 2 => { val := minMaxRes w un true a b }
    | 3 => { val := minMaxRes w un false a b }
    | 4 => { val := bitRes w (· &&& ·) a b }
    | 5 => { val := bitRes w (· ||| ·) a b }
    | 6 => { val := bitRes w (· ^^^ ·) a b }
    | _ => { val := (a + b) % 2 ^ w }

end Sys2Proof.Machine
end

