-- ==== Sys2Proof/Machine/Window.lean ====
section
/-! DEFINITION. Versions of the vector and mask registers, presence, and the window of posted instructions
(spec/04 R65–R74, spec/06 R107, spec/07). -/

namespace Sys2Proof.Machine

/-! ### Elements of a version -/

/-- Element `e` of a version, once present. -/
def VVer.elem (v : VVer) (e : Nat) : Option (BitVec 32) :=
  if e ∈ v.absent ∨ e ∈ v.inherit then none else some (sget 0 v.data e)

def KVer.elem (v : KVer) (e : Nat) : Option Bool :=
  if e ∈ v.absent ∨ e ∈ v.inherit then none else some (sget false v.bits e)

/-- The element is written and present. -/
def VVer.put (v : VVer) (e : Nat) (x : BitVec 32) : VVer :=
  { v with data := sset 0 v.data e x, absent := v.absent.filter (· ≠ e), inherit := v.inherit.filter (· ≠ e) }

def KVer.put (v : KVer) (e : Nat) (x : Bool) : KVer :=
  { v with bits := sset false v.bits e x, absent := v.absent.filter (· ≠ e), inherit := v.inherit.filter (· ≠ e) }

/-- A kept element: present if its old value is, else it becomes present with the old one (R65). -/
def VVer.keep (v : VVer) (e : Nat) : VVer := { v with absent := v.absent.filter (· ≠ e) }

def KVer.keep (v : KVer) (e : Nat) : KVer := { v with absent := v.absent.filter (· ≠ e) }

/-- The newest version takes over the values that the older one has received meanwhile (R65). -/
def VSt.sync (r : VSt) : VSt :=
  match r.old with
  | none => r
  | some o =>
    let take := fun (v : VVer) e => match o.elem e with
      | none => v
      | some x => { v with data := sset 0 v.data e x, inherit := v.inherit.filter (· ≠ e) }
    { r with new := r.new.inherit.foldl take r.new }

def KSt.sync (r : KSt) : KSt :=
  match r.old with
  | none => r
  | some o =>
    let take := fun (v : KVer) e => match o.elem e with
      | none => v
      | some x => { v with bits := sset false v.bits e x, inherit := v.inherit.filter (· ≠ e) }
    { r with new := r.new.inherit.foldl take r.new }

/-- The old value of element `e` of the newest version, if the older one still stands (R65). -/
def VSt.under (r : VSt) (e : Nat) : Option (BitVec 32) :=
  match assocGet r.new.base e with
  | some x => some x
  | none => r.old.bind fun o => o.elem e

def KSt.under (r : KSt) (e : Nat) : Option Bool :=
  match assocGet r.new.base e with
  | some x => some x
  | none => r.old.bind fun o => o.elem e

/-- The version an instruction posted as number `post` reads: the newest one opened before it (R67 items 1, 2). -/
def VSt.readBy (r : VSt) (post : Nat) : VVer :=
  if r.new.writer < post then r.new else r.old.getD r.new

def KSt.readBy (r : KSt) (post : Nat) : KVer :=
  if r.new.writer < post then r.new else r.old.getD r.new

/-- Change the version that post number `post` opened. -/
def VSt.modBy (r : VSt) (post : Nat) (f : VVer → VVer) : VSt :=
  if r.new.writer = post then { r with new := f r.new }
  else match r.old with
    | some o => if o.writer = post then VSt.sync { r with old := some (f o) } else r
    | none => r

def KSt.modBy (r : KSt) (post : Nat) (f : KVer → KVer) : KSt :=
  if r.new.writer = post then { r with new := f r.new }
  else match r.old with
    | some o => if o.writer = post then KSt.sync { r with old := some (f o) } else r
    | none => r

/-- A kept element of the version opened by `post`: absent as long as the version before it is. -/
def VSt.keepBy (r : VSt) (post e : Nat) : VSt := r.modBy post fun v => v.keep e

def KSt.keepBy (r : KSt) (post e : Nat) : KSt := r.modBy post fun v => v.keep e

/-! ### The partition -/

/-- A thread's partition; a thread without one reads the start state (R75). -/
def Thread.partOr (t : Thread) : Part := t.part.getD Part.start

def Part.vreg (p : Part) (r : VReg) : VSt := p.v[r.toNat]'r.isLt
def Part.kreg (p : Part) (r : KReg) : KSt := p.k[r.toNat]'r.isLt
def Part.setV (p : Part) (r : VReg) (v : VSt) : Part := { p with v := p.v.set r.toNat v r.isLt }
def Part.setK (p : Part) (r : KReg) (v : KSt) : Part := { p with k := p.k.set r.toNat v r.isLt }

def Thread.modV (t : Thread) (r : VReg) (f : VSt → VSt) : Thread :=
  let p := t.partOr
  { t with part := some (p.setV r (f (p.vreg r))) }

def Thread.modK (t : Thread) (r : KReg) (f : KSt → KSt) : Thread :=
  let p := t.partOr
  { t with part := some (p.setK r (f (p.kreg r))) }

/-- The tag of a v register as the latest post gives it (R69), entries that wait to open their versions included. -/
def Thread.tagOf (t : Thread) (r : VReg) : EType :=
  match (t.window.filterMap fun e => (e.held.getD []).find? fun p => p.1 = r).getLast? with
  | some p => p.2
  | none => (t.partOr.vreg r).new.tag

/-- The tag under which post number `post` reads a register. -/
def Thread.tagBy (t : Thread) (post : Nat) (r : VReg) : EType := ((t.partOr.vreg r).readBy post).tag

/-- Element `e` of a register of type `et` as post number `post` reads it; 64-bit types join a pair (R62). -/
def Thread.vElem (t : Thread) (post : Nat) (r : VReg) (et : EType) (e : Nat) : Option Nat :=
  match ((t.partOr.vreg r).readBy post).elem e with
  | none => none
  | some lo =>
    if is64 et then
      match ((t.partOr.vreg (r + 1)).readBy post).elem e with
      | none => none
      | some hi => some (hi.toNat * 2 ^ 32 + lo.toNat)
    else some (lo.toNat % 2 ^ widthOf et)

/-- The whole 32-bit slot of element `e`. -/
def Thread.vSlot (t : Thread) (post : Nat) (r : VReg) (e : Nat) : Option Nat :=
  (((t.partOr.vreg r).readBy post).elem e).map (·.toNat)

/-- Bit `e` of a mask register; k0 is all-true and always present (R62). -/
def Thread.kElem (t : Thread) (post : Nat) (k : KReg) (e : Nat) : Option Bool :=
  if k = 0 then some true else ((t.partOr.kreg k).readBy post).elem e

/-- Write element `e` of the version opened by `post`; a pair takes both words (R62). -/
def Thread.putElem (t : Thread) (post : Nat) (r : VReg) (et : EType) (e v : Nat) : Thread :=
  let t1 := t.modV r fun s => s.modBy post fun x => x.put e (BitVec.ofNat 32 (if is64 et then v else v % 2 ^ widthOf et))
  if is64 et then t1.modV (r + 1) fun s => s.modBy post fun x => x.put e (BitVec.ofNat 32 (v / 2 ^ 32)) else t1

/-- Write a whole slot (R120). -/
def Thread.putSlot (t : Thread) (post : Nat) (r : VReg) (e v : Nat) : Thread :=
  t.modV r fun s => s.modBy post fun x => x.put e (BitVec.ofNat 32 v)

def Thread.putBit (t : Thread) (post : Nat) (k : KReg) (e : Nat) (b : Bool) : Thread :=
  t.modK k fun s => s.modBy post fun x => x.put e b

/-- A masked-off or kept element of the version opened by `post`. -/
def Thread.keepElem (t : Thread) (post : Nat) (r : VReg) (et : EType) (e : Nat) : Thread :=
  let t1 := t.modV r fun s => s.keepBy post e
  if is64 et then t1.modV (r + 1) fun s => s.keepBy post e else t1

def Thread.keepBit (t : Thread) (post : Nat) (k : KReg) (e : Nat) : Thread := t.modK k fun s => s.keepBy post e

/-! ### What an instruction reads and writes -/

/-- v registers read, mask registers read, v registers written, mask registers written. -/
structure RegUse where
  vr : List VReg
  kr : List KReg
  vw : List VReg
  kw : List KReg
  deriving DecidableEq, Repr

/-- A register, or the pair it names. -/
def pairOf (r : VReg) (two : Bool) : List VReg := if two then [r, r + 1] else [r]

/-- The mask register a second source names. -/
def kOfSrc2 : Src2 → List KReg
  | .v r => [r.setWidth 3]
  | _ => []

/-- The registers of a format V instruction. The source of a conversion counts as a pair, since its tag decides (R109). -/
def vUse (major minor : Nat) (o : VOp) : RegUse :=
  let sp := vSpec major minor
  let s := vSources major minor o
  { vr := s.flatMap (fun (p : VReg × TagReq × Bool) => pairOf p.1 (p.2.2 || (major == 0x33 && minor != 2))),
    kr := o.k :: ((if sp.src1 == .mask then [o.vs1.setWidth 3] else []) ++
      (if sp.src2 == .mask then kOfSrc2 o.src2 else [])),
    vw := if sp.dst == .vec || (sp.dst == .reduce && !redToX o) then pairOf o.vd (is64 o.et) else [],
    kw := if sp.dst == .mask then [o.vd.setWidth 3] else [] }

/-- The registers of any window instruction. -/
def regUse (i : Instr) : RegUse :=
  match vkey i with
  | some (ma, mi, o) => vUse ma mi o
  | none =>
  match loadKey i with
  | some (m, o) =>
    { vr := if 2 ≤ m then pairOf (o.idx.setWidth 5) (o.iw == 1) else [],
      kr := [o.k], vw := pairOf o.v (is64 o.et), kw := [] }
  | none =>
  match storeKey i with
  | some (m, o) =>
    { vr := pairOf o.v true ++ (if 2 ≤ m then pairOf (o.idx.setWidth 5) (o.iw == 1) else []),
      kr := [o.k], vw := [], kw := [] }
  | none =>
  match vamoKey i with
  | some (_, _, o) =>
    { vr := pairOf (if o.r then o.aux.setWidth 5 else o.v) (is64 o.et) ++ pairOf (o.idx.setWidth 5) (o.iw == 1),
      kr := [o.k], vw := if o.r then pairOf o.v (is64 o.et) else [], kw := [] }
  | none =>
  match i with
  | .tmovr vd _ _ =>
    { vr := [], kr := [], vw := [vd], kw := [] }
  | .tmvr _ vs _ =>
    { vr := [vs], kr := [], vw := [], kw := [] }
  | .smatch _ va vb _ _ =>
    { vr := [], kr := [], vw := [va, vb], kw := [] }
  | _ =>
    { vr := [], kr := [], vw := [], kw := [] }

/-- The registers of an entry. A run of the fabric lists its bindings in `acc`: an input register r as r, an output register r as
32 + r, a load pipe as 64, a store pipe as 65, a collective binding as 66 (spec/13 R239). -/
def Entry.use (e : Entry) : RegUse :=
  match e.instr with
  | .frun _ _ =>
    { vr := e.acc.filterMap fun w => if w.toNat < 32 then some (w.setWidth 5) else none, kr := [],
      vw := e.acc.filterMap fun w => if 32 ≤ w.toNat ∧ w.toNat < 64 then some (w.setWidth 5) else none, kw := [] }
  | i => regUse i

/-- Units of work of a format V instruction: its elements, and one more where a last action follows them: the result of a
reduction, the write of an x register, the kept elements of `vcompress`. `vmvxs` and `vextract` have one element. -/
def vUnits (major minor vl : Nat) : Nat :=
  match major with
  | 0x34 => vl + 1
  | 0x35 => if minor = 5 then vl + 1 else vl
  | 0x36 => if minor = 8 ∨ minor = 9 then vl + 1 else vl
  | 0x37 => if minor = 3 ∨ minor = 6 then 2 else if minor = 4 then min vl 1 else vl
  | 0x64 => 1
  | _ => vl

/-- Units of work of a window entry. Tile steps, rows, fabric iterations and pairs of a merge are counted in `prog`; such an
entry has one unit, which is its end. -/
def Entry.units (e : Entry) : Nat :=
  match vkey e.instr with
  | some (ma, mi, _) => vUnits ma mi e.vl
  | none => if (loadKey e.instr).isSome || (storeKey e.instr).isSome || (vamoKey e.instr).isSome then e.vl else 1

def Entry.complete (e : Entry) : Bool := e.held.isNone && decide (e.units ≤ e.done.length)

def Entry.isDone (e : Entry) (u : Nat) : Bool := u ∈ e.done

/-- Mark a unit done. -/
def Entry.mark (e : Entry) (u : Nat) : Entry := { e with done := insertIdx e.done u }

/-- Every unit below `u` is done. -/
def Entry.allBelow (e : Entry) (u : Nat) : Bool := (List.range u).all fun x => e.isDone x

/-- The entry with a post number. -/
def Thread.entry (t : Thread) (post : Nat) : Option Entry := t.window.find? fun e => e.post = post

def Thread.modEntry (t : Thread) (post : Nat) (f : Entry → Entry) : Thread :=
  { t with window := t.window.map fun e => if e.post = post then f e else e }

/-- The v registers that an entry reads under the tags it found: a pair where the type or the source's tag has 64 bits (R62,
R109). -/
def Thread.readsOf (t : Thread) (e : Entry) : List VReg :=
  let wide := fun (r : VReg) => pairOf r (is64 (t.tagBy e.post r))
  match vkey e.instr with
  | some (0x33, mi, o) => if mi = 2 then e.use.vr else wide o.vs1
  | some _ => e.use.vr
  | none =>
    match storeKey e.instr with
    | some (m, o) => (if isBx o.et then wide o.v else pairOf o.v (is64 o.et)) ++
        (if 2 ≤ m then pairOf (o.idx.setWidth 5) (o.iw == 1) else [])
    | none => e.use.vr

/-- The place of an entry in the window record (R274 `went`). -/
def Thread.wentOf (t : Thread) (post : Nat) : Nat := (t.window.findIdx? fun e => e.post = post).getD 0

/-! ### Closing versions and retiring entries -/

/-- An entry that a failed check could squash (R338): it, or one posted before it, has a checked element whose check has not
passed. -/
def Thread.squashable (t : Thread) (post : Nat) : Bool := t.unchecked.any fun u => u.1 ≤ post

/-- Nothing reads the entry's sources again: it is complete, and no REMIND is due for it (R309). -/
def Entry.settled (e : Entry) : Bool := e.complete && (e.indet == [] || e.told)

/-- A first-fault load under `zm` = 1 whose trim is not decided: a trim would give its zeroed elements their old values again
(R163). -/
def Thread.mayUnzero (t : Thread) (post : Nat) : Bool := (t.entry post).any fun e => match loadKey e.instr with
  | some (_, o) => o.ff && o.zm && e.prog == 0 && !e.complete
  | none => false

/-- The older version of a register may close: its writer is complete, and so is every reader posted no later than the newer
version's writer (R67 item 3); and no squash could need it (R338). -/
def Thread.mayCloseV (t : Thread) (r : VReg) (s : VSt) : Bool :=
  match s.old with
  | none => false
  | some o => !t.squashable s.new.writer && !t.mayUnzero s.new.writer &&
    t.window.all fun e => e.settled || !((e.post = o.writer) || (e.post ≤ s.new.writer && (t.readsOf e).contains r))

def Thread.mayCloseK (t : Thread) (k : KReg) (s : KSt) : Bool :=
  match s.old with
  | none => false
  | some o => !t.squashable s.new.writer &&
    t.window.all fun e => e.settled || !((e.post = o.writer) || (e.post ≤ s.new.writer && e.use.kr.contains k))

/-- The older version is closed: the newest one holds every value. -/
def VSt.closed (r : VSt) : VSt := { new := { r.sync.new with base := [] }, old := none }

def KSt.closed (r : KSt) : KSt := { new := { r.sync.new with base := [] }, old := none }

def Thread.closeVersions (t : Thread) : Thread :=
  match t.part with
  | none => t
  | some p =>
    let v := Vector.ofFn fun (i : Fin 32) =>
      let s := p.v[i.val]
      if t.mayCloseV (BitVec.ofFin i) s then s.closed else s
    let k := Vector.ofFn fun (i : Fin 8) =>
      let s := p.k[i.val]
      if t.mayCloseK (BitVec.ofFin i) s then s.closed else s
    { t with part := some { v := v, k := k } }

/-- The entry stays in the window: it is not complete, a squash could reach it, or REMIND is due for it (R140, R309, R338). -/
def Thread.mustKeep (t : Thread) (e : Entry) : Bool :=
  !e.complete || t.squashable e.post || (e.indet != [] && !e.told)

/-! ### Posting -/

/-- The newest version, posted as `w`, is still open for an entry posted as `p`: its writer, or an entry that reads it, is not
complete (R67 item 3). -/
def Thread.newestOpen (t : Thread) (w p : Nat) (reads : Entry → Bool) : Bool :=
  t.window.any fun e => !e.complete && (decide (e.post = w) || (decide (w < e.post) && decide (e.post ≤ p) && reads e))

/-- A register has two open versions as an entry posted as `p` would open another (R67 item 3). While a check is under way an older
version stands that a squash could need (R338). -/
def Thread.twoOpenV (t : Thread) (p : Nat) (r : VReg) : Bool :=
  let s := t.partOr.vreg r
  s.old.isSome && (t.unchecked != [] || t.newestOpen s.new.writer p fun e => (t.readsOf e).contains r)

def Thread.twoOpenK (t : Thread) (p : Nat) (k : KReg) : Bool :=
  let s := t.partOr.kreg k
  s.old.isSome && (t.unchecked != [] || t.newestOpen s.new.writer p fun e => e.use.kr.contains k)

/-- The values of a closed version that the open one below it does not have. -/
def VVer.beside (n o : VVer) : List (Nat × BitVec 32) :=
  ((n.data.map (·.1) ++ o.data.map (·.1) ++ o.absent ++ o.inherit).foldl insertIdx []).filterMap fun e =>
    (n.elem e).bind fun x => if o.elem e = some x then none else some (e, x)

def KVer.beside (n o : KVer) : List (Nat × Bool) :=
  ((n.bits.map (·.1) ++ o.bits.map (·.1) ++ o.absent ++ o.inherit).foldl insertIdx []).filterMap fun e =>
    (n.elem e).bind fun x => if o.elem e = some x then none else some (e, x)

/-- Open a version: `absent` are the elements to come, `zeroed` those masked off under `zm` = 1; every other element keeps its
old value (R65). Where an older version is open, the newest one has closed, and only its values stay (R67 item 3). -/
def VSt.openBy (r : VSt) (post : Nat) (tag : EType) (absent zeroed : List Nat) : VSt :=
  let n := r.new
  { new := { tag := tag, data := zeroed.foldl (fun d e => sset 0 d e 0) n.data, absent := absent,
             inherit := ((n.absent ++ n.inherit).filter (· ∉ zeroed)).foldl insertIdx [],
             base := (r.old.map n.beside).getD [], writer := post },
    old := some (r.old.getD n) }

def KSt.openBy (r : KSt) (post : Nat) (absent zeroed : List Nat) : KSt :=
  let n := r.new
  { new := { bits := zeroed.foldl (fun d e => sset false d e false) n.bits, absent := absent,
             inherit := ((n.absent ++ n.inherit).filter (· ∉ zeroed)).foldl insertIdx [],
             base := (r.old.map n.beside).getD [], writer := post },
    old := some (r.old.getD n) }

/-- Add an entry to the window and count it (R73, R336). -/
def Thread.push (t : Thread) (e : Entry) : Thread :=
  { t with window := t.window ++ [e], seqn := t.seqn + 1, posts := t.posts + 1 }

/-- A fresh entry for the instruction at the pc with its snapshots. -/
def Thread.newEntry (t : Thread) (i : Instr) (xs : List Word) : Entry :=
  { pc := t.pc, code := t.code, instr := i, vl := t.vl, vtype := t.vtype, frm := t.frm, seq := t.seqn, post := t.posts + 1,
    xs := xs, prog := 0, eng := [], done := [], indet := [], told := false, sent := [],
    formed := [], soft := [], acc := [], got := [], back := [], shared := false, held := some [] }

/-- The elements of a strip whose mask bit is known to be false. -/
def Thread.inactive (t : Thread) (post : Nat) (k : KReg) (vl : Nat) : List Nat :=
  (List.range vl).filter fun e => t.kElem post k e = some false

/-- A first-fault load, `tld.ff` or `smatch` whose trim is not decided (R64): later instructions that read vl are held. -/
def Entry.trimPending (e : Entry) : Bool :=
  !e.complete &&
  (match loadKey e.instr with
   | some (_, o) => o.ff && e.prog == 0
   | none => match e.instr with
     | .tld o => o.ff
     | .smatch _ _ _ _ _ => true
     | _ => false)

/-- After a `tld.ff` or `smatch` that is not complete the front end commits nothing (R198, R250); a trap is still taken. -/
def Entry.holdsFront (e : Entry) : Bool :=
  !e.complete && (match e.instr with
    | .tld o => o.ff
    | .smatch _ _ _ _ _ => true
    | _ => false)

/-- A `vamo` waits for a serial (R303). -/
def Thread.awaitsSerial (t : Thread) : Bool := t.stall && t.window.any fun e => (vamoKey e.instr).isSome && e.formed != []

/-- The front end commits nothing (R198, R250, R303). -/
def Thread.frontHeld (t : Thread) : Bool := !t.frozen && (t.window.any Entry.holdsFront || t.awaitsSerial)

def Thread.trimPending (t : Thread) : Bool := t.window.any Entry.trimPending

/-- Wait until every earlier trim is decided (R64). -/
def waitTrims : Act Unit := do if (← get).th.trimPending then endWith .wait else pure ()

/-- The thread whose partition stands in the running thread's space before its first `vrest`, if `vowner` names it (R286). -/
def State.lender (s : State) : Option Thread := (s.th.spaceOf.bind s.thread).filter fun v => v.selfOwner == s.th.vowner

/-- The save area of the partition owner that `vowner` names, or 0 (R275): of the thread whose space this one has, else of a
living tile thread of that identity, one of the same tile first. -/
def State.ownerArea (s : State) : Word :=
  if s.th.vowner = -1 then 0
  else match s.lender with
    | some v => v.winrec
    | none =>
      let named := s.threads.filter fun t => t.selfOwner == s.th.vowner && !t.isCore && t.run != .exited && t.run != .aborted
      match (named.filter fun t => t.place == s.th.place) ++ named with
      | t :: _ => t.winrec
      | [] => 0

/-- GRANT or VOWN (R74). A newcomer to a frozen partition's space takes VOWN also where its owner has the newcomer's identity
(R286). -/
def needPartition : Act Unit := do
  let s ← get
  if s.th.grant = 0 then trapWith cGRANT s.th.pc
  else if s.th.vowner ≠ s.th.selfOwner ∨ s.lender.isSome then trapWith cVOWN s.ownerArea
  else pure ()

/-- A frozen window takes no vector, mask or tile instruction (R276). -/
def notFrozen : Act Unit := do if (← get).th.frozen then illegal else pure ()

/-- FMT with `trapval` = the instruction's address (R70). Of a 64-bit source pair both registers' tags are looked at (DESIGN CHOICE,
log entry 70). -/
def needTags (l : List (VReg × TagReq × Bool)) : Act Unit := do
  let s ← get
  if l.all fun (r, q, two) => q.ok (s.th.tagOf r) && (!two || q.ok (s.th.tagOf (r + 1))) then pure ()
  else trapWith cFMT s.th.pc

/-- Elements a format V instruction makes absent, before the execution mask is applied (R65, R121, R132, R134, R137, R138).
`kept` says which elements below the offset of `vslideup` are sure to keep their old value. -/
def vAbsent (major minor : Nat) (o : VOp) (vl : Nat) (off : Nat) (kept : Nat → Bool) : List Nat :=
  match major with
  | 0x33 => if minor = 3 then List.range ((vl + 15) / 16 * 16) else List.range vl
  | 0x34 => if redToX o then [] else [0]
  | 0x35 => if minor = 0 then (List.range vl).filter fun e => decide (off ≤ e) || !kept e else List.range vl
  | 0x37 => if minor = 4 then List.range (min vl 1) else List.range vl
  | _ => List.range vl

/-- Instructions whose `k` field is an execution mask with one element per index (R65, R134, R137, R138). -/
def masksElements (major minor : Nat) : Bool :=
  !(major == 0x34 || major == 0x64 || (major == 0x35 && minor == 5) || (major == 0x36 && (minor == 8 || minor == 9)) ||
    (major == 0x37 && (minor == 3 || minor == 4 || minor == 5 || minor == 6)) || (major == 0x33 && minor == 3))

/-- The offset of a slide: x[s2] or the immediate, unsigned (R132). -/
def slideOff (o : VOp) (xs : List Word) : Nat :=
  match o.src2 with
  | .x _ => (xs.headD 0).toNat
  | .imm i => i.toNat
  | .v _ => 0

/-- What a post makes of the elements of a destination (R65): those that are done with it, inactive or kept (R132), those to come,
and those that are 0. -/
structure PostShape where
  done   : List Nat
  absent : List Nat
  zeroed : List Nat
  deriving DecidableEq, Repr

/-- The elements that are done, absent and zeroed once an entry is posted, its mask read under its post number. -/
def Thread.postShape (t : Thread) (e : Entry) : PostShape :=
  match vkey e.instr with
  | some (ma, mi, o) =>
    if ma = 0x64 then { done := [], absent := [], zeroed := [] }
    else
      let inact := if masksElements ma mi then t.inactive e.post o.k e.vl else []
      let absent := (vAbsent ma mi o e.vl (slideOff o e.xs) fun x => !o.zm || t.kElem e.post o.k x = some true).filter (· ∉ inact)
      { done := if ma = 0x35 ∧ mi = 0 then (List.range e.vl).filter (· ∉ absent) else inact,
        absent := absent,
        zeroed := if o.zm then inact else [] }
  | none =>
    match loadKey e.instr with
    | some (_, o) =>
      let inact := if isBx o.et then [] else t.inactive e.post o.k e.vl
      { done := inact, absent := (List.range (if isBx o.et then (e.vl + 15) / 16 * 16 else e.vl)).filter (· ∉ inact),
        zeroed := if o.zm then inact else [] }
    | none =>
      match storeKey e.instr with
      | some (_, o) => { done := if o.nt then [] else t.inactive e.post o.k e.vl, absent := [], zeroed := [] }
      | none =>
        match vamoKey e.instr with
        | some (_, _, o) =>
          let inact := t.inactive e.post o.k e.vl
          { done := inact, absent := (List.range e.vl).filter (· ∉ inact), zeroed := if o.zm then inact else [] }
        | none =>
          match e.instr with
          | .tmovr _ _ _ => { done := [], absent := List.range 64, zeroed := [] }
          | .smatch _ _ _ _ _ => { done := [], absent := List.range e.vl, zeroed := [] }
          | .frun _ _ => { done := [], absent := List.range (e.xs.headD 0).toNat, zeroed := [] }
          | _ => { done := [], absent := [], zeroed := [] }

/-- The entry opens the versions of its destinations, under the tags its post gave them (R65, R69). -/
def Thread.openEntry (t : Thread) (e : Entry) : Thread :=
  let p := t.postShape e
  let t1 := (e.held.getD []).foldl (fun t x => t.modV x.1 fun s => s.openBy e.post x.2 p.absent p.zeroed) t
  let t2 := e.use.kw.foldl (fun t k => t.modK k fun s => s.openBy e.post p.absent p.zeroed) t1
  t2.modEntry e.post fun x => { x with held := none, done := p.done }

/-- Entries that wait open their versions in program order: the first whose registers have two open versions stalls it and every
later one (R67 item 3). The fuel bounds how many. -/
def Thread.openHeld : Nat → Thread → Thread
  | 0, t => t
  | n + 1, t =>
    match t.window.find? fun e => e.held.isSome with
    | none => t
    | some e =>
      if e.use.vw.any (t.twoOpenV e.post) || e.use.kw.any (t.twoOpenK e.post) then t else Thread.openHeld n (t.openEntry e)

/-- The entry stands in the window (R107); its versions open at once, or as soon as item 3 of R67 lets them, while the scalar front
end goes on. `tags` are the v registers it writes with their new tags. -/
def Thread.postEntry (t : Thread) (e : Entry) (tags : List (VReg × EType)) : Thread :=
  (t.push { e with held := some tags }).openHeld 33

/-- Entries that are finished leave the window (R140), and those that waited for a version open theirs, but not while it is frozen
(R276). -/
def Thread.retire (t : Thread) : Thread :=
  if t.window = [] then t
  else
    let t1 := t.closeVersions
    let t2 := { t1 with window := t1.window.filter t1.mustKeep }
    if t.frozen then t2 else t2.openHeld 33

/-- The window has room (R140). -/
def needRoom : Act Unit := do
  modify fun s => { s with th := s.th.retire }
  if (← get).th.window.length < 32 then pure () else endWith .wait

/-- The checks before any vector, mask or tile instruction posts: no core, no frozen window, pending trims (R59, R64, R276). -/
def preCheck : Act Unit := do
  notOnCore
  notFrozen
  waitTrims

/-! ### Posting a format V instruction (R107, R110) -/

/-- Post a format V instruction other than `vopa`. -/
def Thread.postV (t : Thread) (i : Instr) (major minor : Nat) (o : VOp) : Thread :=
  let xs := match o.src2 with
    | .x r => [t.getX r]
    | _ => []
  t.postEntry (t.newEntry i xs) ((vUse major minor o).vw.map fun r => (r, dstTag major minor o (t.tagOf o.vs1)))

/-- The checks of R110 that need the state, in their order: GRANT or VOWN, the source pair of a conversion, FMT. `vquant` is
checked as the conversions are (DESIGN CHOICE, log entry 70). -/
def checkPostV (major minor : Nat) (o : VOp) : Act Unit := do
  preCheck
  if isBx o.et then needFeature 2 else pure ()
  needPartition
  let s ← get
  if major = 0x33 ∧ minor ≠ 2 ∧ o.vs1.getLsbD 0 ∧ is64 (s.th.tagOf o.vs1) then illegal else pure ()
  needTags (vSources major minor o)

/-- Post in program order (R107): the instruction commits when its entry stands in the window. -/
def postVec (i : Instr) (major minor : Nat) (o : VOp) : Act Unit := do
  checkPostV major minor o
  needRoom
  modify fun s => { s with th := s.th.postV i major minor o }

end Sys2Proof.Machine
end

