-- ==== Sys2Proof/Machine/Remote.lean ====
section
/-! DEFINITION. Remote operations (spec/18): the owner of exactly-once requests, serials, the outstanding list, replies and the
asynchronous fault queue. -/

namespace Sys2Proof.Machine

/-! ### Acting as another thread -/

/-- Exchange the current thread with thread `tid`; it is its own inverse. -/
def State.turnTo (s : State) (tid : Nat) : State :=
  match s.others.find? fun t => t.tid = tid with
  | none => s
  | some t => { s with th := t, others := s.others.map fun u => if u.tid = tid then s.th else u }

/-- Apply a change as if thread `tid` had the turn. -/
def State.onThread (s : State) (tid : Nat) (f : State → State) : State :=
  if s.th.tid = tid then f s
  else if (s.others.find? fun t => t.tid = tid).isSome then (f (s.turnTo tid)).turnTo s.th.tid
  else s

/-! ### Atomic operations (R94, R168) -/

/-- The value an `amo` writes: minor, width, old value, operand, new value of `cas`; nothing for a failed `cas` (R94). -/
def amoNew (minor w old b n : Nat) : Option Nat :=
  match minor with
  | 0 => some (b % 2 ^ w)
  | 1 => some ((old + b) % 2 ^ w)
  | 2 => some (bitRes w (· &&& ·) old b)
  | 3 => some (bitRes w (· ||| ·) old b)
  | 4 => some (bitRes w (· ^^^ ·) old b)
  | 5 => some (minMaxRes w false false old b)
  | 6 => some (minMaxRes w false true old b)
  | 7 => some (minMaxRes w true false old b)
  | 8 => some (minMaxRes w true true old b)
  | _ => if old % 2 ^ w = b % 2 ^ w then some (n % 2 ^ w) else none

/-- The value a `vamo` writes (R168); `fadd` rounds RNE and raises no flag. -/
def vamoNew (minor w old b : Nat) : Nat :=
  match minor with
  | 0 => (old + b) % 2 ^ w
  | 1 => minMaxRes w false false old b
  | 2 => minMaxRes w false true old b
  | 3 => minMaxRes w true false old b
  | 4 => minMaxRes w true true old b
  | 5 => bitRes w (· &&& ·) old b
  | 6 => bitRes w (· ||| ·) old b
  | 7 => bitRes w (· ^^^ ·) old b
  | 8 => b % 2 ^ w
  | _ => (fAdd (if w = 64 then .f64 else .f32) 0 old b).1

/-- How many a claim receives: what remains, at most the request, limited to `g` whole blocks (R145). -/
def claimGrant (next total req g blen : Nat) : Nat :=
  let lim := min (min req (if next < total then total - next else 0)) g
  if lim < blen then lim else lim - lim % blen

/-! ### The owner (R305, R307, R313) -/

/-- Serial `s` is at or below the watermark `w` (R304). -/
def atOrBelow (w s : BitVec 32) : Bool := decide ((w - s).toNat < 2 ^ 31)

/-- Bytes an element of a request touches (R302). -/
def reqSize (r : Request) : Nat := if r.cls = .claim then 16 else if r.w64 then 8 else 4

/-- The refusal of an access by the granted ranges (R313): PAGE outside every range, PROT for a missing right. -/
def Owner.refuses (o : Owner) (rvid : BitVec 24) (pa n : Nat) (rd wr : Bool) : Option Byte :=
  let g := o.grants.filter fun g => g.rvid = rvid && decide (g.base ≤ pa) && decide (pa + n ≤ g.base + g.size)
  if g.isEmpty then some cPAGE
  else if g.any fun g => (!rd || g.read) && (!wr || g.write) then none
  else some cPROT

/-- The lowest refused element of a train with its cause (R313). -/
def Owner.firstRefused (o : Owner) (rvid : BitVec 24) (n : Nat) : List Nat → Nat → Option (Byte × Nat)
  | [], _ => none
  | a :: r, i =>
    match o.refuses rvid a n true true with
    | some c => some (c, i)
    | none => o.firstRefused rvid n r (i + 1)

/-- Apply one element of a request at its home: the memory and the old value; for a claim also the granted count (R94, R145,
R168). -/
def applyElem (r : Request) (m : Memory) (x : ReqElem) : Memory × List Word :=
  let w := if r.w64 then 64 else 32
  let old := leNat (memRead m x.addr (w / 8))
  match r.cls with
  | .claim =>
    let next := leNat (memRead m x.addr 8)
    let g := claimGrant next (leNat (memRead m (x.addr + 8) 8)) x.data.toNat x.dataB.toNat x.dataC.toNat
    (memWrite m x.addr (leBytes 8 (next + g)), [BitVec.ofNat 64 next, BitVec.ofNat 64 g])
  | .vamo => (memWrite m x.addr (leBytes (w / 8) (vamoNew r.op.toNat w old x.data.toNat)), [BitVec.ofNat 64 old])
  | .amo =>
    match amoNew r.op.toNat w old x.data.toNat x.dataB.toNat with
    | some v => (memWrite m x.addr (leBytes (w / 8) v), [BitVec.ofNat 64 old])
    | none => (m, [BitVec.ofNat 64 old])

/-- Apply every element in ascending index (R169); the old values. -/
def applyElems (r : Request) (m : Memory) : List ReqElem → Memory × List Word
  | [] => (m, [])
  | x :: xs =>
    let (m1, v) := applyElem r m x
    let (m2, vs) := applyElems r m1 xs
    (m2, v ++ vs)

/-- The floor of an RVID after a watermark (R305). -/
def Owner.raiseFloor (o : Owner) (rvid : BitVec 24) (wm : BitVec 32) : Owner :=
  let up := match assocGet o.floors rvid with
    | none => true
    | some f => !atOrBelow f wm
  let o1 := if up then { o with floors := assocSet o.floors rvid wm } else o
  match assocGet o1.floors rvid with
  | none => o1
  | some f => { o1 with cache := o1.cache.filter fun e => !(e.rvid = rvid && atOrBelow f e.serial) }

/-- A request at the owner (R305): its new state, memory, and the reply if there is one. A partial train is held (R221). -/
def Owner.request (o : Owner) (m : Memory) (r : Request) : Owner × Memory × Option Reply :=
  if o.quarant.contains r.rvid then (o, m, some .nackExpired)
  else if r.inc ≠ o.inc then (o, m, some (.nackRestarted o.inc))
  else
    let o1 := o.raiseFloor r.rvid r.wm
    let o2 := { o1 with partials := o1.partials.filter fun p => !(p.rvid = r.rvid && p.serial = r.serial) }
    if !r.whole then ({ o2 with partials := o2.partials ++ [r] }, m, none)
    else
      match o2.cache.find? fun e => e.rvid = r.rvid && e.serial = r.serial with
      | some e => (o2, m, e.reply)
      | none =>
        let below := match assocGet o2.floors r.rvid with
          | none => false
          | some f => atOrBelow f r.serial
        if below then (o2, m, none)
        else if o2.cache.length ≥ o2.room then (o2, m, some .nackBusy)
        else
          match o2.firstRefused r.rvid (reqSize r) (r.elems.map (·.addr)) 0 with
          | some (c, i) =>
            let a := Reply.nackFault c i
            ({ o2 with cache := o2.cache ++ [{ rvid := r.rvid, serial := r.serial, reply := some a }] }, m, some a)
          | none =>
            let (m1, olds) := applyElems r m r.elems
            let a := if r.ret then Reply.results olds else Reply.ack
            ({ o2 with cache := o2.cache ++ [{ rvid := r.rvid, serial := r.serial, reply := some a }] }, m1, some a)

/-- An acknowledgement packet at the owner (R305). -/
def Owner.ackPacket (o : Owner) (rvid : BitVec 24) (wm : BitVec 32) : Owner := o.raiseFloor rvid wm

/-! ### Peers (log entry 6) -/

def State.peer (s : State) (dev : BitVec 14) : Option Peer := s.peers.find? fun p => p.id = dev

def State.setPeer (s : State) (p : Peer) : State := { s with peers := s.peers.map fun q => if q.id = p.id then p else q }

/-- The incarnation this device has learned of another one (R309). -/
def State.incOf (s : State) (dev : BitVec 14) : BitVec 16 := (assocGet s.hiend.learned dev).getD 0

/-- A request is sent to another device; the reply if that device answers at once. -/
def State.ask (s : State) (dev : BitVec 14) (r : Request) : State × Option Reply :=
  match s.peer dev with
  | some p =>
    if s.policy.remote && p.up then
      let (o, m, a) := p.owner.request p.mem r
      (s.setPeer { p with owner := o, mem := m }, a)
    else (s, none)
  | none => (s, none)

/-- Watermark packets to a peer (R304). -/
def State.tellWatermark (s : State) (dev : BitVec 14) (rvid : BitVec 24) (wm : BitVec 32) : State :=
  match s.peer dev with
  | some p => if p.up then s.setPeer { p with owner := p.owner.ackPacket rvid wm } else s
  | none => s

/-- The context's RVID, or 0 while no record gives one. -/
def State.rvidOf (s : State) (c : BitVec 32) : BitVec 24 := match s.ctx c with
  | some x => x.rvid
  | none => 0

/-- What an idempotent access to another device meets (R299–R301, R313). -/
inductive RemoteAnswer where
  | silent
  | fault (cause : Byte)
  | bytes (bs : List Byte)
  deriving DecidableEq, Repr

/-- The peer answers an idempotent request of the current thread: at once under the policy, else when it is sent again. -/
def State.answers (s : State) (p : Peer) : Bool := (s.policy.remote || s.hiend.retries.contains s.th.tid) && p.up

def State.remoteRead (s : State) (dev : BitVec 14) (pa n : Nat) : RemoteAnswer :=
  match s.peer dev with
  | some p =>
    if s.answers p then
      match p.owner.refuses (s.rvidOf s.th.ctx) pa n true false with
      | some c => .fault c
      | none => .bytes (memRead p.mem pa n)
    else .silent
  | none => .silent

/-- Would the peer answer an access of `n` bytes, and how: nothing is read or written. -/
def State.remoteMay (s : State) (dev : BitVec 14) (pa n : Nat) (rd wr : Bool) : RemoteAnswer :=
  match s.peer dev with
  | some p =>
    if s.answers p then
      match p.owner.refuses (s.rvidOf s.th.ctx) pa n rd wr with
      | some c => .fault c
      | none => .bytes []
    else .silent
  | none => .silent

/-- Idempotent writes to another device: all of them, or a fault of the lowest refused one (R221, R313). -/
def State.remoteWrite (s : State) (dev : BitVec 14) (ws : List (Nat × List Byte)) : State × RemoteAnswer × Nat :=
  match s.peer dev with
  | some p =>
    if s.answers p then
      let bad := (ws.zip (List.range ws.length)).findSome? fun (w, i) =>
        (p.owner.refuses (s.rvidOf s.th.ctx) w.1 w.2.length false true).map fun c => (c, i)
      match bad with
      | some (c, i) => (s, .fault c, i)
      | none => (s.setPeer { p with mem := ws.foldl (fun m w => memWrite m w.1 w.2) p.mem }, .bytes [], 0)
    else (s, .silent, 0)
  | none => (s, .silent, 0)

/-! ### Serials and the outstanding list (R303, R304, R311) -/

/-- Serials above the watermark: those outstanding (R303). -/
def Ctx.outstanding (c : Ctx) : Nat := (c.serialnext - c.serialack - 1).toNat

/-- Payload bytes of an outstanding entry (R311): a `cas` or `claim` has a second record. -/
def payloadSize (r : Request) : Nat :=
  16 * r.elems.length + (if r.cls = .claim ∨ (r.cls = .amo ∧ r.op = 9) then 16 else 0)

/-- The fields of the list header (R311): ring, pool, pool size. -/
def State.outHeader (s : State) (c : Ctx) : Option (Word × Nat × Nat) :=
  if c.outHdr = 0 then none
  else (s.paOf c.ctxid 1 c.outHdr .both).map fun pa =>
    let h := memRead s.mem pa 64
    (leWord (bytesAt h 0 8), fieldAt h 8 8, fieldAt h 16 8)

/-- A free place for a payload: the lowest of the pool's base and the ends of the payloads in use (R311). -/
def poolPlace (base size need : Nat) (used : List (Nat × Nat)) : Option Nat :=
  let free := fun a => decide (base ≤ a) && decide (a + need ≤ base + size) &&
    used.all fun (b, n) => decide (a + need ≤ b) || decide (b + n ≤ a)
  ((base :: used.map fun (b, n) => b + n).filter free).min?

/-- The entry of the outstanding list as bytes (R311). -/
def outEntryBytes (o : OutSerial) (state : Nat) (time : Word) : List Byte :=
  leBytes 4 o.serial.toNat ++ leBytes 2 o.dev.toNat ++ leBytes 2 o.req.inc.toNat ++ leBytes 2 o.req.elems.length ++
  leBytes 1 state ++ leBytes 1 o.kind ++ leBytes 4 o.id.toNat ++ leBytes 8 o.pay ++ leBytes 8 time.toNat

/-- The payload of an entry (R302, R311). -/
def payloadBytes (r : Request) : List Byte :=
  r.elems.flatMap fun x =>
    leBytes 8 x.addr ++ leBytes 8 x.data.toNat ++
    (if r.cls = .claim then leBytes 8 x.dataB.toNat ++ leBytes 8 x.dataC.toNat
     else if r.cls = .amo ∧ r.op = 9 then leBytes 8 x.dataB.toNat ++ leBytes 8 0 else [])

/-- Write bytes at an address of a context, where it translates to this device (log entry 13). -/
def State.putVa (s : State) (c : BitVec 32) (va : Word) (bs : List Byte) : State :=
  match s.paOf c 1 va .write with
  | some pa => s.applyFor c pa bs
  | none => s

/-- Write an entry of the list with a state (R311). -/
def State.writeOut (s : State) (c : Ctx) (o : OutSerial) (state : Nat) : State :=
  match s.outHeader c with
  | none => s
  | some (ring, _, _) =>
    let s1 := s.putVa c.ctxid (ring + BitVec.ofNat 64 (32 * (o.serial.toNat % 65536)))
      (outEntryBytes o state (Config.clock s.fresh))
    { s1 with fresh := s1.fresh + 1 }

/-! ### The asynchronous fault queue (R314) -/

/-- The 64 bytes of a record (R314). -/
def faultRecBytes (s : State) (rvid : BitVec 24) (r : FaultRec) : List Byte :=
  let gone : Bool := match s.thread r.out.tid with
    | none => true
    | some t => t.run == .exited || t.run == .aborted
  let mine := fun (l : Launch) => s.threads.any fun t => t.tid = r.out.tid && t.launch = l.id
  let ended : Bool := match s.sched.launches.find? mine with
    | none => gone
    | some l => decide (l.exited ≥ l.total)
  let head : Word := match r.out.gen with
    | some (_, a, _) => a
    | none => 0
  let count : BitVec 32 := match r.out.gen with
    | some (_, _, n) => n
    | none => 0
  leBytes 1 r.cause.toNat ++ leBytes 1 ((if gone then 1 else 0) + (if ended then 2 else 0)) ++ leBytes 2 r.out.dev.toNat ++
  leBytes 2 r.out.req.elems.length ++ leBytes 1 r.out.minor ++ leBytes 1 r.out.et.toNat ++ leBytes 4 r.out.serial.toNat ++
  leBytes 4 rvid.toNat ++ leBytes 8 r.out.pc.toNat ++ leBytes 4 r.out.id.toNat ++ leBytes 4 (r.out.elems.getD r.elem r.elem) ++
  leBytes 8 r.out.pay ++ leBytes 8 head.toNat ++ leBytes 4 count.toNat ++ leBytes 12 0

/-- A record for a thread that has exited and whose launch was a graph node sets the generation's deferred fault (R314). -/
def State.deferFault (s : State) (r : FaultRec) : State :=
  match s.thread r.out.tid, r.out.gen with
  | some t, some (g, _, _) =>
    if t.run = .exited then
      { s with sched := { s.sched with gens := s.sched.gens.map fun x => if x.id = g then { x with deferred := true } else x } }
    else s
  | _, _ => s

/-- Write a record if the ring has room: the record, `head`, then ASYNC; else it waits at the port (R314). -/
def State.faultRecord (s : State) (c : Ctx) (r : FaultRec) (again : Bool) : State :=
  match s.paOf c.ctxid 1 c.faultHdr .both with
  | none => if again then s else (s.deferFault r).raiseAsync c.irqCore 0
  | some pa =>
    if s.touchesBad pa 64 then s.meetBad c.ctxid pa
    else
    let h := memRead s.mem pa 64
    let base := leWord (bytesAt h 0 8)
    let size := fieldAt h 8 4
    let head := fieldAt h 12 4
    if (head + 2 ^ 32 - fieldAt h 16 4) % 2 ^ 32 ≥ size then
      if again then s
      else
        (s.modCtx c.ctxid fun x => { x with records := x.records ++ [r] }).apply (pa + 20) (leBytes 4 (fieldAt h 20 4 + 1))
    else
      let a := base + BitVec.ofNat 64 (64 * (head % size))
      let s1 := s.putVa c.ctxid a (faultRecBytes s c.rvid r)
      let s2 := s1.apply (pa + 12) (leBytes 4 (head + 1))
      let s3 := s2.modCtx c.ctxid fun x =>
        { x with records := x.records.filter fun y => y.out.serial ≠ r.out.serial,
                 kept := if r.out.pay = 0 then x.kept else x.kept ++ [(r.out.pay, payloadSize r.out.req, BitVec.ofNat 32 head)] }
      (s3.deferFault r).raiseAsync c.irqCore a

/-! ### Taking and resolving serials -/

/-- The context's record stands at its place (R283; log entry 13). -/
def Ctx.recorded (m : Memory) (c : Ctx) : Bool :=
  c.ctxid != 0 && (leWord (memRead m c.record 4)).setWidth 32 == c.ctxid

/-- The record of a context holds the serials that the context has come to (R283; DEDUCED, log entry 13). -/
def State.recordSerials (s : State) (cid : BitVec 32) : State := match s.ctx cid with
  | none => s
  | some c => if c.recorded s.mem then s.applyFor cid (c.record + 0x24) (leBytes 4 c.serialnext.toNat ++ leBytes 4 c.serialack.toNat) else s

/-- The payloads that records of the fault queue still name: Benzia OS frees one when it moves `tail` past its record (R314; log
entry 75). -/
def State.keptBy (s : State) (c : Ctx) : List (Nat × Nat × BitVec 32) :=
  match s.paOf c.ctxid 1 c.faultHdr .both with
  | none => []
  | some pa => c.kept.filter fun k => !atOrBelow (BitVec.ofNat 32 (fieldAt (memRead s.mem pa 64) 16 4) - 1) k.2.2

/-- A serial can be taken (R303, R311, R314): the place of its payload. -/
def State.mayTakeSerial (s : State) (c : Ctx) (need : Nat) : Option Nat :=
  if c.outstanding ≥ 65536 ∨ c.records ≠ [] then none
  else match s.outHeader c with
    | none => some 0
    | some (_, pool, size) => poolPlace pool size need ((c.out.map fun o => (o.pay, payloadSize o.req)) ++
        c.kept.map fun k => (k.1, k.2.1))

/-- The graph generation a thread runs for: its number, header and count (R314). -/
def State.graphOf (s : State) (t : Thread) : Option (Nat × Word × BitVec 32) :=
  ((s.sched.launches.find? fun l => l.id = t.launch).bind (·.node)).bind fun (g, _) =>
    (s.sched.gens.find? fun x => x.id = g).map fun x => (x.id, x.addr, x.g)

/-- The watermark passes every leading resolved serial (R304). -/
def Ctx.advanceW (c : Ctx) : Nat → Ctx
  | 0 => c
  | n + 1 =>
    match c.out.find? fun (o : OutSerial) => o.serial = c.serialack + 1 with
    | some o =>
      if o.st = .resolved then
        let rest := c.out.filter fun (x : OutSerial) => x.serial ≠ o.serial
        Ctx.advanceW { c with serialack := c.serialack + 1, out := rest } n
      else c
    | none => c

/-- The serials resolved for an owner since it was last told W. -/
def Ctx.newsFor (c : Ctx) (dev : BitVec 14) : Nat := (assocGet c.news dev).getD 0

/-- W is told to an owner by a packet of its own (R304). -/
def State.reportW (s : State) (cid : BitVec 32) (dev : BitVec 14) : State :=
  match s.ctx cid with
  | none => s
  | some c => (s.tellWatermark dev c.rvid c.serialack).modCtx cid fun c => { c with news := c.news.filter fun x => x.1 ≠ dev }

/-- A serial is resolved: its entry is marked free and W advances (R304, R311); the owner is told W after 64 of its serials. -/
def State.resolveSerial (s : State) (cid : BitVec 32) (o : OutSerial) : State :=
  let s1 := match s.ctx cid with
    | some c => s.writeOut c o 0
    | none => s
  let s2 := s1.modCtx cid fun (c : Ctx) =>
    let out := c.out.map fun (x : OutSerial) => if x.serial = o.serial then { x with st := SerialState.resolved } else x
    Ctx.advanceW { c with out := out, news := assocSet c.news o.dev (c.newsFor o.dev + 1) } (c.out.length + 1)
  let s3 := s2.recordSerials cid
  if (s3.ctx cid).any fun c => 64 ≤ c.newsFor o.dev then s3.reportW cid o.dev else s3

/-- A serial has completed as indeterminate and awaits delivery (R309, R311). -/
def State.awaitDelivery (s : State) (cid : BitVec 32) (o : OutSerial) : State :=
  let s1 := match s.ctx cid with
    | some c => s.writeOut c o 2
    | none => s
  s1.modCtx cid fun (c : Ctx) =>
    { c with out := c.out.map fun (x : OutSerial) => if x.serial = o.serial then { x with st := SerialState.indeterminate } else x }

/-- What awaited delivery in a window has been delivered (R309). -/
def State.delivered (s : State) (t : Thread) (p : OutSerial → Bool) : State :=
  match s.ctx t.ctx with
  | none => s
  | some c => (c.out.filter fun o => o.st == .indeterminate && o.kind == 1 && o.tid == t.tid && p o).foldl
      (fun s o => s.resolveSerial t.ctx o) s

/-- Waiting records are written as soon as the ring has room (R314); the serials whose delivery they are, are then resolved. -/
def State.flushRecords (s : State) (cid : BitVec 32) : State :=
  match s.ctx cid with
  | none => s
  | some c =>
    if c.records = [] then s
    else
    let s1 := c.records.foldl (fun s r => s.faultRecord c r true) s
    match s1.ctx cid with
    | none => s1
    | some c1 => (c1.out.filter fun o => o.st == .indeterminate && o.kind == 2 && !(c1.records.any fun r => r.out.serial == o.serial)).foldl
        (fun s o => s.resolveSerial cid o) s1

/-- The header of the context's outstanding list, if it stands in an uncorrectable unit (R341). -/
def State.listBad (s : State) (c : Ctx) : Option Nat :=
  if c.outHdr = 0 then none else (s.paOf c.ctxid 1 c.outHdr .both).bind fun pa => if s.touchesBad pa 64 then some pa else none

/-- No serial can be taken: issue stalls (R303), or the context ends at an uncorrectable header (R341). -/
def State.stallSerial (s : State) (cid : BitVec 32) : State :=
  let s1 := { s with th := { s.th with stall := true } }
  match (s.ctx cid).bind s.listBad with
  | some pa => s1.meetBad cid pa
  | none => s1

/-- Take the next serial for a request (R302, R303): nothing while issue must stall. -/
def State.takeSerial (s : State) (cid : BitVec 32) (o : OutSerial) : Option (State × OutSerial) :=
  let s := (s.flushRecords cid).modCtx cid fun c => { c with kept := s.keptBy c }
  match s.ctx cid with
  | none => none
  | some c =>
    match (if (s.listBad c).isSome then none else s.mayTakeSerial c (payloadSize o.req)) with
    | none => none
    | some pay =>
      let req := { o.req with inc := s.incOf o.dev, rvid := c.rvid, serial := c.serialnext, wm := c.serialack }
      let o := { o with serial := c.serialnext, req := req, pay := pay }
      let s1 := s.modCtx cid fun x => { x with serialnext := x.serialnext + 1, out := x.out ++ [o] }
      let s2 := s1.writeOut c o 1
      let s3 := if pay = 0 then s2 else s2.putVa cid (BitVec.ofNat 64 pay) (payloadBytes req)
      some (s3.recordSerials cid, o)

/-! ### Delivering a reply (R304, R309, R313) -/

/-- A scalar operation commits with its result (R94, R145): the old value, and for a claim the granted count and vl. -/
def Thread.commitScalar (t : Thread) (o : OutSerial) (old : Word) : Thread :=
  let t1 := match o.req.cls with
    | .claim =>
      let g := (o.req.elems.headD { addr := 0, data := 0, dataB := 0, dataC := 0 }).dataB.toNat
      let t' := (t.setX o.xd old).setX o.xreq (BitVec.ofNat 64 g)
      if t.isCore then t' else { t' with vl := g }
    | _ => t.setX o.xd (if o.req.w64 then old else sextTo64 32 old)
  { t1.advance with await := none }

/-- The elements of a returning train arrive (R168). -/
def Thread.putResults (t : Thread) (o : OutSerial) (vals : List Word) : Thread :=
  match t.entry o.post with
  | none => t
  | some e =>
    match vamoKey e.instr with
    | none => t
    | some (_, _, op) =>
      let t1 := (o.elems.zip vals).foldl (fun t (i, v) => t.putElem o.post op.v o.et i v.toNat) t
      t1.modEntry o.post fun e =>
        { e with done := o.elems.foldl insertIdx e.done, sent := e.sent.filter fun i => i ∉ o.elems }

/-- The elements of a returning train become indeterminate: done with their old values (R309). -/
def Thread.keepResults (t : Thread) (o : OutSerial) : Thread :=
  match t.entry o.post with
  | none => t
  | some e =>
    match vamoKey e.instr with
    | none => t
    | some (_, _, op) =>
      let t1 := o.elems.foldl (fun t i => t.keepElem o.post op.v o.et i) t
      let t2 := t1.modEntry o.post fun e =>
        { e with done := o.elems.foldl insertIdx e.done, sent := e.sent.filter fun i => i ∉ o.elems,
                 indet := o.elems.foldl insertIdx e.indet, told := false }
      { t2 with remind := true }

/-- Elements of a refused train fire again later (R313). -/
def Thread.unsend (t : Thread) (post : Nat) (elems : List Nat) : Thread :=
  t.modEntry post fun e => { e with sent := e.sent.filter fun i => i ∉ elems }

/-- A trap that a reply brings cannot be taken yet: a check is under way (R338), a run on a collective binding holds traps back
(R241), or a scalar operation of the thread is carried to its own reply (R310). The reply comes again. -/
def State.holdsReply (s : State) (o : OutSerial) : Bool :=
  decide (o.kind ≤ 1) && (match s.thread o.tid with
    | none => false
    | some t => t.unchecked != [] || s.collectiveBusy t.tid || (o.kind == 1 && (match t.await with
      | some (.serial _ _) => true
      | _ => false)))

/-- A record of a non-returning train; the serial is resolved once it stands in the ring, or at once where it is no delivery. -/
def State.recordFor (s : State) (cid : BitVec 32) (o : OutSerial) (cause : Byte) (i : Nat) : State :=
  match s.ctx cid with
  | none => s
  | some c =>
    let s1 := s.faultRecord c { out := o, cause := cause, elem := i } false
    if cause = cREMIND && (s1.ctx cid).any fun c => c.records.any fun r => r.out.serial == o.serial then s1.awaitDelivery cid o
    else s1.resolveSerial cid o

/-- A serial completes as indeterminate (R309). -/
def State.indeterminate (s : State) (cid : BitVec 32) (o : OutSerial) : State :=
  match o.kind with
  | 0 =>
    if s.holdsReply o then s
    else
      let s1 := s.onThread o.tid fun s =>
        let t := { s.th.advance with await := none, remind := true }
        State.trap { s with th := t } cREMIND (o.va.headD 0)
      s1.resolveSerial cid o
  | 1 => (s.modThread o.tid fun t => t.keepResults o).awaitDelivery cid o
  | _ => (s.modThread o.tid fun t => if t.run = .exited then t else { t with remind := true }).recordFor cid o cREMIND 0

/-- A fault reply (R313): the thread takes it, or it is recorded; DABORT ends the context (R162, R342). -/
def State.ownerFault (s : State) (cid : BitVec 32) (o : OutSerial) (cause : Byte) (i : Nat) : State :=
  if cause = cDABORT ∧ o.kind ≤ 1 then s.abortTold cid
  else if s.holdsReply o then s
  else match o.kind with
  | 0 =>
    let s1 := s.onThread o.tid fun s => State.trap { s with th := { s.th with await := none } } cause (o.va.headD 0)
    s1.resolveSerial cid o
  | 1 =>
    let s1 := s.onThread o.tid fun s =>
      let s2 := { s with th := (s.th.unsend o.post o.elems).retire }
      if s2.th.frozen then s2 else s2.trapElem cause (s2.th.wentOf o.post) (o.va.getD i 0)
    s1.resolveSerial cid o
  | _ => s.recordFor cid o cause i

/-- The granted count of a claim, from the pair's words before it (R145): the owner's reply carries the old next. -/
def claimCount (o : OutSerial) (vals : List Word) : OutSerial :=
  { o with req := { o.req with elems := o.req.elems.map fun x => { x with dataB := vals.getD 1 x.dataB } } }

/-- A reply reaches the requester (R304). -/
def State.deliver (s : State) (cid : BitVec 32) (serial : BitVec 32) (a : Reply) : State :=
  match (s.ctx cid).bind fun c => c.out.find? fun (o : OutSerial) => o.serial = serial && o.st = .awaiting with
  | none => s
  | some o =>
    match a with
    | .results vals =>
      (match o.kind with
       | 0 => s.onThread o.tid fun s => { s with th := s.th.commitScalar (claimCount o vals) (vals.headD 0), stalled := false }
       | _ => s.modThread o.tid fun t => (t.putResults o vals).retire).resolveSerial cid o
    | .ack => s.resolveSerial cid o
    | .nackBusy => s
    | .nackRestarted inc =>
      State.indeterminate { s with hiend := { s.hiend with learned := assocSet s.hiend.learned o.dev inc } } cid o
    | .nackExpired => s.indeterminate cid o
    | .nackFault cause i => s.ownerFault cid o cause i

/-- Send an outstanding serial's request with the current W, and take the reply that comes at once (R302, R306); a frozen context
sends none (R312). -/
def State.sendSerial (s : State) (cid : BitVec 32) (serial : BitVec 32) : State :=
  match s.ctx cid with
  | none => s
  | some c =>
    match c.out.find? fun (o : OutSerial) => o.serial = serial && o.st = .awaiting && !c.frozen with
    | none => s
    | some o =>
      let (s0, a) := s.ask o.dev { o.req with wm := c.serialack }
      let s1 := if a.isSome then s0.modCtx cid fun c => { c with news := c.news.filter fun x => x.1 ≠ o.dev } else s0
      match a with
      | some a => s1.deliver cid serial a
      | none => s1

/-- No response yet: the access is waited for, uncommitted (R301). -/
def awaitAccess {α : Type} : Act α := do
  modify fun s => { s with th := { s.th with await := some (.access s.th.pc) } }
  endWith .wait

/-- The response has come. -/
def gotAccess : Act Unit := modify fun s => match s.th.await with
  | some (.access _) =>
    { s with th := { s.th with await := none }, hiend := { s.hiend with retries := s.hiend.retries.filter (· ≠ s.th.tid) } }
  | _ => s

/-- An empty request, to be completed by its sender. -/
def Request.blank : Request :=
  { inc := 0, rvid := 0, serial := 0, wm := 0, op := 0, ret := true, cls := .amo, w64 := true, elems := [], whole := true }

/-- An operation that has been sent waits for its reply and checks nothing again (R310). -/
def carried : Act Unit := do
  let s ← get
  match s.th.await with
  | some (.serial pc _) => if pc = s.th.pc then endWith .wait else pure ()
  | _ => pure ()

/-- A remote scalar atomic, `cas` or `claim` (R95, R302, R310): it takes a serial, is sent, and commits with the reply. Sent once,
it is carried to its reply. -/
def remoteScalar (dev : BitVec 14) (va : Word) (req : Request) (xd xreq : XReg) : Act Unit := do
  let s ← get
  let t := s.th
  let o : OutSerial :=
    { serial := 0, dev := dev, req := req, st := .awaiting, kind := 0, tid := t.tid, id := t.ident.setWidth 32, pc := t.pc,
      va := [va], elems := [0], post := 0, xd := xd, xreq := xreq, minor := req.op.toNat, et := 0, pay := 0,
      gen := s.graphOf t }
  match s.takeSerial t.ctx o with
  | none =>
    set (s.stallSerial t.ctx)
    endWith .wait
  | some (s1, o1) =>
    let s2 := { s1 with th := { s1.th with stall := false, await := some (.serial t.pc o1.serial) } }
    let s3 := s2.sendSerial t.ctx o1.serial
    set s3
    if s3.th.await = some (.serial t.pc o1.serial) then endWith .wait else pure ()

end Sys2Proof.Machine
end

