-- ==== Sys2Proof/Machine/Fire.lean ====
section
/-! DEFINITION. The firing of an element of a format V instruction (spec/04 R66, R67; spec/06 R107–R126; spec/07). Every function
answers nothing while the element is not ready. -/

namespace Sys2Proof.Machine

/-! ### When an element may fire -/

/-- Element `u` of the instruction reads element `u` of each source, and no other (R66). -/
def elementwise (t : Thread) (e : Entry) : Bool :=
  match vkey e.instr with
  | some (ma, mi, o) =>
    ma == 0x30 || ma == 0x31 || ma == 0x32 || ma == 0x38 ||
    (ma == 0x33 && mi != 3 && !isBx (t.tagBy e.post o.vs1)) || (ma == 0x36 && (mi ≤ 4 || mi == 11)) ||
    (ma == 0x37 && (mi ≤ 2 || mi == 5))
  | none =>
    match loadKey e.instr with
    | some (_, o) => !isBx o.et
    | none => match storeKey e.instr with
      | some (_, o) => !isBx o.et
      | none => (vamoKey e.instr).isSome

/-- Bits 0 … n − 1 of a mask are present. -/
def Thread.bitsBelow (t : Thread) (post : Nat) (k : KReg) (n : Nat) : Bool :=
  (List.range n).all fun e => (t.kElem post k e).isSome

/-- How many of the elements below `n` are active and, with a second mask, have their bit set (R131, R135). -/
def Thread.countBits (t : Thread) (post : Nat) (k ka : KReg) (n : Nat) : Nat :=
  ((List.range n).filter fun e => t.kElem post k e = some true && t.kElem post ka e = some true).length

/-- The element that `vmvxs` or `vextract` reads (R137). -/
def moveIndex (e : Entry) (mi : Nat) (o : VOp) : Nat :=
  if mi = 3 then 0 else match o.src2 with
    | .imm i => i.toNat
    | _ => (e.xs.headD 0).toNat

/-- Unit `i` of a format V entry reads element `x` of its first source; a gather whose index is absent may read any. -/
def readsFirst (t : Thread) (e : Entry) (ma mi : Nat) (o : VOp) (i x : Nat) : Bool :=
  match ma, mi with
  | 0x35, 0 => decide (x + slideOff o e.xs = i)
  | 0x35, 1 => decide (x = i + slideOff o e.xs)
  | 0x35, 2 => decide (x + 1 = i)
  | 0x35, 3 => decide (x = i + 1)
  | 0x35, 4 => (match o.src2 with
    | .v r => (match t.vSlot e.post r i with
      | some j => decide (x = j)
      | none => true)
    | .imm j => decide (x = j.toNat)
    | .x _ => false)
  | 0x35, 6 => (match t.bitsBelow e.post o.k (i + 1), t.kElem e.post o.k i with
    | true, some b => b && decide (x = t.countBits e.post o.k 0 i)
    | _, b => b != some false && decide (x ≤ i))
  | 0x35, 7 => decide (x + i + 1 = e.vl)
  | 0x33, 2 => decide (x = i)
  | 0x33, 3 => decide (x / 16 = i / 16)
  | 0x33, _ => if isBx (t.tagBy e.post o.vs1) then decide (x / 16 = i / 16) else decide (x = i)
  | 0x36, 5 | 0x36, 6 | 0x36, 7 | 0x36, 10 => decide (x ≤ i)
  | 0x36, 8 | 0x36, 9 => decide (x = i)
  | 0x37, 3 => decide (i = 0 ∧ x = 0)
  | 0x37, 6 => decide (i = 0 ∧ x = moveIndex e mi o)
  | 0x64, _ => true
  | _, _ => decide (x = i)

/-- Unit `i` of a format V entry reads bit `x` of the mask that its `k` field names. -/
def readsMask (ma mi i x : Nat) : Bool :=
  match ma, mi with
  | 0x35, 5 | 0x35, 6 | 0x36, 5 | 0x36, 6 | 0x36, 7 | 0x36, 10 => decide (x ≤ i)
  | 0x64, _ => true
  | _, _ => decide (x = i)

/-- Unit `i` of an entry may read element `x` of v register `v`; of a pair where the type, or for a conversion the source's tag,
has 64 bits (R62, R109). -/
def unitReadsV (t : Thread) (e : Entry) (v : VReg) (i x : Nat) : Bool :=
  match vkey e.instr with
  | some (ma, mi, o) =>
    let sp := vSpec ma mi
    let wide := is64 o.et
    let wide1 := if ma = 0x33 ∧ mi ≠ 2 then is64 (t.tagBy e.post o.vs1) else wide
    (sp.src1 != .mask && (pairOf o.vs1 wide1).contains v && readsFirst t e ma mi o i x) ||
    ((match o.src2 with
      | .v r => sp.src2 != .mask && (pairOf r (wide && !(ma == 0x35 && mi == 4))).contains v
      | _ => false) && (ma == 0x64 || (if ma = 0x34 then decide (x = 0) else decide (x = i)))) ||
    (sp.vs3 && (pairOf o.vs3 wide).contains v && decide (x = i))
  | none =>
    match storeKey e.instr with
    | some (_, o) => decide (x = i) || (isBx o.et && decide (x / 16 = i / 16))
    | none => if (loadKey e.instr).isSome || (vamoKey e.instr).isSome then decide (x = i) else true

/-- Unit `i` of an entry may read bit `x` of mask register `k`. -/
def unitReadsK (t : Thread) (e : Entry) (k : KReg) (i x : Nat) : Bool :=
  match vkey e.instr with
  | some (ma, mi, o) =>
    let sp := vSpec ma mi
    (o.k == k && readsMask ma mi i x) ||
    (sp.src1 == .mask && o.vs1.setWidth 3 == k && readsFirst t e ma mi o i x) ||
    (sp.src2 == .mask && (kOfSrc2 o.src2).contains k && decide (x = i))
  | none => decide (x = i)

/-- The entry has a unit to come that may read element `x` of a register (R67 item 4). -/
def stillReads (e : Entry) (reads : Nat → Bool) (x : Nat) : Bool :=
  match e.instr with
  | .frun _ _ => !e.complete && decide (e.prog ≤ x) && decide (x < (e.xs.headD 0).toNat)
  | _ => !e.complete && (List.range e.units).any fun i => !e.isDone i && reads i

/-- Elements `us` of the destinations are held: an earlier reader of the older version has not fired for one of them (R67 item 4).
-/
def Thread.heldAt (t : Thread) (e : Entry) (us : List Nat) : Bool :=
  let w := e.use
  t.window.any fun r =>
    decide (r.post < e.post) &&
    ((w.vw.any fun v => (t.readsOf r).contains v && us.any fun x => stillReads r (fun i => unitReadsV t r v i x) x) ||
     (w.kw.any fun k => r.use.kr.contains k && us.any fun x => stillReads r (fun i => unitReadsK t r k i x) x))

/-- Element `u` of the destination is held. -/
def Thread.held? (t : Thread) (e : Entry) (u : Nat) : Bool := t.heldAt e [u]

/-- The sixteen elements of the block of element `u`. -/
def blockOf (u : Nat) : List Nat := (List.range 16).map fun i => u / 16 * 16 + i

/-- The post numbers of the entries whose elements a version may hold: its writer, and for elements that it keeps the older
version's. -/
def VSt.writersBy (r : VSt) (post : Nat) : List Nat :=
  if r.new.writer < post then r.new.writer :: (r.old.map fun o => o.writer).toList else (r.old.map fun o => o.writer).toList

def KSt.writersBy (r : KSt) (post : Nat) : List Nat :=
  if r.new.writer < post then r.new.writer :: (r.old.map fun o => o.writer).toList else (r.old.map fun o => o.writer).toList

/-- The post numbers of the entries whose results an entry may read. -/
def Thread.writersOf (t : Thread) (e : Entry) : List Nat :=
  ((t.readsOf e).flatMap fun r => (t.partOr.vreg r).writersBy e.post) ++
  (e.use.kr.filter (· ≠ 0)).flatMap fun k => (t.partOr.kreg k).writersBy e.post

/-- The element depends, through some chain of sources, on a checked element whose check has not passed (R337). -/
def Thread.awaitsCheck (t : Thread) : Nat → Entry → Option Nat → Bool
  | 0, _, _ => false
  | n + 1, e, u =>
    if t.unchecked = [] then false
    else (t.writersOf e).any fun w =>
      match t.entry w with
      | none => false
      | some f =>
        let v := if elementwise t e && elementwise t f then u else none
        (t.unchecked.any fun (p, i) => p = w && (v = none || v = some i)) ||
        (decide (f.post < e.post) && t.awaitsCheck n f v)

/-- Elements 0 … u of a register are present. -/
def Thread.elemsUpTo (t : Thread) (post : Nat) (r : VReg) (et : EType) (u : Nat) : Bool :=
  (List.range (u + 1)).all fun e => (t.vElem post r et e).isSome

/-- Every lower element of the instruction has fired (R66, ordered kind): inactive ones take no part. -/
def lowerFired (t : Thread) (e : Entry) (k : KReg) (u : Nat) : Bool :=
  (List.range u).all fun i => e.isDone i || t.kElem e.post k i = some false

/-! ### Finishing an element -/

/-- The element receives a value and its flags are ORed in (R107). -/
def finishV (t : Thread) (e : Entry) (o : VOp) (u : Nat) (r : ElemRes) : Thread :=
  ((t.putElem e.post o.vd o.et u r.val).raise r.ff r.lf).modEntry e.post (·.mark u)

/-- The mask bit receives a value (R116, R128). -/
def finishK (t : Thread) (e : Entry) (o : VOp) (u : Nat) (b : Bool) (f : FFlags) : Thread :=
  ((t.putBit e.post (o.vd.setWidth 3) u b).raise f 0).modEntry e.post (·.mark u)

/-- A masked-off element of a v destination (R65). -/
def offV (t : Thread) (e : Entry) (o : VOp) (u : Nat) : Thread :=
  (if o.zm then t.putElem e.post o.vd o.et u 0 else t.keepElem e.post o.vd o.et u).modEntry e.post (·.mark u)

/-- A masked-off bit of a mask destination (R116). -/
def offK (t : Thread) (e : Entry) (o : VOp) (u : Nat) : Thread :=
  (if o.zm then t.putBit e.post (o.vd.setWidth 3) u false else t.keepBit e.post (o.vd.setWidth 3) u).modEntry e.post (·.mark u)

/-- A scalar result, extended to 64 bits (R137, R138). -/
def extendX (et : EType) (zext : Bool) (v : Nat) : Word :=
  if isIntT et && !zext then sextTo64 (widthOf et) (BitVec.ofNat 64 v) else BitVec.ofNat 64 v

/-- The x register that F bits 4:0 name (R127). -/
def xDst (o : VOp) : XReg := o.vd.setWidth 6

/-- The scalar result is written and the entry is complete. -/
def finishX (t : Thread) (e : Entry) (o : VOp) (v : Word) : Thread :=
  (t.setX (xDst o) v).modEntry e.post fun x => (List.range x.units).foldl Entry.mark x

/-! ### Operands -/

/-- The second source of element `u` read for type `et` (R106). -/
def Thread.second (t : Thread) (e : Entry) (ma mi : Nat) (o : VOp) (et : EType) (u : Nat) : Option Nat :=
  match o.src2 with
  | .v r => t.vElem e.post r et u
  | .x _ => some ((e.xs.headD 0).toNat % 2 ^ widthOf et)
  | .imm i => some (immOf et (!immUnsigned ma mi) i)

/-- The exact value of element `u` of a bx register, with its header (R119, R120). -/
def Thread.bxElem (t : Thread) (post : Nat) (r : VReg) (tag : EType) (u : Nat) : Option FVal :=
  let b := u / 16 * 16
  match t.vSlot post r b, t.vSlot post r (b + 1), t.vSlot post r u with
  | some h0, some h1, some x =>
    let m := bxM tag
    some (blkVal m (h0 / 256 % 256) (h1 / 256 % 256) (u % 16) (x / 2 ^ m % 2 = 1) (x % 2 ^ m))
  | _, _, _ => none

/-! ### Element-wise groups -/

/-- The value of an active element of majors 0x30, 0x31, 0x33 and 0x38 (R107). -/
def elemValue (t : Thread) (e : Entry) (ma mi : Nat) (o : VOp) (u : Nat) : Option ElemRes :=
  let sp := vSpec ma mi
  let rm := modeOf o.rm e.frm
  match ma with
  | 0x33 =>
    let tag := t.tagBy e.post o.vs1
    if mi = 2 then (t.vElem e.post o.vs1 o.et u).map fun a => { val := a }
    else if isBx tag then (t.bxElem e.post o.vs1 tag u).map (cvtBxRes o.et (cvtDu o) (mi = 1) rm)
    else (t.vElem e.post o.vs1 tag u).map (cvtRes tag o.et (cvtSu o) (cvtDu o) (mi = 1) rm)
  | _ =>
    let et2 : EType := if ma = 0x38 ∧ mi = 2 then 1 else o.et
    let b := if sp.src2 == .none then some 0 else t.second e ma mi o et2 u
    let c := if sp.vs3 then t.vElem e.post o.vs3 o.et u else some 0
    match t.vElem e.post o.vs1 o.et u, b, c with
    | some a, some b, some c =>
      match ma with
      | 0x30 => some { val := intRes mi (widthOf o.et) a b c }
      | 0x31 => some (fpRes mi (fmtOf o.et) rm a b c)
      | _ => some (lnsRes mi o.et a b)
    | _, _, _ => none

/-- The relation of an active element of major 0x32 (R117). -/
def compareValue (t : Thread) (e : Entry) (mi : Nat) (o : VOp) (u : Nat) : Option (Bool × FFlags) :=
  let b := if (vSpec 0x32 mi).src2 == .none then some 0 else t.second e 0x32 mi o o.et u
  match t.vElem e.post o.vs1 o.et u, b with
  | some a, some b => some (cmpRes mi o.et a b)
  | _, _ => none

/-- `vquant`: the whole block of element `u` (R121). -/
def fireQuant (t : Thread) (e : Entry) (o : VOp) (u : Nat) : Option Thread :=
  let b := u / 16 * 16
  let tag := t.tagBy e.post o.vs1
  let xs := (List.range 16).map fun i =>
    if b + i < e.vl then (t.vElem e.post o.vs1 tag (b + i)).map (valueOf tag false) else some (.fin false 0 0)
  if xs.any (·.isNone) then none
  else
    let (q, fl) := quantise (bxM o.et) (xs.map fun x => x.getD (.fin false 0 0))
    let slots := blkSlots (bxM o.et) q
    let t1 := (slots.zip (List.range 16)).foldl (fun t (v, i) => t.putSlot e.post o.vd (b + i) v) t
    some ((t1.raise fl 0).modEntry e.post fun x =>
      ((List.range 16).filter fun i => b + i < e.vl).foldl (fun x i => x.mark (b + i)) x)

/-! ### Permutes (R132–R136) -/

/-- The value of an active element of a permute: nothing while it is not ready; `some none` keeps the old value. -/
def permuteValue (t : Thread) (e : Entry) (mi : Nat) (o : VOp) (u : Nat) : Option (Option Nat) :=
  let src := fun j => (t.vElem e.post o.vs1 o.et j).map some
  let ordered := fun j => if t.elemsUpTo e.post o.vs1 o.et j && lowerFired t e o.k u then src j else none
  let off := slideOff o e.xs
  match mi with
  | 0 => if u < off then some none else ordered (u - off)
  | 1 => if u + off < e.vl then ordered (u + off) else some (some 0)
  | 2 => if u = 0 then (t.second e 0x35 mi o o.et u).map some else ordered (u - 1)
  | 3 => if u + 1 < e.vl then ordered (u + 1) else (t.second e 0x35 mi o o.et u).map some
  | 4 =>
    (match o.src2 with
     | .v r => t.vSlot e.post r u
     | .imm i => some i.toNat
     | .x _ => some 0).bind fun j => if j < e.vl then src j else some (some 0)
  | 6 => if t.bitsBelow e.post o.k (u + 1) then src (t.countBits e.post o.k 0 u) else none
  | _ => src (e.vl - 1 - u)

/-- Element `i` of the version that an entry opened is still to come from it. -/
def Thread.toCome (t : Thread) (e : Entry) (r : VReg) (i : Nat) : Bool :=
  let s := t.partOr.vreg r
  if s.new.writer = e.post then s.new.absent.contains i else s.old.any fun o => o.writer = e.post && o.absent.contains i

/-- `vcompress` (R134): selector position `u`; or the end: once every selector bit is present each element of the rest is kept, as
soon as none of its earlier readers holds it (R67 item 4). -/
def fireCompress (t : Thread) (e : Entry) (o : VOp) (u : Nat) : Option Thread :=
  if u = e.vl then
    if !t.bitsBelow e.post o.k e.vl then none
    else
      let rest := ((List.range e.vl).drop (t.countBits e.post o.k 0 e.vl)).filter (t.toCome e o.vd)
      let free := rest.filter fun i => !t.held? e i
      let t1 := free.foldl (fun t i => t.keepElem e.post o.vd o.et i) t
      if free = rest then some (t1.modEntry e.post (·.mark u)) else if free = [] then none else some t1
  else if !e.allBelow u then none
  else
    match t.kElem e.post o.k u with
    | none => none
    | some false => some (t.modEntry e.post (·.mark u))
    | some true => if t.held? e e.prog then none else (t.vElem e.post o.vs1 o.et u).map fun a =>
        (t.putElem e.post o.vd o.et e.prog a).modEntry e.post fun x => { x.mark u with prog := x.prog + 1 }

/-! ### Masks (R128–R131) -/

/-- Bits `a` and `b` of a mask operation. -/
def maskOp (mi : Nat) (a b : Bool) : Bool :=
  match mi with
  | 0 => a && b
  | 1 => a || b
  | 2 => a != b
  | 3 => !a
  | _ => a && !b

/-- The bit of an active element of a mask instruction (R128, R129). -/
def maskValue (t : Thread) (e : Entry) (mi : Nat) (o : VOp) (u : Nat) : Option Bool :=
  let ka : KReg := o.vs1.setWidth 3
  if mi ≤ 4 then
    let b := match o.src2 with
      | .v r => if mi = 3 then some false else t.kElem e.post (r.setWidth 3) u
      | _ => some false
    match t.kElem e.post ka u, b with
    | some a, some b => some (maskOp mi a b)
    | _, _ => none
  else if t.bitsBelow e.post ka (u + 1) && t.bitsBelow e.post o.k (u + 1) && lowerFired t e o.k u then
    let before := t.countBits e.post o.k ka u = 0
    let here := t.kElem e.post ka u = some true
    match mi with
    | 5 => some (before && !here)
    | 6 => some before
    | _ => some (before && here)
  else none

/-- Bit `u` of `kfirst` or `kcount` is consumed: an inactive one, or one that is present (R130). -/
def consumeBit (t : Thread) (e : Entry) (o : VOp) (u : Nat) : Option Thread :=
  match t.kElem e.post o.k u with
  | none => none
  | some false => some (t.modEntry e.post (·.mark u))
  | some true => (t.kElem e.post (o.vs1.setWidth 3) u).map fun _ => t.modEntry e.post (·.mark u)

/-- The scan of `kfirst` over the consumed bits (R130): nothing while it is undecided. -/
def firstBit (t : Thread) (e : Entry) (k ka : KReg) : List Nat → Option (Option Nat)
  | [] => some none
  | i :: r =>
    if !e.isDone i then none
    else if t.kElem e.post k i = some true ∧ t.kElem e.post ka i = some true then some (some i)
    else firstBit t e k ka r

/-- The scalar result of `kfirst` or `kcount` (R130). -/
def maskScalar (t : Thread) (e : Entry) (mi : Nat) (o : VOp) : Option Word :=
  let ka : KReg := o.vs1.setWidth 3
  if mi = 8 then
    (firstBit t e o.k ka (List.range e.vl)).map fun r => match r with
      | some i => BitVec.ofNat 64 i
      | none => -1
  else if e.allBelow e.vl then some (BitVec.ofNat 64 (t.countBits e.post o.k ka e.vl)) else none

/-- A checked element (R336): of majors 0x30–0x38, or of a `vst.bx` that quantises, in the lane that the sequence number names.
`tag` is the stored register's. -/
def isCheckedAs (e : Entry) (tag : Option EType) (u : Nat) : Bool :=
  decide (u < e.vl) && decide (u % 16 = e.seq.toNat % 16) &&
  (match vkey e.instr with
   | some (ma, _, _) => ma ≤ 0x38
   | none => match storeKey e.instr, tag with
     | some (_, o), some g => isBx o.et && g != o.et
     | _, _ => false)

/-- A checked element of a format V entry. -/
def isChecked (e : Entry) (u : Nat) : Bool := isCheckedAs e none u

/-- A checked element of any entry. -/
def Thread.checks (t : Thread) (e : Entry) (u : Nat) : Bool :=
  isCheckedAs e ((storeKey e.instr).map fun p => t.tagBy e.post p.2.v) u

/-! ### Reductions (R138, R139) -/

/-- The initial value of a reduction. -/
def redInit (t : Thread) (e : Entry) (o : VOp) : Option Nat :=
  match o.src2 with
  | .v r => t.vElem e.post r o.et 0
  | .x _ => some ((e.xs.headD 0).toNat % 2 ^ widthOf o.et)
  | .imm _ => some 0

/-- A node of the tree of a reduction (R40): not decided yet, inactive, or its value. -/
inductive RedNode where
  | waits
  | empty
  | val (v : Nat)
  deriving DecidableEq, Repr

/-- One level of the tree: a combination fires once both of its inputs are there (R40, R139). -/
def redLevel (f : Nat → Nat → ElemRes) : List RedNode → List RedNode × FFlags
  | .val a :: .val b :: r =>
    let x := f a b
    let (l, fl) := redLevel f r
    (.val x.val :: l, x.ff ||| fl)
  | a :: b :: r =>
    let (l, fl) := redLevel f r
    ((match a, b with
      | .empty, y => y
      | y, .empty => y
      | _, _ => .waits) :: l, fl)
  | l => (l, 0)

/-- The tree as far as its inputs are there, with the flags of the combinations that have fired; the fuel bounds the levels. -/
def redTree (f : Nat → Nat → ElemRes) : Nat → List RedNode → RedNode × FFlags
  | 0, _ => (.empty, 0)
  | _ + 1, [] => (.empty, 0)
  | _ + 1, [x] => (x, 0)
  | n + 1, l =>
    let (l', fl) := redLevel f l
    let (r, fl') := redTree f n l'
    (r, fl ||| fl')

/-- The leaves of the tree: elements that the entry has consumed, and inactive ones (R40). -/
def redLeaves (t : Thread) (e : Entry) (o : VOp) : List RedNode :=
  (List.range e.vl).map fun i =>
    if e.isDone i then (if t.kElem e.post o.k i = some true then (match t.vElem e.post o.vs1 o.et i with
      | some a => .val a
      | none => .waits) else .empty)
    else .waits

/-- The running value of a reduction without a tree, and whether it has taken the initial value. -/
def Entry.running (e : Entry) : Option Nat × Bool := ((e.acc.head?).map (·.toNat), decide (1 < e.acc.length))

/-- A value is combined into the running one; the first stands by itself. -/
def combineIn (f : Nat → Nat → ElemRes) (r : Option Nat) (a : Nat) : ElemRes :=
  match r with
  | none => { val := a }
  | some v => f v a

/-- Element `u` of a reduction is consumed, with every combination that then has its inputs (R139). The last addition of an
ordered sum goes with the write of the result, which an earlier reader of it may hold (R67). -/
def consume (t : Thread) (e : Entry) (mi : Nat) (o : VOp) (u : Nat) : Option Thread :=
  let f := redStep mi o.et (redUn o) (modeOf o.rm e.frm)
  match t.kElem e.post o.k u with
  | none => none
  | some false =>
    let e1 := e.mark u
    some ((if mi = 1 then t.raise (redTree f (e.vl + 1) (redLeaves t e1 o)).2 0 else t).modEntry e.post (·.mark u))
  | some true =>
    match t.vElem e.post o.vs1 o.et u with
    | none => none
    | some a =>
      match mi with
      | 0 =>
        match redInit t e o with
        | none => none
        | some init =>
          let last := ((List.range e.vl).drop (u + 1)).all fun i => t.kElem e.post o.k i == some false
          if t.elemsUpTo e.post o.vs1 o.et u && lowerFired t e o.k u && !(last && !redToX o && t.held? e 0) then
            let r := f (e.running.1.getD init) a
            some ((t.raise r.ff r.lf).modEntry e.post fun x => { x.mark u with acc := [BitVec.ofNat 64 r.val, 1] })
          else none
      | 1 => some ((t.raise (redTree f (e.vl + 1) (redLeaves t (e.mark u) o)).2 0).modEntry e.post (·.mark u))
      | _ =>
        let r := combineIn f e.running.1 a
        some ((t.raise r.ff r.lf).modEntry e.post fun x =>
          { x.mark u with acc := BitVec.ofNat 64 r.val :: x.acc.drop 1 })

/-- The result of a reduction whose elements are all consumed, with the flags of its last combination and of the tree (R138,
R139). -/
def redResult (t : Thread) (e : Entry) (mi : Nat) (o : VOp) (init : Nat) : ElemRes :=
  let f := redStep mi o.et (redUn o) (modeOf o.rm e.frm)
  match mi with
  | 0 => { val := e.running.1.getD init }
  | 1 => (match redTree f (e.vl + 1) (redLeaves t e o) with
    | (.val v, fl) =>
      let r := f init v
      { r with ff := r.ff ||| fl }
    | (_, fl) => { val := init, ff := fl })
  | _ => (match e.running.1 with
    | some v => f init v
    | none => { val := init })

/-- The result is written, with the last combination (R139); nothing while an element is to come. -/
def finishRed (t : Thread) (e : Entry) (mi : Nat) (o : VOp) : Option Thread :=
  if !e.allBelow e.vl then none
  else
    (redInit t e o).bind fun init =>
      let r := redResult t e mi o init
      let t1 := t.raise r.ff r.lf
      if redToX o then some (finishX t1 e o (extendX o.et (redUn o) r.val))
      else if t.held? e 0 then none
      else some ((t1.putElem e.post o.vd o.et 0 r.val).modEntry e.post (·.mark e.vl))

/-- The elements behind `u` that are known to be inactive are skipped. -/
def skipRest (t : Thread) (e : Entry) (o : VOp) : Thread :=
  t.modEntry e.post fun x => ((List.range x.vl).filter fun i => t.kElem e.post o.k i = some false).foldl Entry.mark x

/-- An instruction that ends with a result of its elements, after element `x` has fired: the result is written at once, where
nothing holds it back and it does not escape before a check (R337). -/
def endWithResult (e : Entry) (o : VOp) (escapes : Bool) (x : Nat) (fin : Thread → Entry → Option Thread) (t1 : Thread) : Thread :=
  let t2 := skipRest t1 e o
  match t2.entry e.post with
  | none => t2
  | some e2 =>
    if escapes && (t2.awaitsCheck 64 e2 none || isChecked e2 x || t2.unchecked.any fun c => c.1 = e.post) then t1
    else (fin t2 e2).getD t1

/-- A unit of a reduction: an element is consumed; or the result. -/
def fireRed (t : Thread) (e : Entry) (mi : Nat) (o : VOp) (u : Nat) : Option Thread :=
  if u < e.vl then (consume t e mi o u).map (endWithResult e o (redToX o) u fun t2 e2 => finishRed t2 e2 mi o)
  else finishRed t e mi o

/-- What a reduction that is restored has accumulated: its done elements again, without their flags (R139, R282). -/
def regained (t : Thread) (e : Entry) : List Word :=
  match vkey e.instr with
  | some (0x34, mi, o) =>
    if mi = 1 ∨ e.complete then []
    else
      let f := redStep mi o.et (redUn o) (modeOf o.rm e.frm)
      let start := if mi = 0 then redInit t e o else none
      (((List.range e.vl).filter fun i => e.isDone i && t.kElem e.post o.k i = some true).foldl (fun (acc : List Word) i =>
        match t.vElem e.post o.vs1 o.et i with
        | none => acc
        | some a =>
          let v := match acc.head? with
            | some w => some w.toNat
            | none => start
          BitVec.ofNat 64 (combineIn f v a).val :: acc.drop 1) [])
  | _ => e.acc

/-! ### Moves (R137) -/

/-- The value of an active element of `vmv`, `vsplat`, `vsplati` or `vmerge`. -/
def moveValue (t : Thread) (e : Entry) (mi : Nat) (o : VOp) (u : Nat) : Option Nat :=
  match mi with
  | 0 => t.vElem e.post o.vs1 o.et u
  | 1 => some ((e.xs.headD 0).toNat % 2 ^ widthOf o.et)
  | 2 => some (immOf o.et true o.opt)
  | _ =>
    match t.kElem e.post o.k u with
    | none => none
    | some true => t.second e 0x37 5 o o.et u
    | some false => t.vElem e.post o.vs1 o.et u

/-- The scalar result of `vmvxs` or `vextract`. -/
def moveScalar (t : Thread) (e : Entry) (mi : Nat) (o : VOp) : Option Word :=
  let j := moveIndex e mi o
  if mi = 6 ∧ e.vl ≤ j then some 0 else (t.vElem e.post o.vs1 o.et j).map (extendX o.et false)

/-- An instruction of majors 0x36 and 0x37 with an x destination: an element is consumed, or the result is written (R127, R130,
R137). -/
def fireScalar (t : Thread) (e : Entry) (ma mi : Nat) (o : VOp) (u : Nat) : Option Thread :=
  let fin := fun (t : Thread) (e : Entry) => if ma = 0x36 then (maskScalar t e mi o).map (finishX t e o)
    else if e.isDone 0 then (moveScalar t e mi o).map (finishX t e o) else none
  if u + 1 = e.units then fin t e
  else if ma = 0x36 then (consumeBit t e o u).map (endWithResult e o true u fin)
  else (moveScalar t e mi o).map fun _ => endWithResult e o true (moveIndex e mi o) fin (t.modEntry e.post (·.mark 0))

/-! ### One unit -/

/-- Under the execution mask: masked-off elements settle, active ones take the action. -/
def underMask (t : Thread) (e : Entry) (o : VOp) (u : Nat) (off : Thread) (act : Option Thread) : Option Thread :=
  match t.kElem e.post o.k u with
  | none => none
  | some false => some off
  | some true => act

/-- Unit `u` of a format V entry fires: the thread after it, or nothing while it is not ready. -/
def fireV (t : Thread) (e : Entry) (ma mi : Nat) (o : VOp) (u : Nat) : Option Thread :=
  let hold := fun (h : Nat) (r : Option Thread) => if t.held? e h then none else r
  match ma with
  | 0x32 => underMask t e o u (offK t e o u)
      (hold u ((compareValue t e mi o u).map fun (b, f) => finishK t e o u b f))
  | 0x34 => fireRed t e mi o u
  | 0x35 =>
    if mi = 5 then fireCompress t e o u
    else underMask t e o u (offV t e o u)
      ((permuteValue t e mi o u).bind fun v => match v with
        | some x => hold u (some (finishV t e o u { val := x }))
        | none => some ((t.keepElem e.post o.vd o.et u).modEntry e.post (·.mark u)))
  | 0x36 =>
    if mi = 8 ∨ mi = 9 then fireScalar t e ma mi o u
    else if mi = 10 then
      underMask t e o u (offV t e o u) (hold u
        (if t.bitsBelow e.post (o.vs1.setWidth 3) u && t.bitsBelow e.post o.k u && lowerFired t e o.k u then
          some (finishV t e o u { val := t.countBits e.post o.k (o.vs1.setWidth 3) u })
         else none))
    else if mi = 11 then underMask t e o u (offV t e o u) (hold u (some (finishV t e o u { val := u })))
    else underMask t e o u (offK t e o u) (hold u ((maskValue t e mi o u).map fun b => finishK t e o u b 0))
  | 0x37 =>
    if mi = 3 ∨ mi = 6 then fireScalar t e ma mi o u
    else if mi = 4 then hold 0 (some (finishV t e o 0 { val := (e.xs.headD 0).toNat % 2 ^ widthOf o.et }))
    else if mi = 5 then hold u ((moveValue t e mi o u).map fun v => finishV t e o u { val := v })
    else underMask t e o u (offV t e o u) (hold u ((moveValue t e mi o u).map fun v => finishV t e o u { val := v }))
  | _ =>
    if ma = 0x33 ∧ mi = 3 then (if t.heldAt e (blockOf u) then none else fireQuant t e o u)
    else underMask t e o u (offV t e o u) (hold u ((elemValue t e ma mi o u).map (finishV t e o u)))

/-- The instruction's result goes to an x register, so that its last unit escapes (R337). -/
def toX (ma mi : Nat) (o : VOp) : Bool :=
  (ma == 0x36 && (mi == 8 || mi == 9)) || (ma == 0x37 && (mi == 3 || mi == 6)) || (ma == 0x34 && redToX o)

end Sys2Proof.Machine
end

