-- ==== Sys2Proof/Machine/VMem.lean ====
section
/-! DEFINITION. Vector loads, stores and `vamo`: posting, addresses, the order of accesses within a thread, and the firing of an
element (spec/09 R156–R170, spec/05 R92, spec/12 R221). -/

namespace Sys2Proof.Machine

/-! ### Addresses (R157, R158) -/

/-- The address operands of a vector memory entry: mode and fields. -/
def memKey (i : Instr) : Option (Nat × VMOp) :=
  match loadKey i with
  | some k => some k
  | none => match storeKey i with
    | some k => some k
    | none => (vamoKey i).map fun (_, m, o) => (m, o)

/-- x[base] + sext(imm26). -/
def vmBase (e : Entry) (o : VMOp) : Word := e.xs.headD 0 + o.imm.signExtend 64

/-- Bytes that the unit of an element touches: the element, or its whole block (R158). -/
def vmSize (o : VMOp) : Nat := if isBx o.et then bxSize o.et else sizeOf o.et

/-- a(e) (R157); the block's address for a block type. Nothing while the index is absent. -/
def vmAddr (t : Thread) (e : Entry) (mode : Nat) (o : VMOp) (u : Nat) : Option Word :=
  let b := vmBase e o
  match mode with
  | 0 => some (b + BitVec.ofNat 64 (if isBx o.et then u / 16 * bxSize o.et else u * sizeOf o.et))
  | 1 => some (b + BitVec.ofNat 64 u * (e.xs.drop 1).headD 0)
  | _ =>
    let r : VReg := o.idx.setWidth 5
    if o.iw = 1 then (t.vElem e.post r 3 u).map fun x => b + BitVec.ofNat 64 x
    else (t.vElem e.post r 2 u).map fun x => b + sextTo64 32 (BitVec.ofNat 64 x)

/-! ### Tile transfer shapes (R195) -/

/-- The shape register read. -/
structure Shape where
  lf    : Bool
  rows  : Nat
  cols  : Nat
  pitch : Word
  deriving DecidableEq, Repr

/-- Limits of a tile code under a format: rows and columns (R185). -/
def tileLimits (tile : BitVec 4) (lf : Bool) : Nat × Nat :=
  let kmax := if lf then 256 else 512
  if tile.ult 8 then (32, 64) else if tile.ult 12 then (kmax, 64) else (32, kmax)

/-- R195; 0 means all. -/
def shapeOf (tile : BitVec 4) (x : Word) : Shape :=
  let lf := x.getLsbD 52
  let (mr, mc) := tileLimits tile lf
  let r := (x.extractLsb' 42 10).toNat
  let c := (x.extractLsb' 32 10).toNat
  { lf := lf, rows := if r = 0 then mr else r, cols := if c = 0 then mc else c, pitch := sextTo64 32 x }

/-- The memory bytes of a row (R157, R195). -/
def rowBytes (mtype : EType) (cols : Nat) : Nat :=
  if isBx mtype then cols / 16 * bxSize mtype else cols * sizeOf mtype

/-- Base plus offset of a tile transfer. -/
def tmBase (e : Entry) (o : TMOp) : Word := e.xs.headD 0 + o.imm.signExtend 64

/-- The address of row `r`. -/
def rowAddr (e : Entry) (o : TMOp) (r : Nat) : Word :=
  tmBase e o + BitVec.ofNat 64 r * (shapeOf o.tile ((e.xs.drop 1).headD 0)).pitch

/-! ### Order within a thread (R92, R161) -/

/-- What an entry may still access: nothing, everything, or ranges. -/
inductive Pending where
  | none
  | all
  | ranges (l : List (Word × Nat))
  deriving DecidableEq, Repr

/-- The tile transfer of an entry and whether it stores. -/
def tmKey : Instr → Option (Bool × TMOp)
  | .tld o => some (false, o)
  | .tst o => some (true, o)
  | _ => none

/-- The accesses an entry has not performed (R92). -/
def pendingOf (t : Thread) (e : Entry) : Pending :=
  if e.complete then .none
  else
    match memKey e.instr with
    | some (mode, o) =>
      if e.held.isSome then .all
      else
      let open' := (List.range e.vl).filter fun u => !e.isDone u && t.kElem e.post o.k u != some false
      let addrs := open'.map fun u => vmAddr t e mode o u
      if addrs.any (·.isNone) then .all
      else .ranges (addrs.map fun a => (a.getD 0, vmSize o))
    | none =>
      match tmKey e.instr with
      | some (_, o) =>
        let sh := shapeOf o.tile ((e.xs.drop 1).headD 0)
        .ranges (((List.range sh.rows).drop e.prog).map fun r => (rowAddr e o r, rowBytes o.mtype sh.cols))
      | none =>
        match e.instr with
        | .frun _ _ => if e.acc.contains 65 || e.acc.contains 64 then .all else .none
        | .smatch _ _ _ ca cb =>
          .ranges ([ca, cb].map fun c =>
            let u := t.cursors[c.toNat]'c.isLt
            let k := if u.k64 then 8 else 4
            (u.base + BitVec.ofNat 64 (u.pos * k), (u.len - u.pos) * k))
        | _ => .none

/-- The pieces of an unaligned range: one, or two where it crosses a page (R158). -/
def pieces (a : Word) (n : Nat) : List (Word × Nat) :=
  let room := 2 ^ 14 - a.toNat % 2 ^ 14
  if n ≤ room then [(a, n)] else [(a, room), (a + BitVec.ofNat 64 room, n - room)]

/-- Where an address leads for a read or, on a page that cannot be read, for a write. -/
def State.somewhere (s : State) (a : Word) : Option Loc :=
  match s.locate a .read with
  | .ok (l, _) => some l
  | .error _ => match s.locate a .write with
    | .ok (l, _) => some l
    | .error _ => none

/-- Two located ranges share a byte. -/
def sharesByte (x : Option Loc) (n : Nat) (y : Option Loc) (m : Nat) : Bool :=
  match x, y with
  | some (.here p), some (.here q) => decide (p < q + m) && decide (q < p + n)
  | some (.away d p), some (.away d' q) => d == d' && decide (p < q + m) && decide (q < p + n)
  | _, _ => false

/-- Two ranges of virtual addresses may name one byte: they meet, or their pages lead to the same place. -/
def mayMeet (s : State) (a : Word) (n : Nat) (b : Word) (m : Nat) : Bool :=
  let x := a.toNat
  let y := b.toNat
  (x < y + m && y < x + n) ||
  ((x / 2 ^ 14 != y / 2 ^ 14 || (x + n - 1) / 2 ^ 14 != (y + m - 1) / 2 ^ 14) &&
   (pieces a n).any fun p => (pieces b m).any fun q =>
     p.1.toNat / 2 ^ 14 != q.1.toNat / 2 ^ 14 && sharesByte (s.somewhere p.1) p.2 (s.somewhere q.1) q.2)

/-- An access of `n` bytes at `a` must wait for an entry that may access one of its bytes: a load for a store and the reverse
(R92), a load for an earlier load (R212). -/
def meetsPending (s : State) (p : Pending) (a : Word) (n : Nat) : Bool :=
  match p with
  | .none => false
  | .all => true
  | .ranges l => l.any fun (b, m) => mayMeet s a n b m

/-- A non-returning train of the thread that has been accepted and not yet applied may touch one of the bytes (R161, R169). -/
def State.trainMeets (s : State) (before : Option Nat) (a : Word) (n : Nat) : Bool :=
  match s.ctx s.th.ctx with
  | none => false
  | some c => c.out.any fun o => o.tid = s.th.tid && o.st == .awaiting && o.kind == 2 && (match before with
      | some p => decide (o.post < p)
      | none => true) && o.va.any fun b => mayMeet s a n b (if o.req.w64 then 8 else 4)

/-- Where an access to come leads. -/
def DLoad.loc (l : DLoad) : Loc := match l.dev with
  | none => .here l.pa
  | some d => .away d l.pa

/-- Some earlier entry (all of them for a scalar access), or an earlier scalar access to come, has yet to perform an access that
this one must follow. While the window is frozen a scalar access follows only what has started (R276; log entry 14). -/
def mustFollow (s : State) (before : Option Nat) (a : Word) (n : Nat) : Bool :=
  (s.th.window.any fun e =>
    (match before with
     | some p => decide (e.post < p)
     | none => !s.th.frozen || e.sent != []) && meetsPending s (pendingOf s.th e) a n) || s.trainMeets before a n ||
  (before.isSome && s.th.loads.any fun l => (pieces a n).any fun (b, k) => sharesByte (s.somewhere b) k (some l.loc) l.n)

/-! ### Progress words (R155) -/

/-- Leading indices below vl that are done (R155). -/
def leadingDone (t : Thread) (e : Entry) (k : KReg) : Nat :=
  ((List.range e.vl).takeWhile fun i => e.isDone i || t.kElem e.post k i = some false).length

/-- The progress word of a store with `.nt` that is in flight. -/
def Entry.progressAt (e : Entry) : Option Word := match storeKey e.instr with
  | some (_, o) => if o.nt && !e.complete then some ((e.xs.drop 2).headD 0) else none
  | none => none

/-- Another store with `.nt` of the context is in flight with the same progress word (R155). -/
def State.sharesProgress (s : State) (post : Nat) (va : Word) : Bool :=
  s.threads.any fun t => t.ctx = s.th.ctx && t.window.any fun e => (t.tid != s.th.tid || e.post != post) && e.progressAt == some va

/-- A store with `.nt` is posted while another one of the same progress word is in flight: the word is unpredictable for all of
them (R155). -/
def State.shareProgress (s : State) (post : Nat) : State :=
  match (s.th.entry post).bind Entry.progressAt with
  | none => s
  | some va =>
    if s.sharesProgress post va then
      let f := fun (t : Thread) => if t.ctx = s.th.ctx then
          { t with window := t.window.map fun e => if e.progressAt = some va then { e with shared := true } else e }
        else t
      { s with th := f s.th, others := s.others.map f }
    else s

/-- The progress word is written at each completed group of sixteen and at the end; a word that two stores in flight have shared
takes an unpredictable value (R155). -/
def writeProgress (post : Nat) : Act Unit := do
  let s ← get
  match s.th.entry post with
  | none => pure ()
  | some e =>
    match storeKey e.instr with
    | some (_, o) =>
      let n := leadingDone s.th e o.k
      let m := if n = e.vl then n else n / 16 * 16
      if o.nt && decide (e.prog < m) then
        match s.locate ((e.xs.drop 2).headD 0) .write with
        | .ok (.here pa, _) =>
          let v ← if e.shared then freeWord else pure (BitVec.ofNat 64 m)
          storeLast pa (leBytes 8 v.toNat)
          modify fun s => { s with th := s.th.modEntry post fun e => { e with prog := m } }
        | _ => pure ()
      else pure ()
    | none => pure ()

/-- The progress word as elements of an entry come to be done outside its own firing; one in an uncorrectable unit ends the
context (R341). -/
def State.noteProgress (s : State) (post : Nat) : State := match writeProgress post s with
  | .ok (_, s1) => s1
  | .error (.abort (some pa), s1) => s1.meetBad s1.th.ctx pa
  | .error (_, s1) => s1

/-! ### Element faults and trains -/

/-- Units that are done when unit `u` is: itself, or its block below vl. -/
def unitsOf (e : Entry) (o : VMOp) (u : Nat) : List Nat :=
  if isBx o.et then (List.range 16).filterMap fun i => if u / 16 * 16 + i < e.vl then some (u / 16 * 16 + i) else none else [u]

/-- The units that a formed element stands for. -/
def formedUnits (e : Entry) (u : Nat) : List Nat := match storeKey e.instr with
  | some (_, o) => unitsOf e o u
  | none => [u]

/-- A train of formed stores goes to its device (R221): once it is acknowledged its elements are done and raise their flags (R25);
a refusal leaves them not done and is answered with its cause and address. -/
def State.sendStores (s : State) (post : Nat) (dev : BitVec 14) : State × Option (Byte × Word) :=
  match s.th.entry post with
  | none => (s, none)
  | some e =>
    let mine := e.formed.filter fun f => f.dev = dev
    if mine = [] then (s, none)
    else
      let ids := mine.map (·.e)
      let (s1, a, i) := s.remoteWrite dev (mine.map fun f => (f.pa, f.data))
      let upd := fun (g : Entry → Entry) => { s1 with th := s1.th.modEntry post g }
      match a with
      | .silent => (upd fun e => { e with sent := ids.foldl insertIdx e.sent }, none)
      | .bytes _ =>
        let s2 := upd fun e => { e with done := (ids.flatMap (formedUnits e)).foldl insertIdx e.done, formed := e.formed.filter fun f => f.dev ≠ dev,
                                        sent := e.sent.filter fun u => u ∉ ids }
        ({ s2 with th := s2.th.raise ((mine.map (·.flags)).foldl (· ||| ·) 0) 0 }, none)
      | .fault c =>
        (upd fun e => { e with formed := e.formed.filter fun f => f.dev ≠ dev, sent := e.sent.filter fun u => u ∉ ids },
          some (c, ((mine[i]?).map (·.va)).getD 0))

/-- A train of formed `vamo` elements takes a serial and goes to its device (R169, R303). -/
def State.sendAtomics (s : State) (post : Nat) (dev : BitVec 14) : State :=
  match s.th.entry post with
  | none => s
  | some e =>
    match vamoKey e.instr with
    | none => s
    | some (minor, _, o) =>
      let mine := e.formed.filter fun f => f.dev = dev
      let ids := mine.map (·.e)
      if mine = [] then s
      else
        let req := { Request.blank with
          op := BitVec.ofNat 4 minor, ret := o.r, cls := .vamo, w64 := is64 o.et,
          elems := mine.map fun f => { addr := f.pa, data := leWord f.data, dataB := 0, dataC := 0 } }
        let t := s.th
        let out : OutSerial :=
          { serial := 0, dev := dev, req := req, st := .awaiting, kind := if o.r then 1 else 2, tid := t.tid,
            id := t.ident.setWidth 32, pc := e.pc, va := mine.map (·.va), elems := ids, post := post, xd := 0, xreq := 0,
            minor := minor, et := o.et, pay := 0, gen := s.graphOf t }
        match s.takeSerial t.ctx out with
        | none => s.stallSerial t.ctx
        | some (s1, out1) =>
          let f := fun (e : Entry) =>
            let e1 := { e with formed := e.formed.filter fun f => f.dev ≠ dev }
            if o.r then { e1 with sent := ids.foldl insertIdx e1.sent } else { e1 with done := ids.foldl insertIdx e1.done }
          let s2 := { s1 with th := { s1.th.modEntry post f with stall := false } }
          s2.sendSerial t.ctx out1.serial

/-- Send every formed train of an entry. -/
def State.sendTrains (s : State) (post : Nat) : State × Option (Byte × Word) :=
  match s.th.entry post with
  | none => (s, none)
  | some e =>
    let devs := (e.formed.map (·.dev)).eraseDups
    if (vamoKey e.instr).isSome then (devs.foldl (fun s d => s.sendAtomics post d) s, none)
    else
      let (s1, f) := devs.foldl (fun (s, f) d => let (s1, g) := s.sendStores post d; (s1, if f.isSome then f else g)) (s, none)
      (s1.noteProgress post, f)

/-- At a freeze every formed element is sent, as a shorter train (R221). -/
def State.sendAllFormed (s : State) : State :=
  (s.th.window.filter fun e => e.formed != []).foldl (fun s e => (s.sendTrains e.post).1) s

/-- An element, row or step faults (R72, R162, R276): entries that are finished have left the record (R140), the thread takes the
trap, and trains formed go out, whose refusals raise none. -/
def State.elemFault (s : State) (post : Nat) (cause : Byte) (va : Word) : State :=
  let s1 := { s with th := s.th.retire }
  (s1.trapElem cause (s1.th.wentOf post) va).sendAllFormed

/-- A scalar operation that is carried to its reply holds element traps back (R310). -/
def Thread.carrying (t : Thread) : Bool := match t.await with
  | some (.serial _ _) => true
  | _ => false

/-- An element in flight is refused while its window is frozen or its thread switched out: it is not done, and fires again later
(R72). -/
def Thread.dropSent (t : Thread) (post : Nat) (va : Word) : Thread :=
  t.modEntry post fun e => { e with sent := match memKey e.instr with
    | some (mode, o) => e.sent.filter fun u => vmAddr t e mode o u != some va
    | none => [] }

/-- The window starts no work: it is frozen, or its thread is switched out (R276, R285). -/
def Thread.stopped (t : Thread) : Bool := t.frozen || t.run != .running

/-- The element faults, and for DABORT the context ends (R162, R342); or it stays not ready while the trap cannot be taken: a
scalar operation is carried to its reply (R310), the window is frozen (R276), a run on a collective binding holds traps back
(R241), or a check is under way (R338). -/
def faultElem (post : Nat) (cause : Byte) (va : Word) : Act Bool := do
  let s ← get
  if cause = cDABORT then endWith (.abort none)
  else if s.th.stopped then
    set { s with th := s.th.dropSent post va }
    pure false
  else if s.th.carrying || s.collectiveBusy s.th.tid || s.th.unchecked != [] then pure false
  else
    set (s.elemFault post cause va)
    pure true

/-! ### One element's access -/

/-- What the translation of an element gives (R162, R164): ALIGN first, then the walk, then the hall. -/
def elemLoc (s : State) (mode : Nat) (a : Word) (size align : Nat) (acc : Access) : Except Byte (Loc × Option TlbEnt) :=
  if a.toNat % align ≠ 0 then .error cALIGN
  else
    match s.locate a acc with
    | .error c => .error c
    | .ok (l, e) =>
      if mode = 4 then
        match l, s.th.place with
        | .here pa, some (h, _) => if paKind pa = .gallery ∧ pa / 2 ^ 24 % 2 ^ 8 = h ∧ size > 0 then .ok (l, e) else .error cPROT
        | _, _ => .error cPROT
      else .ok (l, e)

/-- Translate every piece of a block. -/
def blockLocs (s : State) (a : Word) (n : Nat) (acc : Access) : Except Byte (List (Loc × Nat)) :=
  (pieces a n).mapM fun (b, k) => (s.locate b acc).map fun (l, _) => (l, k)

/-- Read a located range here or at another device: nothing while there is no response (R301). -/
def readLoc (l : Loc) (n : Nat) : Act (Except Byte (Option (List Byte))) := do
  match l with
  | .here pa => return .ok (some (← loadHere pa n))
  | .away dev pa =>
    let s ← get
    match s.remoteRead dev pa n with
    | .silent => return .ok none
    | .fault c => return .error c
    | .bytes bs => return .ok (some bs)

/-- Read all pieces of a block. -/
def readPieces : List (Loc × Nat) → Act (Except Byte (Option (List Byte)))
  | [] => pure (.ok (some []))
  | (l, n) :: r => do
    match ← readLoc l n with
    | .error c => pure (.error c)
    | .ok none => pure (.ok none)
    | .ok (some a) =>
      match ← readPieces r with
      | .ok (some b) => pure (.ok (some (a ++ b)))
      | x => pure x

/-- Every piece can be written now: no uncorrectable data here, no refusal and an answer there. Nothing is performed (R72, R162). -/
def checkPieces : List (Loc × Nat) → Act (Except Byte Bool)
  | [] => pure (.ok true)
  | (l, n) :: r => do
    let s ← get
    match l with
    | .here pa => if paKind pa ≠ .reg ∧ s.partlyBad pa n then endWith (.abort (some pa)) else checkPieces r
    | .away dev pa =>
      match s.remoteMay dev pa n false true with
      | .silent => pure (.ok false)
      | .fault c => pure (.error c)
      | .bytes _ => checkPieces r

/-- A store that is no single access: its bytes go their ways one by one (R210). -/
def storeTorn (pa : Nat) : List Byte → Act Unit
  | [] => pure ()
  | b :: r => do
    storePlain pa [b]
    storeTorn (pa + 1) r

/-- Write pieces that can all be written; `torn` says that they are no single accesses. -/
def putPieces (torn : Bool) : List (Loc × Nat) → List Byte → Act Unit
  | [], _ => pure ()
  | (l, n) :: r, bs => do
    match l with
    | .here pa => if torn && !(← get).policy.apply then storeTorn pa (bs.take n) else storePlain pa (bs.take n)
    | .away dev pa => modify fun s => (s.remoteWrite dev [(pa, bs.take n)]).1
    putPieces torn r (bs.drop n)

/-- Write all pieces of an element, or none of them. -/
def writePieces (torn : Bool) (ls : List (Loc × Nat)) (bs : List Byte) : Act (Except Byte Bool) := do
  match ← checkPieces ls with
  | .ok true =>
    putPieces torn ls bs
    pure (.ok true)
  | x => pure x

/-- Mark a unit of an entry done. -/
def markUnit (post u : Nat) : Act Unit := modify fun s => { s with th := s.th.modEntry post (·.mark u) }

/-- Remember that an element's request is in flight (R301). -/
def markSent (post u : Nat) : Act Unit :=
  modify fun s => { s with th := s.th.modEntry post fun e => { e with sent := insertIdx e.sent u } }

/-! ### Loads (R159, R163) -/

/-- The locations of a load's or store's unit. -/
def loadLocs (s : State) (mode : Nat) (o : VMOp) (a : Word) (acc : Access) : Except Byte (List (Loc × Nat)) :=
  if isBx o.et then blockLocs s a (bxSize o.et) acc
  else (elemLoc s mode a (sizeOf o.et) (sizeOf o.et) acc).map fun (l, _) => [(l, sizeOf o.et)]

/-- What a first-fault load finds at an element, or at its block (R163). -/
inductive Probe where
  | waits | silent | clear
  | fault (cause : Byte)
  deriving DecidableEq, Repr

/-- The answers of the owners of a unit's pieces. -/
def probeLocs (s : State) : List (Loc × Nat) → Probe
  | [] => .clear
  | (.here _, _) :: r => probeLocs s r
  | (.away dev pa, n) :: r =>
    match s.remoteMay dev pa n true false with
    | .silent => .silent
    | .fault c => if c = cDABORT then probeLocs s r else .fault c
    | .bytes _ => probeLocs s r

def probe (s : State) (e : Entry) (mode : Nat) (o : VMOp) (u : Nat) : Probe :=
  match vmAddr s.th e mode o u with
  | none => .waits
  | some a => match loadLocs s mode o a .read with
    | .error c => if c = cDABORT then .clear else .fault c
    | .ok l => probeLocs s l

/-- The scan for the trim: undecided; undecided until a device answers for a unit; all clear; or the lowest faulting active index,
with whether it is the first active one. -/
inductive TrimScan where
  | waits | clear
  | silent (u : Nat)
  | fault (u : Nat) (first : Bool) (cause : Byte)
  deriving DecidableEq, Repr

def trimScan (s : State) (e : Entry) (mode : Nat) (o : VMOp) : Bool → List Nat → TrimScan
  | _, [] => .clear
  | first, u :: r =>
    match s.th.kElem e.post o.k u with
    | none => .waits
    | some false => trimScan s e mode o first r
    | some true =>
      match probe s e mode o u with
      | .waits => .waits
      | .silent => .silent u
      | .fault c => .fault u first c
      | .clear => trimScan s e mode o false r

/-- An element that a trim makes a tail element takes its old value again, where it had been zeroed (R163). -/
def VSt.unzero (r : VSt) (post u : Nat) : VSt :=
  match r.under u with
  | some x => r.modBy post fun v => { v with data := sset 0 v.data u x }
  | none => r.modBy post fun v => { v with inherit := insertIdx v.inherit u }

/-- vl becomes `j` for the load and every later instruction, and the elements from `j` up become tail elements (R163). -/
def Thread.trim (t : Thread) (e : Entry) (o : VMOp) (j : Nat) (cause : Byte) : Thread :=
  let rest := (List.range (if isBx o.et then (e.vl + 15) / 16 * 16 else e.vl)).drop j
  let t0 := if o.zm then (pairOf o.v (is64 o.et)).foldl (fun t r => t.modV r fun v => rest.foldl (fun v u => v.unzero e.post u) v) t else t
  let t1 := rest.foldl (fun t u => t.keepElem e.post o.v o.et u) t0
  let t2 := t1.modEntry e.post fun e => { e with vl := j, prog := 1, done := e.done.filter (· < j) }
  { t2 with vl := j, fsr := cause.setWidth 25 ||| BitVec.ofNat 25 (j * 256 + 2 ^ 24) }

/-- Decide the trim of a first-fault load, if it can be decided. -/
def decideTrim (post : Nat) : Act Unit := do
  let s ← get
  match s.th.entry post with
  | none => pure ()
  | some e =>
    match loadKey e.instr with
    | some (mode, o) =>
      if o.ff && e.prog = 0 then
        match trimScan s e mode o true (List.range e.vl) with
        | .fault j false c => set { s with th := s.th.trim e o j c }
        | .clear => set { s with th := s.th.modEntry post fun e => { e with prog := 1 } }
        | .silent u => set { s with th := s.th.modEntry post fun e => { e with sent := insertIdx e.sent u } }
        | _ => pure ()
      else pure ()
    | none => pure ()

/-- Write a loaded element, or the sixteen of a block. -/
def Thread.putLoaded (t : Thread) (e : Entry) (o : VMOp) (u : Nat) (bs : List Byte) : Thread :=
  if isBx o.et then
    let b := u / 16 * 16
    let slots := blkSlots (bxM o.et) (blkOfBytes o.et bs)
    let t1 := (slots.zip (List.range 16)).foldl (fun t (v, i) => t.putSlot e.post o.v (b + i) v) t
    t1.modEntry e.post fun x => ((List.range 16).filter fun i => b + i < e.vl).foldl (fun x i => x.mark (b + i)) x
  else (t.putElem e.post o.v o.et u (leNat bs)).modEntry e.post (·.mark u)

/-- What a read that may be cut into parts gives: its bytes, no response yet, a part of them, or a fault. -/
inductive PartRead where
  | bytes (bs : List Byte)
  | silent | more
  | fault (cause : Byte) (part : Nat)
  deriving DecidableEq, Repr

/-- The part at a byte offset, with its number. -/
def partAt : List (Loc × Nat) → Nat → Nat → Option (Loc × Nat × Nat)
  | [], _, _ => none
  | (l, n) :: r, off, i => if off < n then some (l, n, i) else partAt r (off - n) (i + 1)

/-- The next part of a structure that is no single access is read into the entry; `unit` says which unit the bytes belong to
(R210). -/
def readPart1 (post unit : Nat) (parts : List (Loc × Nat)) : Act PartRead := do
  let s ← get
  match s.th.entry post with
  | none => pure .silent
  | some e =>
    let got := if e.acc.head? = some (BitVec.ofNat 64 unit) then e.got else []
    let note := fun (g : List Byte) => modify fun s =>
      { s with th := s.th.modEntry post fun e => { e with got := g, acc := [BitVec.ofNat 64 unit] } }
    match partAt parts got.length 0 with
    | none =>
      note []
      pure (.bytes got)
    | some (l, n, i) =>
      match ← readLoc l n with
      | .error c => pure (.fault c i)
      | .ok none => pure .silent
      | .ok (some bs) =>
        let g := got ++ bs
        if (partAt parts g.length 0).isNone then
          note []
          pure (.bytes g)
        else
          note g
          pure .more

/-- Single bytes of located pieces. -/
def bytewise (ls : List (Loc × Nat)) : List (Loc × Nat) :=
  ls.flatMap fun (l, n) => (List.range n).map fun i => (match l with
    | .here pa => .here (pa + i)
    | .away d pa => .away d (pa + i), 1)

/-- Read a unit: whole, or its next part. -/
def readUnit (post unit : Nat) (torn : Bool) (ls : List (Loc × Nat)) : Act PartRead := do
  if torn && !(← get).policy.whole then readPart1 post unit (bytewise ls)
  else match ← readPieces ls with
    | .error c => pure (.fault c 0)
    | .ok none => pure .silent
    | .ok (some bs) => pure (.bytes bs)

/-- In an instruction of the ordered kind element `u` of each source must be below the progress index (R66). -/
def belowPI (t : Thread) (e : Entry) (k : KReg) (srcs : List (VReg × EType)) (u : Nat) : Bool :=
  t.bitsBelow e.post k (u + 1) && srcs.all fun (r, et) => t.elemsUpTo e.post r et u

/-- The index register of an indexed entry with its type (R157). -/
def indexSrc (mode : Nat) (o : VMOp) : List (VReg × EType) := if 2 ≤ mode then [(o.idx.setWidth 5, if o.iw = 1 then 3 else 2)] else []

/-- An element of a load (R159): nothing is done while it is not ready. -/
def fireLoad (post u : Nat) : Act Bool := do
  decideTrim post
  let s ← get
  match s.th.entry post with
  | none => pure false
  | some e =>
    match loadKey e.instr with
    | none => pure false
    | some (mode, o) =>
      if e.vl ≤ u || e.isDone u then pure false
      else
      match s.th.kElem post o.k u with
      | none => pure false
      | some false =>
        set { s with th := (if o.zm then s.th.putElem post o.v o.et u 0 else s.th.keepElem post o.v o.et u).modEntry post (·.mark u) }
        pure true
      | some true =>
        match vmAddr s.th e mode o u with
        | none => pure false
        | some a =>
          if s.th.heldAt e (if isBx o.et then blockOf u else [u]) ||
              (mode = 3 && !(lowerFired s.th e o.k u && belowPI s.th e o.k (indexSrc mode o) u)) ||
              mustFollow s (some post) a (vmSize o) then pure false
          else
            let ready := !o.ff || e.prog = 1 || (match trimScan s e mode o true ((List.range e.vl).take (u + 1)) with
              | .clear => true
              | .fault j first _ => first && j == u
              | _ => false)
            if !ready then pure false
            else
              match loadLocs s mode o a .read with
              | .error c => faultElem post c a
              | .ok locs =>
                match ← readUnit post u (isBx o.et) locs with
                | .fault c _ => faultElem post c a
                | .silent =>
                  markSent post u
                  pure false
                | .more => pure true
                | .bytes bs =>
                  modify fun s => { s with th := (s.th.putLoaded e o u bs).modEntry post fun x =>
                    { x with sent := x.sent.filter (· ≠ u) } }
                  pure true

/-! ### Stores (R160, R165) -/

/-- The bytes a store's unit writes: the element, or its block, quantised or as it stands (R158), with its flags. A block stored
as it stands waits for its elements at and beyond vl too (DESIGN CHOICE, log entry 82). -/
def storeData (t : Thread) (e : Entry) (o : VMOp) (u : Nat) : Option (List Byte × FFlags) :=
  if isBx o.et then
    let tag := t.tagBy e.post o.v
    let b := u / 16 * 16
    if tag = o.et then
      let xs := (List.range 16).map fun i => t.vSlot e.post o.v (b + i)
      if xs.all (·.isSome) then some (blkBytes o.et (blkOfSlots (bxM o.et) (xs.map fun x => x.getD 0)), 0) else none
    else
      let xs := (List.range 16).map fun i =>
        if b + i < e.vl then (t.vElem e.post o.v tag (b + i)).map (valueOf tag false) else some (FVal.fin false 0 0)
      if xs.any (·.isNone) then none
      else
        let (q, fl) := quantise (bxM o.et) (xs.map fun x => x.getD (.fin false 0 0))
        some (blkBytes o.et q, fl)
  else (t.vElem e.post o.v o.et u).map fun v => (leBytes (sizeOf o.et) v, 0)

/-- The element is formed, alone or with its block. -/
def Entry.isFormed (e : Entry) (u : Nat) : Bool := e.formed.any fun f => (formedUnits e f.e).contains u

/-- Every lower element has fired, is inactive, or is formed. -/
def lowerStarted (t : Thread) (e : Entry) (k : KReg) (u : Nat) : Bool :=
  (List.range u).all fun i => e.isDone i || t.kElem e.post k i = some false || e.isFormed i

/-- A lower element of a unit or strided store that has not started may write one of the element's bytes (R160): it goes first. -/
def lowerMeets (s : State) (e : Entry) (mode : Nat) (o : VMOp) (u : Nat) (a : Word) : Bool :=
  mode ≤ 1 && (List.range u).any fun i =>
    !(e.isDone i || e.isFormed i) && !(unitsOf e o u).contains i && s.th.kElem e.post o.k i != some false &&
    (match vmAddr s.th e mode o i with
     | some b => mayMeet s a (vmSize o) b (vmSize o)
     | none => true)

/-- Every element of the entry is done, inactive, or formed. -/
def allFormed (t : Thread) (e : Entry) (k : KReg) : Bool := lowerStarted t e k e.vl

/-- Send the trains of an entry once every active element is formed (R221); a refusal faults. -/
def trySend (post : Nat) (k : KReg) : Act Unit := do
  let s ← get
  match s.th.entry post with
  | none => pure ()
  | some e =>
    if e.formed != [] && allFormed s.th e k then
      let (s1, f) := s.sendTrains post
      set s1
      match f with
      | some (c, a) => discard (faultElem post c a)
      | none => pure ()
    else pure ()

/-- The pieces of a store's unit all lie on one other device: what is formed of them (R221). -/
def formedPieces (u : Nat) (a : Word) (fl : FFlags) (bs : List Byte) : List (Loc × Nat) → Option (List Formed)
  | [(.away dev pa, _)] => some [{ e := u, dev := dev, pa := pa, va := a, data := bs, flags := fl }]
  | [(.away dev pa, n), (.away dev' pa', _)] =>
    if dev = dev' then some [{ e := u, dev := dev, pa := pa, va := a, data := bs.take n, flags := fl },
      { e := u, dev := dev, pa := pa', va := a + BitVec.ofNat 64 n, data := bs.drop n, flags := 0 }]
    else none
  | _ => none

/-- An element of a store (R160): formed for another device, or written. A block with pieces on two devices is written piece by
piece (log entry 82). -/
def fireStore (post u : Nat) : Act Bool := do
  let s ← get
  match s.th.entry post with
  | none => pure false
  | some e =>
    match storeKey e.instr with
    | none => pure false
    | some (mode, o) =>
      if e.vl ≤ u || e.isDone u || e.isFormed u then pure false
      else
      match s.th.kElem post o.k u with
      | none => pure false
      | some false =>
        if o.nt && !belowPI s.th e o.k [] u then pure false
        else
          markUnit post u
          writeProgress post
          trySend post o.k
          pure true
      | some true =>
        match vmAddr s.th e mode o u, storeData s.th e o u with
        | some a, some (bs, fl) =>
          let data : VReg × EType := (o.v, if isBx o.et then s.th.tagBy post o.v else o.et)
          let last := if isBx o.et then min (u / 16 * 16 + 15) (e.vl - 1) else u
          let ready := if mode = 3 || o.nt then lowerStarted s.th e o.k u && belowPI s.th e o.k (data :: indexSrc mode o) last
            else !lowerMeets s e mode o u a
          if s.th.awaitsCheck 64 e (if isBx o.et then none else some u) || !ready || mustFollow s (some post) a (vmSize o) then pure false
          else
            match loadLocs s mode o a .write with
            | .error c => faultElem post c a
            | .ok locs =>
            match formedPieces u a fl bs locs with
            | some l =>
              modify fun s => { s with th := s.th.modEntry post fun e => { e with formed := e.formed ++ l } }
              trySend post o.k
              pure true
            | none =>
              match ← writePieces (isBx o.et) locs bs with
              | .error c => faultElem post c a
              | .ok false =>
                markSent post u
                pure false
              | .ok true =>
                modify fun s =>
                  let t := (unitsOf e o u).foldl (fun t u => t.modEntry post (·.mark u)) s.th
                  { s with th := (t.modEntry post fun e => { e with sent := e.sent.filter (· ≠ u) }).raise fl 0 }
                writeProgress post
                trySend post o.k
                pure true
        | _, _ => pure false

/-! ### `vamo` (R168, R169) -/

/-- In mode 3 a run of consecutive elements for one device ends at element `u`: the next active element is known to lie elsewhere,
or there is none. -/
def runEnds (s : State) (e : Entry) (o : VMOp) (dev : BitVec 14) : List Nat → Bool
  | [] => true
  | u :: r =>
    match s.th.kElem e.post o.k u with
    | none => false
    | some false => runEnds s e o dev r
    | some true =>
      match vmAddr s.th e 3 o u with
      | none => false
      | some a => match elemLoc s 3 a (sizeOf o.et) (sizeOf o.et) .both with
        | .ok (.away d _, _) => d != dev
        | _ => true

/-- The trains of earlier elements of a mode-3 `vamo` have been applied (R169). -/
def earlierApplied (s : State) (post : Nat) : Bool :=
  match s.ctx s.th.ctx with
  | none => true
  | some c => c.out.all fun o => o.st = .resolved || !(o.tid = s.th.tid && o.post = post && o.kind != 0)

/-- Send what is formed when the mode allows it. -/
def trySendAtomics (post : Nat) (mode : Nat) (o : VMOp) : Act Unit := do
  let s ← get
  match s.th.entry post with
  | none => pure ()
  | some e =>
    if e.formed = [] then pure ()
    else if mode = 3 then
      let lastE := (e.formed.getLast?.map (·.e)).getD 0
      let dev := (e.formed.head?.map (·.dev)).getD 0
      if runEnds s e o dev ((List.range e.vl).drop (lastE + 1)) && earlierApplied s post then set (s.sendTrains post).1 else pure ()
    else if allFormed s.th e o.k then set (s.sendTrains post).1
    else pure ()

/-- An element of a `vamo` (R168). -/
def fireVamo (post u : Nat) : Act Bool := do
  let s ← get
  match s.th.entry post with
  | none => pure false
  | some e =>
    match vamoKey e.instr with
    | none => pure false
    | some (minor, mode, o) =>
      if e.vl ≤ u || e.isDone u || e.sent.contains u then pure false
      else if e.formed.any (fun f => f.e = u) then
        trySendAtomics post mode o
        pure (decide ((← get).th ≠ s.th))
      else
      match s.th.kElem post o.k u with
      | none => pure false
      | some false =>
        if o.r then
          set { s with th := (if o.zm then s.th.putElem post o.v o.et u 0 else s.th.keepElem post o.v o.et u).modEntry post (·.mark u) }
        else markUnit post u
        trySendAtomics post mode o
        pure true
      | some true =>
        let src : VReg := if o.r then o.aux.setWidth 5 else o.v
        match vmAddr s.th e mode o u, s.th.vElem post src o.et u with
        | some a, some b =>
          let run := fun (dev : Option (BitVec 14)) => (List.range u).all fun i =>
            e.isDone i || s.th.kElem post o.k i = some false || e.formed.any fun f => f.e = i && some f.dev == dev
          if s.th.awaitsCheck 64 e (some u) || (o.r && s.th.held? e u) ||
              (mode = 3 && !belowPI s.th e o.k ((src, o.et) :: indexSrc mode o) u) ||
              mustFollow s (some post) a (sizeOf o.et) then pure false
          else
            match elemLoc s mode a (sizeOf o.et) (sizeOf o.et) .both with
            | .error c => if mode = 3 && !run none then pure false else faultElem post c a
            | .ok (.here pa, _) =>
              if mode = 3 && !(run none && earlierApplied s post) then pure false
              else
                let old ← amoHere pa (sizeOf o.et) fun old => some (vamoNew minor (widthOf o.et) old b)
                modify fun s => { s with th := (if o.r then s.th.putElem post o.v o.et u old else s.th).modEntry post (·.mark u) }
                trySendAtomics post mode o
                pure true
            | .ok (.away dev pa, _) =>
              if mode = 3 && !(run (some dev) && (e.formed != [] || earlierApplied s post)) then pure false
              else
                modify fun s => { s with th := s.th.modEntry post fun e =>
                  { e with formed := e.formed ++ [{ e := u, dev := dev, pa := pa, va := a, data := leBytes (sizeOf o.et) b, flags := 0 }] } }
                trySendAtomics post mode o
                pure true
        | _, _ => pure false

/-! ### Posting -/

/-- Snapshots of a format VM entry in field order (R282): base, stride, progress-word address. -/
def vmSnap (t : Thread) (mode : Nat) (o : VMOp) : List Word :=
  [t.getX o.base, if mode = 1 then t.getX o.idx else 0, if o.nt then t.getX o.aux else 0]

/-- The tag an index register must carry (R157). -/
def indexTags (mode : Nat) (o : VMOp) : List (VReg × TagReq × Bool) :=
  if 2 ≤ mode then [(o.idx.setWidth 5, .exact (if o.iw = 1 then 3 else 2), o.iw = 1)] else []

/-- The tag a stored register must carry (R70, R158). -/
def storeTags (t : Thread) (o : VMOp) : List (VReg × TagReq × Bool) :=
  if isBx o.et then (if t.tagOf o.v = o.et then [] else [(o.v, .quantisable, false)]) else [(o.v, .exact o.et, is64 o.et)]

/-- The progress word is checked at post (R155). -/
def checkProgress (o : VMOp) : Act Unit := do
  if o.nt then
    let a := (← get).getX o.aux
    needAlign a 8
    match ← xlate a .write with
    | .here _ => pure ()
    | .away _ _ => trapWith cPROT a
  else pure ()

/-- The common part of a post: checks and room (R166). A `vst.bx` that quantises an odd register under a 64-bit tag raises ILL, as a
conversion does (R109). -/
def checkPostVM (o : VMOp) (quantises : Bool) (tags : Thread → List (VReg × TagReq × Bool)) : Act Unit := do
  preCheck
  if isBx o.et then needFeature 2 else pure ()
  needPartition
  let t := (← get).th
  if quantises && o.v.getLsbD 0 && isBx o.et && is64 (t.tagOf o.v) then illegal else pure ()
  needTags (tags t)
  checkProgress o
  needRoom

/-- Post a vector load (R159). -/
def postLoad (i : Instr) (mode : Nat) (o : VMOp) : Act Unit := do
  checkPostVM o false fun _ => indexTags mode o
  modify fun s =>
    let t := s.th
    { s with th := (t.postEntry (t.newEntry i (vmSnap t mode o)) ((pairOf o.v (is64 o.et)).map fun r => (r, o.et))).advance }

/-- Post a vector store (R160), whose `zm` bit means nothing (DESIGN CHOICE, log entry 82): its inactive elements are done; where
a progress word counts them they take their turn (R155). -/
def postStore (i : Instr) (mode : Nat) (o : VMOp) : Act Unit := do
  checkPostVM o true fun t => indexTags mode o ++ storeTags t o
  modify fun s =>
    let t := s.th
    State.shareProgress { s with th := (t.postEntry (t.newEntry i (vmSnap t mode o)) []).advance } (t.posts + 1)

/-- Post a `vamo` (R167, R168); without a result its `zm` bit means nothing (DESIGN CHOICE, log entry 82). -/
def postVamo (i : Instr) (mode : Nat) (o : VMOp) : Act Unit := do
  let src : VReg := if o.r then o.aux.setWidth 5 else o.v
  checkPostVM o false fun _ => indexTags mode o ++ [(src, .exact o.et, is64 o.et)]
  modify fun s =>
    let t := s.th
    { s with th := (t.postEntry (t.newEntry i (vmSnap t mode o))
        (if o.r then (pairOf o.v (is64 o.et)).map fun r => (r, o.et) else [])).advance }

end Sys2Proof.Machine
end

