-- ==== Sys2Proof/Machine/Tile.lean ====
section
/-! DEFINITION. The Ox unit (spec/10): tile registers, the queue of a tile, posting and the steps and rows of tile instructions. -/

namespace Sys2Proof.Machine

/-! ### Tile registers (R185, R186) -/

/-- The zero code of a tag. -/
def zeroCode (tag : EType) : BitVec 16 := BitVec.ofNat 16 (LFmt.of tag).zero

/-- Kmax of a tag. -/
def kmaxOf (tag : EType) : Nat := if tag = 9 then 256 else 512

/-- The tag `lf` names. -/
def lfTag (lf : Bool) : EType := if lf then 9 else 8

def CodeTile.get (c : CodeTile) (key : Nat) : Nat := (sget (zeroCode c.tag) c.data key).toNat

def CodeTile.put (c : CodeTile) (key v : Nat) : CodeTile :=
  { c with data := sset (zeroCode c.tag) c.data key (BitVec.ofNat 16 v) }

def ZTile.get (z : ZTile) (i j : Nat) : Nat := (sget 0 z.data (64 * i + j)).toNat

def ZTile.put (z : ZTile) (i j v : Nat) : ZTile := { z with data := sset 0 z.data (64 * i + j) (BitVec.ofNat 32 v) }

/-- Every element +0.0. -/
def ZTile.cleared (z : ZTile) : ZTile := { z with data := [] }

/-- The marks after a write (R202). -/
def ZTile.written (z : ZTile) (whole sl : Bool) : ZTile :=
  { z with short := sl || (z.short && !whole), dropped := z.dropped && !whole }

def Tile.zAt (x : Tile) (n : Nat) : ZTile := if h : n < 8 then x.z[n] else ZTile.zero
def Tile.setZ (x : Tile) (n : Nat) (v : ZTile) : Tile := if h : n < 8 then { x with z := x.z.set n v h } else x
def Tile.wAt (x : Tile) (n : Nat) : CodeTile := if h : n < 4 then x.w[n] else CodeTile.zero
def Tile.setW (x : Tile) (n : Nat) (v : CodeTile) : Tile := if h : n < 4 then { x with w := x.w.set n v h } else x
def Tile.qAt (x : Tile) (n : Nat) : CodeTile := if h : n < 2 then x.q[n] else CodeTile.zero
def Tile.setQ (x : Tile) (n : Nat) (v : CodeTile) : Tile := if h : n < 2 then { x with q := x.q.set n v h } else x

/-- A tile register by its TM code (R56): z0–z7, w0–w3, q0–q1. -/
inductive TReg where
  | z (n : Nat)
  | w (n : Nat)
  | q (n : Nat)
  deriving DecidableEq, Repr

def tileReg (c : BitVec 4) : TReg := if c.ult 8 then .z c.toNat else if c.ult 12 then .w (c.toNat - 8) else .q (c.toNat - 12)

/-- Tile registers an instruction reads and writes (R187). -/
def tileUse (i : Instr) : List TReg × List TReg :=
  match i with
  | .tmma o | .tmms o => ([.z o.z.toNat, .w o.w.toNat, .q (if o.q then 1 else 0)], [.z o.z.toNat])
  | .vopa o => ([.z o.vd.toNat], [.z o.vd.toNat])
  | .tld o => ([], [tileReg o.tile])
  | .tst o => ([tileReg o.tile], [])
  | .tzero z => ([], [.z z.toNat])
  | .tmovr _ z _ => ([.z z.toNat], [])
  | .tmvr z _ _ => ([], [.z z.toNat])
  | _ => ([], [])

def isTileInstr (i : Instr) : Bool := tileUse i != ([], [])

/-- The earlier instruction must finish first (R187). -/
def tileConflict (earlier later : Instr) : Bool :=
  let (r1, w1) := tileUse earlier
  let (r2, w2) := tileUse later
  (w1.any fun x => r2.contains x || w2.contains x) || (r1.any fun x => w2.contains x)

/-- The z tile an instruction reads, which must not be dropped (R202): under `.zi` from its second step on. -/
def zRead (i : Instr) (prog : Nat) : Option Nat :=
  match i with
  | .tmma o | .tmms o => if o.zi && prog == 0 then none else some o.z.toNat
  | .vopa o => some o.vd.toNat
  | .tst o => some o.tile.toNat
  | .tmovr _ z _ => some z.toNat
  | .tmvr z _ _ => some z.toNat
  | _ => none

/-- The tile of the current thread. -/
def State.myTile (s : State) : Tile := match s.th.place with
  | some (h, i) => s.tile h i
  | none => Tile.fresh

def State.modMyTile (s : State) (f : Tile → Tile) : State := match s.th.place with
  | some (h, i) => s.setTile h i (f (s.tile h i))
  | none => s

/-! ### Posting -/

/-- PROT for a z tile the thread does not hold (R186). -/
def needHeldZ (n : Nat) : Act Unit := do
  let s ← get
  if (s.myTile.zAt n).holder = some s.th.tid then pure () else trapWith cPROT s.th.pc

/-- The entry stands in the window and in the tile's queue (R187). -/
def postTile (i : Instr) (xs : List Word) (tags : List (VReg × EType)) (onTile : Tile → Tile) : Act Unit := do
  needRoom
  modify fun s =>
    let e := s.th.newEntry i xs
    let s1 := s.modMyTile fun x => { onTile x with ox := (onTile x).ox ++ [{ tid := s.th.tid, post := e.post }] }
    { s1 with th := s1.th.postEntry e tags }

/-- Tags of q and w as the latest posted instruction gives them (R71). -/
def needLf (o : MXOp) : Act Unit := do
  let s ← get
  let x := s.myTile
  let tag := lfTag o.lf
  if (x.qAt (if o.q then 1 else 0)).ptag = tag ∧ (x.wAt o.w.toNat).ptag = tag then pure () else trapWith cFMT s.th.pc

/-- The depth range of xdep (R188): nothing where its value is refused. -/
def depthOf (o : MXOp) (x : Word) : Option (Nat × Nat) :=
  let kmax := kmaxOf (lfTag o.lf)
  if o.xdep = 0 then some (0, kmax)
  else
    let k0 := (x.extractLsb' 0 10).toNat
    let kc := (x.extractLsb' 16 10).toNat
    if x.extractLsb' 10 6 ≠ 0 ∨ x.extractLsb' 26 38 ≠ 0 ∨ k0 + kc > kmax then none else some (k0, kc)

/-- Post `tmma` or `tmms` (R192). -/
def postMX (i : Instr) (o : MXOp) : Act Unit := do
  preCheck
  let s ← get
  if (depthOf o (s.getX o.xdep)).isNone then illegal else pure ()
  needPartition
  needHeldZ o.z.toNat
  needLf o
  postTile i [s.getX o.xrow, s.getX o.xcol, s.getX o.xdep] [] id

/-- Post `vopa` (R193). -/
def postVopa (i : Instr) (o : VOp) : Act Unit := do
  preCheck
  needPartition
  needHeldZ o.vd.toNat
  needTags (vSources 0x64 0 o)
  postTile i [] [] id

/-- The value of a row register must be 0–31 (R194). -/
def needRow (r : XReg) : Act Unit := do if ((← get).getX r).toNat < 32 then pure () else illegal

/-- Post `tzero` (R194). -/
def postTzero (i : Instr) (z : BitVec 3) : Act Unit := do
  preCheck
  needPartition
  needHeldZ z.toNat
  postTile i [0, 0, 0] [] id

/-- Post `tmovr`: elements 0–63 of vd become absent under the tag f32 (R194). -/
def postTmovr (i : Instr) (vd : VReg) (z : BitVec 3) (r : XReg) : Act Unit := do
  preCheck
  needRow r
  needPartition
  needHeldZ z.toNat
  let s ← get
  postTile i [s.getX r, 0, 0] [(vd, 6)] id

/-- Post `tmvr` (R194). -/
def postTmvr (i : Instr) (z : BitVec 3) (vs : VReg) (r : XReg) : Act Unit := do
  preCheck
  needRow r
  needPartition
  needHeldZ z.toNat
  needTags [(vs, .exact 6, false)]
  let s ← get
  postTile i [s.getX r, 0, 0] [] id

/-- The value checks of a shape register (R195). -/
def shapeOk (o : TMOp) (x : Word) : Bool :=
  let sh := shapeOf o.tile x
  let (mr, mc) := tileLimits o.tile sh.lf
  x.extractLsb' 53 11 == 0 && !(o.tile.ult 8 && sh.lf) && decide (sh.rows ≤ mr) && decide (sh.cols ≤ mc) &&
  (!isBx o.mtype || sh.cols % 16 == 0)

/-- Bit `i` of a mask register field: x0 selects everything (R188, R197). -/
def maskBit (r : XReg) (x : Word) (i : Nat) : Bool := r == 0 || x.getLsbD i

/-- Under bx8 each group of 16 columns below `cols` is wholly selected or wholly unselected (R197). -/
def groupsWhole (o : TMOp) (cols : Nat) (mask : Word) : Bool :=
  (List.range (cols / 16)).all fun g =>
    let b := (List.range 16).map fun i => maskBit o.xcols mask (16 * g + i)
    b.all id || b.all (!·)

def tmSnap (t : Thread) (o : TMOp) : List Word := [t.getX o.base, t.getX o.stride, t.getX o.xrows, t.getX o.xcols]

/-- Post `tld` (R196, R199): the tag of a q or w destination is set now. -/
def postTld (i : Instr) (o : TMOp) : Act Unit := do
  preCheck
  if isBx o.mtype then needFeature 2 else pure ()
  let s ← get
  if !shapeOk o (s.getX o.stride) then illegal else pure ()
  needPartition
  let tag := lfTag (shapeOf o.tile (s.getX o.stride)).lf
  match tileReg o.tile with
  | .z n =>
    needHeldZ n
    postTile i (tmSnap s.th o) [] id
  | .w n => postTile i (tmSnap s.th o) [] fun x => x.setW n { x.wAt n with ptag := tag }
  | .q n => postTile i (tmSnap s.th o) [] fun x => x.setQ n { x.qAt n with ptag := tag }

/-- Post `tst` (R197, R199). -/
def postTst (i : Instr) (o : TMOp) : Act Unit := do
  preCheck
  if isBx o.mtype then needFeature 2 else pure ()
  let s ← get
  if !shapeOk o (s.getX o.stride) then illegal else pure ()
  if o.mtype = 12 ∧ !groupsWhole o (shapeOf o.tile (s.getX o.stride)).cols (s.getX o.xcols) then illegal else pure ()
  needPartition
  needHeldZ o.tile.toNat
  postTile i (tmSnap s.th o) [] id

/-! ### Steps -/

/-- The entry of a tile instruction is finished: it leaves the queue (R187). -/
def finishTile (post : Nat) : Act Unit := modify fun s =>
  let s1 := s.modMyTile fun x => { x with ox := x.ox.filter fun q => !(q.tid = s.th.tid && q.post = post) }
  { s1 with th := s1.th.modEntry post fun e => { e.mark 0 with prog := 0 } }

/-- Progress of a tile instruction. -/
def setProg (post n : Nat) : Act Unit := modify fun s => { s with th := s.th.modEntry post fun e => { e with prog := n } }

/-- One product of a rank-one step added to an element (R30, R41, R188). -/
def addProduct (l : LFmt) (sub : Bool) (z a b : Nat) : Nat :=
  let p := lProd l a b
  let p := if sub && !p.isZero && !p.isNan then p.neg else p
  (fAddV .f32 0 (unpack .f32 z) p).1

/-- A rank-one step over enabled rows and columns. -/
def rankOne (l : LFmt) (sub : Bool) (rows cols : List Nat) (a b : Nat → Nat) (z : ZTile) : ZTile :=
  rows.foldl (fun z i => cols.foldl (fun z j => z.put i j (addProduct l sub (z.get i j) (a i) (b j))) z) z

/-- A step of `tmma` or `tmms` (R188–R190). Where `rprod` runs with M = 0 or N = 0, R205 says that it stores a tile of zeros,
while its masks are all ones and R188 and R41 give the products; the products stand (DESIGN CHOICE, log entry 71). -/
def stepMX (e : Entry) (o : MXOp) (slide : Bool) : Act Bool := do
  let x := (← get).myTile
  match depthOf o ((e.xs.drop 2).headD 0) with
  | none => pure false
  | some (k0, kc) =>
    let tag := lfTag o.lf
    let z0 := x.zAt o.z.toNat
    let z1 := if o.zi && e.prog = 0 then z0.cleared.written true false else z0
    let k := k0 + e.prog
    let q := x.qAt (if o.q then 1 else 0)
    let w := x.wAt o.w.toNat
    let km := kmaxOf tag
    let rows := (List.range 32).filter (maskBit o.xrow (e.xs.headD 0))
    let cols := (List.range 64).filter (maskBit o.xcol ((e.xs.drop 1).headD 0))
    let a := fun i => q.get (if slide then i + k else i * km + k)
    let z2 := if e.prog < kc then rankOne (LFmt.of tag) o.sub rows cols a (fun j => w.get (k * 64 + j)) z1 else z1
    let z3 := if e.prog < kc ∨ o.zi then z2.written false o.sl else z2
    modify fun s => s.modMyTile fun x => x.setZ o.z.toNat z3
    if e.prog + 1 < kc then setProg e.post (e.prog + 1) else finishTile e.post
    pure true

/-- The one step of `vopa` (R193). -/
def stepVopa (e : Entry) (o : VOp) : Act Bool := do
  let s ← get
  let b := match o.src2 with
    | .v r => r
    | _ => 0
  let rows := List.range (min 32 e.vl)
  let colsAll := List.range (min 64 e.vl)
  let bits := colsAll.map fun j => s.th.kElem e.post o.k j
  if bits.any (·.isNone) then pure false
  else
    let cols := colsAll.filter fun j => s.th.kElem e.post o.k j = some true
    if rows.any (fun i => (s.th.vElem e.post o.vs1 o.et i).isNone) || cols.any (fun j => (s.th.vElem e.post b o.et j).isNone) then
      pure false
    else
      let va := fun i => (s.th.vElem e.post o.vs1 o.et i).getD 0
      let vb := fun j => (s.th.vElem e.post b o.et j).getD 0
      if e.vl = 0 then pure ()
      else set (s.modMyTile fun x =>
        let z := rankOne (LFmt.of o.et) (o.opt.getLsbD 0) rows cols va vb (x.zAt o.vd.toNat)
        x.setZ o.vd.toNat (z.written false (o.opt.getLsbD 1)))
      finishTile e.post
      pure true

/-- The one step of `tzero`, `tmovr` or `tmvr` (R194). -/
def stepRow (e : Entry) (i : Instr) : Act Bool := do
  let s ← get
  let r := (e.xs.headD 0).toNat
  match i with
  | .tzero z =>
    set (s.modMyTile fun x => x.setZ z.toNat ((x.zAt z.toNat).cleared.written true false))
    finishTile e.post
    pure true
  | .tmovr vd z _ =>
    if s.th.heldAt e (List.range 64) then pure false
    else
      let zt := s.myTile.zAt z.toNat
      set { s with th := (List.range 64).foldl (fun t j => t.putElem e.post vd 6 j (zt.get r j)) s.th }
      finishTile e.post
      pure true
  | .tmvr z vs _ =>
    let v := (List.range 64).map fun j => s.th.vElem e.post vs 6 j
    if v.any (·.isNone) then pure false
    else
      set (s.modMyTile fun x =>
        let zt := (v.zip (List.range 64)).foldl (fun zt (a, j) => zt.put r j (a.getD 0)) (x.zAt z.toNat)
        x.setZ z.toNat (zt.written false false))
      finishTile e.post
      pure true
  | _ => pure false

/-! ### Rows of transfers (R195–R198) -/

/-- The pieces of a row: an offset and a size for each element, or for each block. -/
def rowParts (mtype : EType) (cols : Nat) : List (Nat × Nat) :=
  if isBx mtype then (List.range (cols / 16)).map fun b => (b * bxSize mtype, bxSize mtype)
  else (List.range cols).map fun c => (c * sizeOf mtype, sizeOf mtype)

/-- The first part of a row that faults (R198), with its cause and address. -/
def rowFault (s : State) (bx : Bool) (acc : Access) (base : Word) : List (Nat × Nat) → Option (Byte × Word)
  | [] => none
  | (off, n) :: r =>
    let a := base + BitVec.ofNat 64 off
    let here : Option Byte := if bx then (match blockLocs s a n acc with
        | .error c => some c
        | .ok _ => none)
      else match elemLoc s 0 a n n acc with
        | .error c => some c
        | .ok _ => none
    match here with
    | some c => some (c, a)
    | none => rowFault s bx acc base r

/-- Where the parts of a row lie. -/
def partLocs (s : State) (bx : Bool) (acc : Access) (a : Word) (n : Nat) : List (Loc × Nat) :=
  if bx then (match blockLocs s a n acc with
    | .ok l => l
    | .error _ => [])
  else match s.locate a acc with
    | .ok (l, _) => [(l, n)]
    | .error _ => []

/-- Where the bytes of a row lie: an element is one access, a block one for each byte (R210). -/
def rowLocs (s : State) (mtype : EType) (acc : Access) (base : Word) (parts : List (Nat × Nat)) : List (Loc × Nat) :=
  let l := parts.flatMap fun (off, n) => partLocs s (isBx mtype) acc (base + BitVec.ofNat 64 off) n
  if isBx mtype then bytewise l else l

/-- The address of the element or block that access `k` of a row belongs to. -/
def rowPart (mtype : EType) (base : Word) (k : Nat) : Word :=
  base + BitVec.ofNat 64 (if isBx mtype then k / bxSize mtype * bxSize mtype else k * sizeOf mtype)

/-- Read accesses one after another: the bytes, no response, or a fault with the number of its access. -/
def readAll (k : Nat) : List (Loc × Nat) → Act PartRead
  | [] => pure (.bytes [])
  | (l, n) :: r => do
    match ← readLoc l n with
    | .error c => pure (.fault c k)
    | .ok none => pure .silent
    | .ok (some bs) =>
      match ← readAll (k + 1) r with
      | .bytes more => pure (.bytes (bs ++ more))
      | x => pure x

/-- Read row `r`: at once, or its next access (R210). -/
def readRow (post r : Nat) (ls : List (Loc × Nat)) : Act PartRead := do
  if (← get).policy.whole then readAll 0 ls else readPart1 post r ls

/-- The bytes of a row cut into its parts. -/
def cutRow (bs : List Byte) (parts : List (Nat × Nat)) : List (List Byte) := parts.map fun (off, n) => (bs.drop off).take n

/-- A loaded element converted for its destination (R196): a log code, or an f32 pattern for z. -/
def tldConvert (toZ : Bool) (tag mtype : EType) (v : Nat) : ElemRes :=
  if toZ then (if mtype = 6 then { val := v } else cvtRes mtype 6 false false false 0 v) else cvtRes mtype tag false false false 0 v

/-- The elements of a row after conversion, in column order, with the flags raised. -/
def rowElems (toZ : Bool) (tag mtype : EType) (parts : List (List Byte)) : List Nat × FFlags × LFlags :=
  let rs : List ElemRes :=
    if isBx mtype then
      parts.flatMap fun bs =>
        let b := blkOfBytes mtype bs
        (b.el.zip (List.range 16)).map fun ((sg, m), i) =>
          cvtBxRes (if toZ then 6 else tag) false false 0 (blkVal (bxM mtype) b.E b.qs i sg m)
    else parts.map fun bs => tldConvert toZ tag mtype (leNat bs)
  (rs.map (·.val), rs.foldl (fun f r => f ||| r.ff) 0, rs.foldl (fun f r => f ||| r.lf) 0)

/-- Write a loaded row into its tile register; the first row settles the tag (R196). Of a `tld.ff` trimmed later, R198 says that
the rows from r upward keep their contents, R196 that elements outside the moved rows become the zero code where the tag changed:
they become zero (DESIGN CHOICE, log entry 71). A dropped tile is cleared (R202); what rows loaded before the drop then hold is
open: `lost`. -/
def putRow (o : TMOp) (sh : Shape) (r : Nat) (vals : List Nat) (lost : Nat → Nat) (x : Tile) : Tile :=
  let keyed := vals.zip (List.range vals.length)
  let code := fun (c : CodeTile) (width : Nat) =>
    let tag := lfTag sh.lf
    let c1 := if r = 0 && c.tag != tag then { c with tag := tag, data := [] } else c
    keyed.foldl (fun c (v, j) => c.put (r * width + j) v) c1
  match tileReg o.tile with
  | .z n =>
    let z := x.zAt n
    let whole := sh.rows = 32 && sh.cols = 64
    let before := (List.range r).flatMap fun i => (List.range sh.cols).map fun j => (i, j)
    let z1 := if z.dropped then before.foldl (fun z (i, j) => z.put i j (lost (64 * i + j))) { z.cleared with dropped := false } else z
    let z2 := keyed.foldl (fun z (v, j) => z.put r j v) z1
    x.setZ n (z2.written (whole && !o.sl) o.sl)
  | .w n => x.setW n (code (x.wAt n) 64)
  | .q n => x.setQ n (code (x.qAt n) (kmaxOf (lfTag sh.lf)))

/-- `tld.ff` ends with the number of rows loaded in x[xd] (R198). -/
def endTldFf (e : Entry) (o : TMOp) (rows : Nat) : Act Unit := do
  modify fun s => { s with th := s.th.setX o.xd (BitVec.ofNat 64 rows) }
  finishTile e.post

/-- Row `zrow` of a `tld` (R196, R198). -/
def stepTld (e : Entry) (o : TMOp) : Act Bool := do
  let s ← get
  let sh := shapeOf o.tile ((e.xs.drop 1).headD 0)
  let r := e.prog
  let base := rowAddr e o r
  let bx := isBx o.mtype
  let parts := rowParts o.mtype sh.cols
  if mustFollow s (some e.post) base (rowBytes o.mtype sh.cols) then pure false
  else
    let trimOr := fun (c : Byte) (a : Word) => do
      if o.ff && decide (0 < r) && c != cDABORT then
        modify fun s => { s with th := { s.th with fsr := c.setWidth 25 ||| BitVec.ofNat 25 (r * 256 + 2 ^ 24) } }
        endTldFf e o r
        pure true
      else faultElem e.post c a
    match rowFault s bx .read base parts with
    | some (c, a) => trimOr c a
    | none =>
      match ← readRow e.post r (rowLocs s o.mtype .read base parts) with
      | .fault c k => trimOr c (rowPart o.mtype base k)
      | .silent =>
        markSent e.post 0
        pure false
      | .more => pure true
      | .bytes bs =>
        let toZ := o.tile.ult 8
        let (vals, ff, lf) := rowElems toZ (lfTag sh.lf) o.mtype (cutRow bs parts)
        modify fun s =>
          let lost := fun (k : Nat) => (Config.freeWord (s.fresh + k)).toNat
          let s1 := State.modMyTile { s with fresh := s.fresh + 2048 } (putRow o sh r vals lost)
          { s1 with th := (s1.th.raise ff lf).modEntry e.post fun e => { e with sent := [] } }
        if r + 1 < sh.rows then setProg e.post (r + 1)
        else if o.ff then endTldFf e o sh.rows
        else finishTile e.post
        pure true

/-- The parts of a row that `tst` writes (R197): each with its column offset, its bytes and the flags raised. -/
def tstParts (e : Entry) (o : TMOp) (cols : Nat) (z : ZTile) (r : Nat) : List (Nat × List Byte × FFlags × LFlags) :=
  let mask := (e.xs.drop 3).headD 0
  if isBx o.mtype then
    (List.range (cols / 16)).filterMap fun g =>
      if maskBit o.xcols mask (16 * g) then
        let (b, fl) := quantise 7 ((List.range 16).map fun i => unpack .f32 (z.get r (16 * g + i)))
        some (g * 18, blkBytes o.mtype b, fl, 0)
      else none
  else
    (List.range cols).filterMap fun j =>
      if maskBit o.xcols mask j then
        let v := z.get r j
        let x : ElemRes := if o.mtype = 6 then { val := v } else cvtRes 6 o.mtype false false false e.frm v
        some (j * sizeOf o.mtype, leBytes (sizeOf o.mtype) x.val, x.ff, x.lf)
      else none

/-- Every part of a row can be written now: nothing is performed (R198). -/
def rowReady (bx : Bool) : List (Word × List Byte) → Act (Except (Byte × Word) Bool)
  | [] => pure (.ok true)
  | (a, bs) :: r => do
    match ← checkPieces (partLocs (← get) bx .write a bs.length) with
    | .error c => pure (.error (c, a))
    | .ok false => pure (.ok false)
    | .ok true => rowReady bx r

/-- Write parts that can all be written. -/
def putParts (bx : Bool) : List (Word × List Byte) → Act Unit
  | [] => pure ()
  | (a, bs) :: r => do
    putPieces bx (partLocs (← get) bx .write a bs.length) bs
    putParts bx r

/-- Write the parts of a row, or none of them. -/
def writeRow (bx : Bool) (parts : List (Word × List Byte)) : Act (Except (Byte × Word) Bool) := do
  match ← rowReady bx parts with
  | .ok true =>
    putParts bx parts
    pure (.ok true)
  | x => pure x

/-- Row `zrow` of a `tst` (R197, R198). Every element of the row's extent is checked for its faults, masked off or not: R205 names
the whole padded extents (DEDUCED, log entry 72). -/
def stepTst (e : Entry) (o : TMOp) : Act Bool := do
  let s ← get
  let sh := shapeOf o.tile ((e.xs.drop 1).headD 0)
  let r := e.prog
  let base := rowAddr e o r
  let bx := isBx o.mtype
  let next := if r + 1 < sh.rows then setProg e.post (r + 1) else finishTile e.post
  match rowFault s bx .write base (rowParts o.mtype sh.cols) with
  | some (c, a) => faultElem e.post c a
  | none =>
    if !maskBit o.xrows ((e.xs.drop 2).headD 0) r then
      next
      pure true
    else if mustFollow s (some e.post) base (rowBytes o.mtype sh.cols) then pure false
    else
      let parts := tstParts e o sh.cols (s.myTile.zAt o.tile.toNat) r
      match ← writeRow bx (parts.map fun (off, bs, _, _) => (base + BitVec.ofNat 64 off, bs)) with
      | .error (c, a) => faultElem e.post c a
      | .ok false =>
        markSent e.post 0
        pure false
      | .ok true =>
        modify fun s => { s with th := (s.th.raise (parts.foldl (fun f (_, _, x, _) => f ||| x) 0)
          (parts.foldl (fun f (_, _, _, x) => f ||| x) 0)).modEntry e.post fun e => { e with sent := [] } }
        next
        pure true

/-! ### The queue (R187, R200) -/

/-- Items whose thread or entry is gone leave the queue (R342), and those of a thread whose partition was given away, with its
window (R286; log entry 73). A load that a frozen thread of a context which has lost the tile's w and q has begun stays in the
queue, and what conflicts with it waits (DESIGN CHOICE, log entry 77). -/
def State.cleanQueue (s : State) (x : Tile) : List OxItem :=
  x.ox.filter fun q => match s.thread q.tid with
    | some t => (t.entry q.post).isSome && t.part.isSome && (t.run == .running || t.run == .suspended true || t.run == .suspended false)
    | none => false

/-- The items before one that it must wait for: those of its own thread, and those it conflicts with (R187, R200). -/
def State.queueBlocks (s : State) (q : OxItem) (i : Instr) : List OxItem → Bool
  | [] => false
  | p :: r =>
    if p = q then false
    else
      (p.tid = q.tid ||
        (match (s.thread p.tid).bind fun t => t.entry p.post with
         | some e => tileConflict e.instr i
         | none => false)) || s.queueBlocks q i r

/-- The next step or row of a tile instruction of the current thread (R187, R188, R337). -/
def fireTile (post : Nat) : Act Bool := do
  let s ← get
  match s.th.entry post with
  | none => pure false
  | some e =>
    let q : OxItem := { tid := s.th.tid, post := post }
    if e.complete || e.held.isSome || !isTileInstr e.instr || s.queueBlocks q e.instr (s.cleanQueue s.myTile) || s.th.awaitsCheck 64 e none then
      pure false
    else
      let gone := match zRead e.instr e.prog with
        | some n => (s.myTile.zAt n).dropped
        | none => false
      if gone then faultElem post cRETN e.pc
      else
        match e.instr with
        | .tmma o => stepMX e o false
        | .tmms o => stepMX e o true
        | .vopa o => stepVopa e o
        | .tld o => stepTld e o
        | .tst o => stepTst e o
        | i => stepRow e i

end Sys2Proof.Machine
end

