-- ==== Sys2Proof/Machine/Cursor.lean ====
section
/-! DEFINITION. Stream cursors (spec/13 R245–R250). -/

namespace Sys2Proof.Machine

/-- Cursor c0–c3. -/
def Thread.cursor (t : Thread) (c : BitVec 2) : Cursor := t.cursors[c.toNat]'c.isLt

def Thread.setCursor (t : Thread) (c : BitVec 2) (v : Cursor) : Thread := { t with cursors := t.cursors.set c.toNat v c.isLt }

def Cursor.keySize (c : Cursor) : Nat := if c.k64 then 8 else 4

/-- The address of the key at the position (R245). -/
def Cursor.keyAddr (c : Cursor) : Word := c.base + BitVec.ofNat 64 (c.pos * c.keySize)

/-- The position passes one key; a key of the window leaves it (R246). -/
def Cursor.pass (c : Cursor) : Cursor := { c with pos := c.pos + 1, win := c.win.drop 1 }

/-- What a key read gives. -/
inductive KeyRead where
  | key (k : Nat)
  | silent
  | fault (cause : Byte) (va : Word)
  deriving DecidableEq, Repr

/-- The key at the position: from the window, or read once into it (R246). -/
def readKey (c : BitVec 2) : Act KeyRead := do
  let s ← get
  let u := s.th.cursor c
  match u.win with
  | k :: _ => pure (.key k.toNat)
  | [] =>
    match s.locate u.keyAddr .read with
    | .error f => pure (.fault f u.keyAddr)
    | .ok (l, e) =>
      set (s.cacheTlb s.th.hall? e)
      match ← readLoc l u.keySize with
      | .error f => pure (.fault f u.keyAddr)
      | .ok none => pure .silent
      | .ok (some bs) =>
        modify fun s => { s with th := s.th.setCursor c { u with win := [leWord bs] } }
        pure (.key (leNat bs))

def passKey (c : BitVec 2) : Act Unit := modify fun s => { s with th := s.th.setCursor c (s.th.cursor c).pass }

/-- Is the cursor named by an earlier `smatch` that has not completed (R247)? -/
def Thread.cursorBusy (t : Thread) (c : BitVec 2) : Bool :=
  t.window.any fun e => !e.complete && (match e.instr with
    | .smatch _ _ _ ca cb => ca == c || cb == c
    | _ => false)

/-- The checks every cursor instruction makes first: not on a core, the feature, earlier merges (R59, R247, R274). -/
def cursorCheck (cs : List (BitVec 2)) : Act Unit := do
  notOnCore
  needFeature 1
  if cs.any (← get).th.cursorBusy then endWith .wait else pure ()

/-! ### `smatch` (R250) -/

/-- One comparison of the merge. -/
inductive MergeStep where
  | ended | emits | silent
  | fault (cause : Byte) (va : Word)
  deriving DecidableEq, Repr

/-- The merge runs on to its next pair, its end, or a stop; the fuel bounds the keys it passes. -/
def mergeOn (ca cb : BitVec 2) : Nat → Act MergeStep
  | 0 => pure .ended
  | n + 1 => do
    let t := (← get).th
    if (t.cursor ca).len ≤ (t.cursor ca).pos || (t.cursor cb).len ≤ (t.cursor cb).pos then pure .ended
    else
      match ← readKey ca with
      | .silent => pure .silent
      | .fault c a => pure (.fault c a)
      | .key ka =>
        match ← readKey cb with
        | .silent => pure .silent
        | .fault c a => pure (.fault c a)
        | .key kb =>
          if ka < kb then
            passKey ca
            mergeOn ca cb n
          else if kb < ka then
            passKey cb
            mergeOn ca cb n
          else pure .emits

/-- The positions that a restored entry holds replace the cursors' (R73, R282). -/
def alignCursor (c : BitVec 2) (pos : Option Word) : Act Unit := modify fun s =>
  let u := s.th.cursor c
  match pos with
  | some p => if p.toNat = u.pos then s else { s with th := s.th.setCursor c { u with pos := p.toNat, win := [] } }
  | none => s

/-- The entry keeps both positions (R282). -/
def notePositions (post : Nat) (ca cb : BitVec 2) : Act Unit := modify fun s =>
  let eng := [BitVec.ofNat 64 (s.th.cursor ca).pos, BitVec.ofNat 64 (s.th.cursor cb).pos]
  { s with th := s.th.modEntry post fun e => { e with eng := eng } }

/-- The merge goes on to its next pair, or ends: the rest of both registers keeps its values, and vl and x[d] are the count. -/
def fireMatch (post : Nat) : Act Bool := do
  let s ← get
  match s.th.entry post with
  | none => pure false
  | some e =>
    match e.instr with
    | .smatch d va vb ca cb =>
      if e.complete then pure false
      else
        alignCursor ca e.eng[0]?
        alignCursor cb e.eng[1]?
        let t := (← get).th
        let keys := ((t.cursor ca).len - (t.cursor ca).pos) + ((t.cursor cb).len - (t.cursor cb).pos) + 1
        let r ← if e.vl ≤ e.prog then pure MergeStep.ended else mergeOn ca cb keys
        notePositions post ca cb
        modify fun s => { s with th := s.th.modEntry post fun e => { e with sent := [] } }
        match r with
        | .silent =>
          markSent post 0
          pure false
        | .fault c a => faultElem post c a
        | .emits =>
          let t := (← get).th
          if t.held? e e.prog then pure false
          else
            modify fun s =>
              let t1 := (s.th.putElem post va 2 e.prog (t.cursor ca).pos).putElem post vb 2 e.prog (t.cursor cb).pos
              { s with th := t1.modEntry post fun e => { e with prog := e.prog + 1 } }
            passKey ca
            passKey cb
            notePositions post ca cb
            pure true
        | .ended =>
          modify fun s =>
            let t1 := ((List.range e.vl).drop e.prog).foldl (fun t u => (t.keepElem post va 2 u).keepElem post vb 2 u) s.th
            { s with th := { (t1.setX d (BitVec.ofNat 64 e.prog)).modEntry post (·.mark 0) with vl := e.prog } }
          pure true
    | _ => pure false

/-- Post `smatch` (R250): its entry holds the positions of both cursors (R73). -/
def postMatch (i : Instr) (va vb : VReg) (ca cb : BitVec 2) : Act Unit := do
  notOnCore
  needFeature 1
  preCheck
  if ca = cb ∨ va = vb then illegal else pure ()
  let s ← get
  if (s.th.cursor ca).isOpen && (s.th.cursor cb).isOpen then pure () else illegal
  needPartition
  needRoom
  modify fun s =>
    let t := s.th
    let at' := [BitVec.ofNat 64 (t.cursor ca).pos, BitVec.ofNat 64 (t.cursor cb).pos]
    { s with th := t.postEntry { t.newEntry i [0, 0, 0] with eng := at' } [(va, 2), (vb, 2)] }

end Sys2Proof.Machine
end

