-- ==== Sys2Proof/Machine/Fabric.lean ====
section
/-! DEFINITION. The Arcade fabric of a hall (spec/13 R233–R244): images and their checks, ownership, runs and their iterations. -/

namespace Sys2Proof.Machine

/-! ### Records of an image (R235–R237) -/

def nodeNo (r : BitVec 64) : Nat := (r.extractLsb' 0 6).toNat
def nodeOp (r : BitVec 64) : Nat := (r.extractLsb' 8 8).toNat
def nodeType (r : BitVec 64) : EType := r.extractLsb' 16 4
def nodeRm (r : BitVec 64) : BitVec 2 := r.extractLsb' 20 2
def nodeImm (r : BitVec 64) : BitVec 32 := r.extractLsb' 32 32

/-- The class of a node number (R233): 0 multiplier, 1 adder, 2 permuter, 3 load pipe, 4 store pipe. -/
def classOf (n : Nat) : Nat := if n < 16 then 0 else if n < 32 then 1 else if n < 40 then 2 else if n < 44 then 3 else 4

/-- How many operations a class has (R236). -/
def opsOf (c : Nat) : Nat := if c = 0 then 3 else if c = 1 then 8 else if c = 2 then 6 else 2

/-- The ports an operation reads (R236). -/
def portsOf (c op : Nat) : List Nat :=
  match c, op with
  | 0, 1 => [0, 1, 2]
  | 0, 2 => [0]
  | 1, 4 => [0]
  | 1, 7 => [0, 1, 2]
  | 2, _ => [0]
  | 3, 0 => []
  | 3, _ => [0]
  | 4, 0 => [0]
  | _, _ => [0, 1]

/-- The type a port reads (R238). -/
def portType (r : BitVec 64) (p : Nat) : EType :=
  let c := classOf (nodeNo r)
  if (c = 1 ∧ nodeOp r = 7 ∧ p = 2) ∨ (3 ≤ c ∧ nodeOp r = 1 ∧ p = 0) then 2 else nodeType r

/-- The type of a node's result (R238); a store pipe has none. -/
def resultType (r : BitVec 64) : Option EType :=
  let c := classOf (nodeNo r)
  if c = 4 then none else if c = 1 ∧ (nodeOp r = 5 ∨ nodeOp r = 6) then some 2 else some (nodeType r)

/-- A node value outside R236. -/
def nodeBad (r : BitVec 64) : Bool :=
  let c := classOf (nodeNo r)
  let et := nodeType r
  decide (48 ≤ nodeNo r) || (r.extractLsb' 22 10 != 0) || (r.extractLsb' 6 2 != 0) || nodeRm r == 3 ||
  !(et == 2 || et == 4 || et == 6) || (c == 2 && et != 2) || decide (opsOf c ≤ nodeOp r) ||
  (3 ≤ c && r.extractLsb' 38 26 != 0)

def edgeSrc (r : BitVec 64) : Nat := (r.extractLsb' 0 6).toNat
def edgePort (r : BitVec 64) : Nat := (r.extractLsb' 16 2).toNat
def edgeDst (r : BitVec 64) : Nat := (r.extractLsb' 18 6).toNat
def edgeCarried (r : BitVec 64) : Bool := r.getLsbD 31
def edgeTok (r : BitVec 64) : BitVec 32 := r.extractLsb' 32 32

def bindReg (r : BitVec 64) : VReg := r.extractLsb' 0 5
def bindKind (r : BitVec 64) : Nat := (r.extractLsb' 6 2).toNat
def bindPort (r : BitVec 64) : Nat := (r.extractLsb' 16 4).toNat
def bindCop (r : BitVec 64) : Nat := (r.extractLsb' 20 4).toNat
def bindGrp (r : BitVec 64) : Nat := (r.extractLsb' 24 8).toNat

/-- A binding value outside R237. -/
def bindBad (r : BitVec 64) : Bool :=
  (r.extractLsb' 32 32 != 0) || (r.extractLsb' 8 8 != 0) || bindKind r == 2 ||
  (if bindKind r = 3 then r.extractLsb' 0 6 != 0 || decide (5 < bindCop r) || decide (11 < bindPort r)
   else r.getLsbD 5 || r.extractLsb' 16 16 != 0)

/-- Positions of a list with their records. -/
def indexed {α : Type} (l : List α) : List (Nat × α) := (List.range l.length).zip l

/-- The node records of an image, by number: the first good record of a number. -/
def findNode (nodes : List (BitVec 64)) (n : Nat) : Option (BitVec 64) :=
  nodes.find? fun r => nodeNo r = n && !nodeBad r

/-- Nodes reached along edges without an initial token. -/
def reach (es : List (Nat × Nat)) : Nat → List Nat → List Nat
  | 0, l => l
  | n + 1, l => reach es n ((es.filter fun (s, d) => l.contains s && !l.contains d).foldl (fun l (_, d) => insertIdx l d) l)

/-- Records that an image check names, counted from the first node record (R238). No rule of R238 speaks of an edge that leaves a
store pipe, which makes no token: it is refused as ILL and names its record (DESIGN CHOICE, log entry 83). -/
def imageErrors (nodes edges binds : List (BitVec 64)) : List Nat :=
  let nn := nodes.length
  let ne := edges.length
  let nb := binds.length
  let known := fun (x : Nat) => (nodes.any fun r => nodeNo r = x && decide (x < 48)) || (decide (48 ≤ x) && decide (x - 48 < nb))
  let into := fun (d : Nat) => edges.filter fun e => edgeDst e = d
  let feeds := fun (d p : Nat) => (edges.filter fun e => edgeDst e = d && edgePort e = p).length
  let nodeErr := (indexed nodes).filterMap fun (i, r) =>
    let n := nodeNo r
    let ports := portsOf (classOf n) (nodeOp r)
    let twice := (nodes.take i).any fun q => nodeNo q = n
    let unread := (into n).any fun e => edgePort e ≠ 3 && !ports.contains (edgePort e)
    if nodeBad r || twice || unread || ports.any (fun p => feeds n p ≠ 1) then some i else none
  let edgeErr := (indexed edges).filterMap fun (i, e) =>
    let s := edgeSrc e
    let d := edgeDst e
    let typed := match findNode nodes s, findNode nodes d with
      | some a, some b => (match resultType a with
        | some t => (portsOf (classOf d) (nodeOp b)).contains (edgePort e) && t != portType b (edgePort e)
        | none => true)
      | some a, none => (resultType a).isNone
      | none, _ => false
    let es := edges.filterMap fun x => if edgeCarried x then none else some (edgeSrc x, edgeDst x)
    let cyclic := !edgeCarried e && (reach es 65 [d]).contains s
    if (e.extractLsb' 24 7 != 0) || (e.extractLsb' 6 10 != 0) || edgePort e == 3 || !known s || !known d ||
        (decide (48 ≤ d) && edgePort e != 0) || typed || cyclic then some (nn + i) else none
  let bindErr := (indexed binds).filterMap fun (i, r) =>
    let ins := (into (48 + i)).length
    let outs := (edges.filter fun e => edgeSrc e = 48 + i).length
    let bad := match bindKind r with
      | 0 => ins != 0
      | 1 => outs != 0 || ins != 1
      | 3 => ins != 1
      | _ => true
    if bindBad r || bad then some (nn + ne + i) else none
  nodeErr ++ edgeErr ++ bindErr

/-- A header outside R235: nothing else of the image is read when its counts are. -/
def headerCounts (h : BitVec 128) : Option (Nat × Nat × Nat) :=
  let nn := (h.extractLsb' 16 8).toNat
  let nb := (h.extractLsb' 24 8).toNat
  let ne := (h.extractLsb' 32 16).toNat
  if 1 ≤ nn ∧ nn ≤ 48 ∧ nb ≤ 16 ∧ ne ≤ 192 then some (nn, ne, nb) else none

def headerBad (h : BitVec 128) : Bool := (h.extractLsb' 0 16 != 1) || (h.extractLsb' 48 80 != 0)

/-! ### Ownership (R234) -/

/-- The fabric of the current thread's hall. -/
def State.fabric (s : State) : Fabric := match s.th.place with
  | some (h, _) => (s.hall h).fabric
  | none => Fabric.free

def State.setFabric (s : State) (f : Fabric) : State := match s.th.place with
  | some (h, _) => s.setHall h { s.hall h with fabric := f }
  | none => s

/-- Take the fabric, or wait in the order of requests; the owner waits for its own runs. -/
def takeFabric : Act Unit := do
  let s ← get
  let f := s.fabric
  let me := s.th.tid
  if f.owner = some me then (if f.runs.any fun r => r.tid = me then endWith .wait else pure ())
  else
    let w := if f.waiters.contains me then f.waiters else f.waiters ++ [me]
    if f.owner = none ∧ w.head? = some me then set (s.setFabric { Fabric.free with owner := some me, waiters := w.drop 1 })
    else
      set (s.setFabric { f with waiters := w })
      endWith .wait

/-- A failed check leaves the fabric unowned (R238). -/
def failImage (cause : Byte) (va : Word) : Act Unit := do
  modify fun s => s.setFabric { Fabric.free with waiters := s.fabric.waiters }
  trapWith cause va

/-- An image with a byte on another device's page: PROT with the image's address, and nothing is changed, so that the owner keeps
its fabric (R300; R238 would leave it unowned: DESIGN CHOICE, log entry 83). `was` is the fabric before the instruction. -/
def refuseAway (was : Fabric) (img : Word) : Act Unit := do
  modify fun s => s.setFabric (if was.owner = some s.th.tid then was else { Fabric.free with waiters := s.fabric.waiters })
  trapWith cPROT img

/-- One record of the image, read with the faults of R238. -/
def readRecord (was : Fabric) (img a : Word) (n : Nat) : Act (List Byte) := do
  let s ← get
  match s.locate a .read with
  | .error c =>
    if c = cDABORT then refusedWith c a else failImage c a
    pure []
  | .ok (.away _ _, _) =>
    refuseAway was img
    pure []
  | .ok (.here pa, e) =>
    set (s.cacheTlb s.th.hall? e)
    loadHere pa n

def readRecords (was : Fabric) (img a : Word) : Nat → Act (List (BitVec 64))
  | 0 => pure []
  | n + 1 => do
    let bs ← readRecord was img a 8
    let r ← readRecords was img (a + 8) n
    pure (leWord bs :: r)

/-- The token an edge starts with. -/
def initialTokens (edges : List (BitVec 64)) : List (BitVec 32) := edges.map fun e => if edgeCarried e then edgeTok e else 0

/-- `fcfg` (R234, R238). -/
def configure (img : Word) : Act Unit := do
  notOnCore
  needFeature 0
  let was := (← get).fabric
  takeFabric
  if img.toNat % 16 ≠ 0 then failImage cALIGN img else pure ()
  let h : BitVec 128 := BitVec.ofNat 128 (leNat (← readRecord was img img 16))
  match headerCounts h with
  | none => failImage cILL img
  | some (nn, ne, nb) =>
    let recs ← readRecords was img (img + 16) (nn + ne + nb)
    if headerBad h then failImage cILL img else pure ()
    let nodes := recs.take nn
    let edges := (recs.drop nn).take ne
    let binds := recs.drop (nn + ne)
    match (imageErrors nodes edges binds).min? with
    | some i => failImage cILL (img + 16 + BitVec.ofNat 64 (8 * i))
    | none =>
      modify fun s => s.setFabric { s.fabric with
        img := img, nodes := nodes, edges := edges, binds := binds, counter := 0, tokens := initialTokens edges, runs := [] }
      advanceAct

/-- `fcfg (x0)`: the owner waits for its runs and releases; for another thread there is no effect. -/
def releaseFabric : Act Unit := do
  notOnCore
  needFeature 0
  let s ← get
  if s.fabric.owner = some s.th.tid then
    if s.fabric.runs.any fun r => r.tid = s.th.tid then endWith .wait
    else set (s.releaseFabrics s.th.tid)
  else pure ()
  advanceAct

/-! ### Posting a run (R239) -/

/-- The type of what a node or binding produces: an input register's tag, or what feeds a collective binding. -/
def producerType (t : Thread) (f : Fabric) : Nat → Nat → EType
  | 0, _ => 2
  | n + 1, src =>
    if src < 48 then ((findNode f.nodes src).bind resultType).getD 2
    else
      let b := f.binds.getD (src - 48) 0
      if bindKind b = 0 then t.tagOf (bindReg b)
      else match f.edges.find? fun e => edgeDst e = src with
        | some e => producerType t f n (edgeSrc e)
        | none => 2

/-- The registers read, with the types their consumers read (R239). -/
def inputTags (f : Fabric) : List (VReg × TagReq × Bool) :=
  (indexed f.binds).flatMap fun (i, b) =>
    if bindKind b = 0 then
      f.edges.filterMap fun e =>
        if edgeSrc e = 48 + i then (findNode f.nodes (edgeDst e)).map fun n => (bindReg b, .exact (portType n (edgePort e)), false)
        else none
    else []

/-- What an entry of a run notes of its image (`Entry.use`). -/
def runCodes (f : Fabric) : List Word :=
  f.binds.map (fun b => if bindKind b = 0 then (bindReg b).setWidth 64
    else if bindKind b = 1 then (bindReg b).setWidth 64 + 32 else 66) ++
  (if f.nodes.any fun r => classOf (nodeNo r) = 3 then [64] else []) ++
  (if f.nodes.any fun r => classOf (nodeNo r) = 4 then [65] else [])

/-- The element type of what feeds an output binding: a node's own `et`, also of a comparison (R239). Where an input or collective
binding feeds it, no producer has an `et`: the tag is the input register's, or the type of what feeds the collective (DESIGN
CHOICE, log entry 83). -/
def outputType (t : Thread) (f : Fabric) (i : Nat) : EType :=
  match f.edges.find? fun e => edgeDst e = 48 + i with
  | some e => if edgeSrc e < 48 then ((findNode f.nodes (edgeSrc e)).map nodeType).getD 2 else producerType t f 18 (edgeSrc e)
  | none => 2

/-- Output registers with their tags (R239). -/
def outputTags (t : Thread) (f : Fabric) : List (VReg × EType) :=
  ((indexed f.binds).filterMap fun (i, b) => if bindKind b = 1 then some (bindReg b, outputType t f i) else none).eraseDups

/-- The bases of the pipes, by node 40–47 (R236, R282). -/
def pipeBases (t : Thread) (f : Fabric) : List Word :=
  (List.range 8).map fun i => match findNode f.nodes (40 + i) with
    | some r => t.getX ((nodeImm r).setWidth 6)
    | none => 0

/-- Every collective group of the image is configured for the context (R239, R244). -/
def groupsKnown (s : State) (f : Fabric) : Bool :=
  f.binds.all fun b => bindKind b != 3 ||
    s.hiend.groups.any fun g => g.grp = bindGrp b && g.port = bindPort b && g.ctxs.contains s.th.ctx

/-- Post a run (R239). -/
def postRun (i : Instr) (d n : XReg) : Act Unit := do
  notOnCore
  needFeature 0
  preCheck
  let s ← get
  let f := s.fabric
  let count := (s.getX n).toNat
  let vector := f.binds.any fun b => bindKind b ≤ 1
  if f.owner ≠ some s.th.tid ∨ (vector ∧ s.th.vl < count) ∨ 2 ^ 40 < count then illegal else pure ()
  needPartition
  needTags (inputTags f)
  if groupsKnown s f then pure () else trapWith cPROT s.th.pc
  needRoom
  modify fun s =>
    let t := s.th
    let e := { t.newEntry i [s.getX n, 0, 0] with eng := pipeBases t f, acc := runCodes f }
    let n0 := f.counter + (f.runs.map (·.count)).sum
    let run : FRun :=
      { tid := t.tid, post := e.post, n0 := n0, count := count, j := 0, fired := [], fault := none, coll := [], ahead := [] }
    let s1 := s.setFabric { f with runs := f.runs ++ [run] }
    { s1 with th := ((t.postEntry e (outputTags t f)).setX d (BitVec.ofNat 64 n0)).advance }

/-! ### Nodes (R236) -/

/-- An operand in its type: low 16 bits for f16. -/
def inType (et : EType) (v : BitVec 32) : Nat := if et = 4 then v.toNat % 2 ^ 16 else v.toNat

/-- The result of a multiplier, adder or permuter, with its flags. -/
def nodeResult (r : BitVec 64) (frm : RMode) (ins : List (BitVec 32)) : ElemRes :=
  let c := classOf (nodeNo r)
  let op := nodeOp r
  let et := nodeType r
  let a := inType et (ins.getD 0 0)
  let b := inType et (ins.getD 1 0)
  let k := inType et (ins.getD 2 0)
  let im := inType et (nodeImm r)
  let rm := modeOf (nodeRm r) frm
  let fm := fmtOf et
  let res := fun (p : Nat × FFlags) => ({ val := p.1, ff := p.2 } : ElemRes)
  if c = 2 then
    { val := match op with
        | 0 => a * 2 ^ (im % 32) % 2 ^ 32
        | 1 => a / 2 ^ (im % 32)
        | 2 => sraRes 32 a im
        | 3 => bitRes 32 (· &&& ·) a im
        | 4 => bitRes 32 (· ||| ·) a im
        | _ => bitRes 32 (· ^^^ ·) a im }
  else if c = 1 ∧ op = 7 then { val := if ins.getD 2 0 = 0 then b else a }
  else if et = 2 then
    { val := match c, op with
        | 0, 0 => a * b % 2 ^ 32
        | 0, 1 => (a * b + k) % 2 ^ 32
        | 0, _ => a * im % 2 ^ 32
        | _, 0 => (a + b) % 2 ^ 32
        | _, 1 => ofInt 32 ((a : Int) - b)
        | _, 2 => minMaxRes 32 false false a b
        | _, 3 => minMaxRes 32 false true a b
        | _, 4 => (a + im) % 2 ^ 32
        | _, 5 => if toSigned 32 a < toSigned 32 b then 1 else 0
        | _, _ => if a = b then 1 else 0 }
  else
    match c, op with
    | 0, 0 => res (fMul fm rm a b)
    | 0, 1 => res (fFma fm rm false false a b k)
    | 0, _ => res (fMul fm rm a im)
    | _, 0 => res (fAdd fm rm a b)
    | _, 1 => res (fSub fm rm a b)
    | _, 2 => res (fMinMax fm false a b)
    | _, 3 => res (fMinMax fm true a b)
    | _, 4 => res (fAdd fm rm a im)
    | _, 5 => let (x, fl) := fCompare fm 1 a b; { val := if x then 1 else 0, ff := fl }
    | _, _ => let (x, fl) := fCompare fm 0 a b; { val := if x then 1 else 0, ff := fl }

/-- What a pipe delivers after a fault, or the collective unit after its limit: the canonical NaN or all ones (R241, R244). -/
def noValue (et : EType) : BitVec 32 :=
  if et = 4 then BitVec.ofNat 32 FFmt.f16.nan else if et = 6 then BitVec.ofNat 32 FFmt.f32.nan else -1

/-! ### Tokens of an iteration (R233, R239) -/

/-- What a node or binding has produced in the iteration, once it has. -/
def producedBy (f : Fabric) (r : FRun) (t : Thread) (src : Nat) : Option (BitVec 32) :=
  if src < 48 then assocGet r.fired src
  else
    let b := f.binds.getD (src - 48) 0
    if bindKind b = 0 then (t.vSlot r.post (bindReg b) r.j).map (BitVec.ofNat 32) else assocGet r.coll (src - 48)

/-- The token on an edge: a carried edge holds the one made in the iteration before. -/
def tokenOn (f : Fabric) (r : FRun) (t : Thread) (k : Nat) : Option (BitVec 32) :=
  let e := f.edges.getD k 0
  if edgeCarried e then f.tokens[k]? else producedBy f r t (edgeSrc e)

/-- The token that reaches a port. -/
def tokenAt (f : Fabric) (r : FRun) (t : Thread) (d p : Nat) : Option (BitVec 32) :=
  ((indexed f.edges).find? fun (_, e) => edgeDst e = d && edgePort e = p).bind fun (k, _) => tokenOn f r t k

/-- All inputs of a node, once present (R233). -/
def nodeInputs (f : Fabric) (r : FRun) (t : Thread) (n : BitVec 64) : Option (List (BitVec 32)) :=
  (portsOf (classOf (nodeNo n)) (nodeOp n)).mapM fun p => tokenAt f r t (nodeNo n) p

/-- The run as it will stand at iteration `k`, as far as it has been worked out (R233): a carried edge then holds what its
producer made in the iteration before. -/
def runAt (f : Fabric) (r : FRun) (t : Thread) : Nat → Fabric × FRun
  | 0 => (f, r)
  | n + 1 =>
    let (f1, r1) := runAt f r t n
    let now := fun (src : Nat) => producedBy f1 r1 t src
    let tokens := (indexed f1.edges).map fun (i, x) => if edgeCarried x then (now (edgeSrc x)).getD 0 else f1.tokens.getD i 0
    let fired := r.ahead.filterMap fun (k, x, v) => if k = r1.j + 1 then some (x, v) else none
    ({ f1 with tokens := tokens }, { r1 with j := r1.j + 1, fired := fired, coll := [] })

/-- The iteration in which a node fires next. -/
def FRun.next (r : FRun) (node : Nat) : Nat :=
  if (assocGet r.fired node).isNone then r.j else r.j + 1 + (r.ahead.filter fun x => x.2.1 = node).length

/-- `d` iterations after the current one, each carried edge into the node has its token of the iteration before. -/
def carriedReady (f : Fabric) (r : FRun) (t : Thread) (node d : Nat) : Bool :=
  let (f1, r1) := runAt f r t (d - 1)
  f.edges.all fun e => !(edgeCarried e && edgeDst e == node) || (producedBy f1 r1 t (edgeSrc e)).isSome

/-- Every input queue that the node's result goes to has room for it: each holds four elements (R233). -/
def queuesHaveRoom (f : Fabric) (r : FRun) (node : Nat) : Bool :=
  f.edges.all fun e => edgeSrc e != node ||
    decide (r.next node + (if edgeCarried e then 1 else 0) < (if edgeDst e < 48 then r.next (edgeDst e) else r.j) + 4)

/-- The address of a pipe's access (R236). -/
def pipeAddr (e : Entry) (r : FRun) (n : BitVec 64) (ins : List (BitVec 32)) : Word :=
  let idx := if nodeOp n = 0 then r.n0 + r.j else (ins.getD 0 0).toNat
  e.eng.getD (nodeNo n - 40) 0 + BitVec.ofNat 64 (idx * sizeOf (nodeType n))

/-- The thread's run that goes on now: the first of the fabric's, since runs of one thread follow one another (R239). -/
def State.currentRun (s : State) : Option FRun := (s.fabric.runs.find? fun r => r.tid = s.th.tid)

def State.modRun (s : State) (post : Nat) (g : FRun → FRun) : State :=
  let f := s.fabric
  s.setFabric { f with runs := f.runs.map fun r => if r.tid = s.th.tid ∧ r.post = post then g r else r }

/-- A pipe fault (R241): a run without a collective binding gives up the iteration and the thread takes the fault; another goes on
without its pipes. -/
def pipeFault (r : FRun) (cause : Byte) (va : Word) : Act Bool := do
  if (← get).fabric.collective then
    modify fun s =>
      let s1 := s.modRun r.post fun x => { x with fault := some (x.j, cause, va), fired := [], ahead := [] }
      { s1 with th := { s1.th with remind := true } }
    pure true
  else
    modify fun s => s.modRun r.post fun x => { x with fired := [], ahead := [] }
    faultElem r.post cause va

/-- A node takes a register's element: it escapes to the fabric, after the checks it depends on (R337). -/
def takesElement (f : Fabric) (node : Nat) : Bool :=
  f.edges.any fun e => edgeDst e == node && decide (48 ≤ edgeSrc e) && bindKind (f.binds.getD (edgeSrc e - 48) 0) == 0

/-- Node `n` fires in its next iteration (R233, R240), `d` after the run's current one; a store pipe takes its tokens, and writes
at the iteration's end. A fault of a later iteration shows when that iteration is the current one. -/
def fireNodeOf (r : FRun) (e : Entry) (n : BitVec 64) (d : Nat) : Act Bool := do
  let s ← get
  let (f, rk) := runAt s.fabric r s.th d
  let put := fun (v : BitVec 32) => modify fun s => s.modRun r.post fun x =>
    if d = 0 then { x with fired := x.fired ++ [(nodeNo n, v)] } else { x with ahead := x.ahead ++ [(rk.j, nodeNo n, v)] }
  let refuse := fun (c : Byte) (a : Word) => if d = 0 then pipeFault r c a else pure false
  if takesElement f (nodeNo n) && s.th.awaitsCheck 64 e none then pure false
  else
    match nodeInputs f rk s.th n with
    | none => pure false
    | some ins =>
      match classOf (nodeNo n) with
      | 3 =>
        if r.fault.isSome then
          put (noValue (nodeType n))
          pure true
        else
          let a := pipeAddr e rk n ins
          let sz := sizeOf (nodeType n)
          if mustFollow s (some r.post) a sz then pure false
          else
            match elemLoc s 0 a sz sz .read with
            | .error c => refuse c a
            | .ok (l, tl) =>
              set (s.cacheTlb s.th.hall? tl)
              match ← readLoc l sz with
              | .error c => refuse c a
              | .ok none =>
                markSent r.post 0
                pure false
              | .ok (some bs) =>
                put (BitVec.ofNat 32 (leNat bs))
                modify fun s => { s with th := s.th.modEntry r.post fun x => { x with sent := [] } }
                pure true
      | 4 =>
        put (ins.getLastD 0)
        pure true
      | _ =>
        put (BitVec.ofNat 32 (nodeResult n e.frm ins).val)
        pure true

/-- The writes of an iteration's store pipes: address and bytes. -/
def pipeWrites (f : Fabric) (r : FRun) (e : Entry) (t : Thread) : List (Word × List Byte) :=
  if r.fault.isSome then []
  else f.nodes.filterMap fun n =>
    if classOf (nodeNo n) = 4 then
      (nodeInputs f r t n).map fun ins => (pipeAddr e r n ins, leBytes (sizeOf (nodeType n)) (ins.getLastD 0).toNat)
    else none

/-- The flags of an iteration (R236). -/
def iterationFlags (f : Fabric) (r : FRun) (e : Entry) (t : Thread) : FFlags :=
  f.nodes.foldl (fun fl n => if classOf (nodeNo n) ≤ 2 then
      match nodeInputs f r t n with
      | some ins => fl ||| (nodeResult n e.frm ins).ff
      | none => fl
    else fl) 0

/-- The first store of an iteration that faults. -/
def pipeRefused (s : State) (ws : List (Word × List Byte)) : Option (Byte × Word) :=
  ws.findSome? fun (a, bs) => match elemLoc s 0 a bs.length bs.length .write with
    | .error c => some (c, a)
    | .ok _ => none

/-- The run is complete (R239, R241): the counter, the entry, and the fault a collective run kept. -/
def finishRun (r : FRun) : Act Unit := do
  modify fun s =>
    let s0 := if s.fabric.nodes.any fun n => classOf (nodeNo n) = 4 then s.drainOwn else s
    let f := s0.fabric
    let s1 := s0.setFabric { f with counter := r.n0 + r.count, runs := f.runs.filter fun x => !(x.tid = r.tid && x.post = r.post) }
    let done := match r.fault with
      | some (j, _, _) => j
      | none => r.count
    { s1 with th := s1.th.modEntry r.post fun e => { e.mark 0 with prog := done } }
  match r.fault with
  | some (_, c, va) => modify fun s => s.elemFault r.post c va
  | none => pure ()

/-- The end of an iteration: every node has fired and every collective element has returned; its stores, outputs, flags and carried
tokens take effect together (R239, R241). -/
def endIteration (r : FRun) (e : Entry) : Act Bool := do
  let s ← get
  let f := s.fabric
  let outs := (indexed f.binds).filterMap fun (i, b) => if bindKind b = 1 then some (bindReg b, tokenAt f r s.th (48 + i) 0) else none
  let collDone := (indexed f.binds).all fun (i, b) => bindKind b != 3 || (assocGet r.coll i).isSome
  let carried := (indexed f.edges).map fun (k, x) => if edgeCarried x then producedBy f r s.th (edgeSrc x) else f.tokens[k]?
  if !(f.nodes.all fun n => (assocGet r.fired (nodeNo n)).isSome) || !collDone || outs.any (fun o => o.2.isNone) ||
      carried.any (·.isNone) || s.th.held? e r.j || s.th.awaitsCheck 64 e none then pure false
  else
    let ws := pipeWrites f r e s.th
    if ws.any fun (a, bs) => mustFollow s (some r.post) a bs.length then pure false
    else
      match pipeRefused s ws with
      | some (c, a) => pipeFault r c a
      | none =>
        match ← writeRow false ws with
        | .error (c, a) => pipeFault r c a
        | .ok false =>
          markSent r.post 0
          pure false
        | .ok true =>
          let fl := iterationFlags f r e s.th
          let ahead := if s.th.frozen && !f.collective then [] else r.ahead
          modify fun s =>
            let t1 := outs.foldl (fun t (v, x) => t.putElem r.post v (t.tagBy (r.post + 1) v) r.j (x.getD 0).toNat) s.th
            let t2 := (t1.raise fl 0).modEntry r.post fun e => { e with prog := r.j + 1, sent := [] }
            let s1 := { s with th := t2 }
            let s2 := s1.setFabric { s1.fabric with tokens := carried.map fun x => x.getD 0 }
            s2.modRun r.post fun x =>
              { x with j := r.j + 1, coll := [], fired := ahead.filterMap fun (k, n, v) => if k = r.j + 1 then some (n, v) else none,
                       ahead := ahead.filter fun x => x.1 ≠ r.j + 1 }
          pure true

/-- A run may go on: the window is not frozen, or its iteration has started, or it has a collective binding (R72, R241). -/
def runMayGo (s : State) (r : FRun) : Bool := !s.th.frozen || r.fired != [] || s.fabric.collective

/-- Node `node` of the current thread's run fires in its next iteration: in the current one, or, with `ahead`, in a later one, as
far as the queues have room. -/
def fireNode (ahead : Bool) (node : Nat) : Act Bool := do
  let s ← get
  match s.currentRun with
  | none => pure false
  | some r =>
    match s.th.entry r.post, findNode s.fabric.nodes node with
    | some e, some n =>
      let d := r.next node - r.j
      if e.held.isNone && runMayGo s r && decide (r.next node < r.count) &&
          (d = 0 || (ahead && !s.th.frozen && carriedReady s.fabric r s.th node d && queuesHaveRoom s.fabric r node)) then fireNodeOf r e n d
      else pure false
    | _, _ => pure false

/-- The iteration or the run ends if it can. -/
def closeRun : Act Bool := do
  let s ← get
  match s.currentRun with
  | none => pure false
  | some r =>
    match s.th.entry r.post with
    | none => pure false
    | some e =>
      if r.count ≤ r.j then
        if e.held.isSome || (r.fault.isSome && s.th.frozen) then pure false
        else
          finishRun r
          pure true
      else if e.held.isNone && runMayGo s r then endIteration r e
      else pure false

/-- Fire what can fire among the nodes listed; whether anything did. -/
def fireNodes : List (BitVec 64) → Act Bool
  | [] => pure false
  | n :: r => do
    let a ← fireNode false (nodeNo n)
    let b ← fireNodes r
    pure (a || b)

/-- Passes over the nodes until nothing fires. -/
def firePasses : Nat → Act Bool
  | 0 => pure false
  | n + 1 => do
    if ← fireNodes (← get).fabric.nodes then
      let _ ← firePasses n
      pure true
    else pure false

/-- A run goes on by one iteration, or by the part of it that is ready. -/
def fireRun (post : Nat) : Act Bool := do
  match (← get).currentRun with
  | none => pure false
  | some r =>
    if r.post ≠ post then pure false
    else
      let a ← firePasses 50
      let b ← closeRun
      pure (a || b)

/-! ### Collective bindings (R244) -/

/-- Combine two elements by the operation (R237, R244). -/
def combine (et : EType) (cop a b : Nat) : Nat :=
  if et = 2 then
    match cop with
    | 0 => (a + b) % 2 ^ 32
    | 1 => minMaxRes 32 false true a b
    | 2 => minMaxRes 32 false false a b
    | 3 => bitRes 32 (· &&& ·) a b
    | 4 => bitRes 32 (· ||| ·) a b
    | _ => bitRes 32 (· ^^^ ·) a b
  else
    let w := widthOf et
    match cop with
    | 0 => (fAdd (fmtOf et) 0 a b).1
    | 1 => (fMinMax (fmtOf et) true a b).1
    | 2 => (fMinMax (fmtOf et) false a b).1
    | 3 => bitRes w (· &&& ·) a b
    | 4 => bitRes w (· ||| ·) a b
    | _ => bitRes w (· ^^^ ·) a b

/-- The combination in ascending member rank. -/
def combineAll (et : EType) (cop : Nat) : List (BitVec 32) → BitVec 32
  | [] => 0
  | v :: r => BitVec.ofNat 32 (r.foldl (fun a x => combine et cop a (inType et x)) (inType et v))

/-- The element of the current thread's run that waits at a collective binding: its value, if it has reached it. -/
def State.collWaiting (s : State) (bnd : Nat) : Option (FRun × BitVec 64 × BitVec 32) :=
  match s.currentRun with
  | none => none
  | some r =>
    let f := s.fabric
    match f.binds[bnd]? with
    | none => none
    | some b =>
      if bindKind b = 3 && (assocGet r.coll bnd).isNone && decide (r.j < r.count) then
        (tokenAt f r s.th (48 + bnd) 0).map fun v => (r, b, v)
      else none

/-- The unit returns a value for the waiting element. -/
def State.collReturn (s : State) (r : FRun) (bnd : Nat) (v : BitVec 32) : State :=
  s.modRun r.post fun x => { x with coll := x.coll ++ [(bnd, v)] }

end Sys2Proof.Machine
end

