-- ==== Sys2Proof/Machine/Seq.lean ====
section
/-! DEFINITION. The firing of any window entry (spec/01 R16), the settling of a window under the policy (log entry 4), instructions
that wait for their own entry (spec/07 R127), and the waits for earlier accesses (spec/05 R91, spec/16 R276). -/

namespace Sys2Proof.Machine

open Host (Outcome)

/-! ### Any unit -/

/-- Unit `u` of an entry of the current thread fires, if it is ready; whether it did. -/
def fireUnit (post u : Nat) : Act Bool := do
  let s ← get
  match s.th.entry post with
  | none => pure false
  | some e =>
    if e.complete || e.held.isSome then pure false
    else
      match vkey e.instr with
      | some (ma, mi, o) =>
        if ma = 0x64 then fireTile post
        else if e.units ≤ u || e.isDone u then pure false
        else if toX ma mi o && decide (u + 1 = e.units) && (s.th.awaitsCheck 64 e none || s.th.unchecked.any fun c => c.1 = post) then
          pure false
        else match fireV s.th e ma mi o u with
          | none => pure false
          | some t =>
            set { s with th := t }
            pure true
      | none =>
        if (loadKey e.instr).isSome then fireLoad post u
        else if (storeKey e.instr).isSome then fireStore post u
        else if (vamoKey e.instr).isSome then fireVamo post u
        else match e.instr with
          | .frun _ _ => fireRun post
          | .smatch _ _ _ _ _ => fireMatch post
          | _ => fireTile post

/-- The unit may fire: the window works, or the unit has started: it is in flight, or it is an iteration of a collective run some
of whose nodes have fired (R72, R241, R276, R310). -/
def State.mayFire (s : State) (post u : Nat) : Bool :=
  !s.th.stopped || ((s.th.entry post).any fun e => e.sent.contains u) ||
  s.fabric.runs.any fun r => r.tid == s.th.tid && r.post == post && r.fired != []

/-- One unit fires again and again until it cannot: steps, rows, iterations, pairs. -/
def fireMany (post u : Nat) : Nat → Act Bool
  | 0 => pure false
  | n + 1 => do
    if !(← get).mayFire post u then pure false
    else if ← fireUnit post u then
      let _ ← fireMany post u n
      pure true
    else pure false

/-- No unit of work repeats more often than a run's longest count (R239). -/
def manyFuel : Nat := 2 ^ 41

/-- Every unit of an entry that is ready fires. -/
def fireUnits (post : Nat) : List Nat → Act Bool
  | [] => pure false
  | u :: r => do
    let a ← fireMany post u manyFuel
    let b ← fireUnits post r
    pure (a || b)

def fireEntry (post : Nat) : Act Bool := do
  match (← get).th.entry post with
  | none => pure false
  | some e => fireUnits post (List.range e.units)

def fireEntries : List Nat → Act Bool
  | [] => pure false
  | p :: r => do
    let a ← fireEntry p
    let b ← fireEntries r
    pure (a || b)

/-- Passes over the window, oldest entry first, until nothing fires. -/
def settlePasses : Nat → Act Bool
  | 0 => pure false
  | n + 1 => do
    modify fun s => if s.th.window.any fun e => e.held.isSome then { s with th := s.th.retire } else s
    if ← fireEntries ((← get).th.window.map (·.post)) then
      let _ ← settlePasses n
      pure true
    else pure false

/-- Everything of the window that can fire does, and checks pass at once; the entries that are finished retire (log entry 4). -/
def settleWindow : Act Unit := do
  let moved ← settlePasses 65536
  modify fun s => { s with th := s.th.retire, stalled := s.stalled && !moved }

/-- What follows an executed instruction at once under the policy (log entry 4). -/
def settle (s : State) : Outcome State Fault Refusal :=
  if s.policy.fire && decide (s.th.run = .running) && !s.th.frozen && s.th.part.isSome && s.th.window != [] then runAct settleWindow s
  else .next s

/-! ### Instructions that wait for their own entry -/

/-- The thread waits for the entry with this post number, or goes on if it is complete; a trap taken meanwhile ends the
instruction. -/
def finishOwn (post : Nat) : Act Unit := do
  let s ← get
  if s.th.frozen then pure ()
  else
    let done : Bool := match s.th.entry post with
      | some e => e.complete
      | none => true
    if done then set { s with th := { s.th with await := none }.advance }
    else
      set { s with th := { s.th with await := some (.entry s.th.pc post) } }
      endWith .wait

/-- A format V instruction whose result goes to an x register (R127): it is posted, and the front end commits nothing after it
until the result is written. -/
def postAndWait (i : Instr) (post : Act Unit) : Act Unit := do
  notOnCore
  notFrozen
  let s ← get
  let fire := fun (p : Nat) => do
    if s.policy.fire then discard (fireEntry p) else pure ()
    finishOwn p
  match s.th.window.find? fun e => e.pc = s.th.pc && e.instr = i && !e.complete with
  | some e => fire e.post
  | none =>
    let waited : Bool := match s.th.await with
      | some (.entry pc _) => pc == s.th.pc
      | _ => false
    if waited then set { s with th := { s.th with await := none }.advance }
    else
      post
      fire (← get).th.posts

/-! ### Waiting for earlier accesses -/

/-- The entry has accesses to come: memory instructions, tile transfers, runs with pipes, merges. -/
def Entry.accesses (e : Entry) : Bool :=
  (memKey e.instr).isSome || (tmKey e.instr).isSome ||
  (match e.instr with
   | .frun _ _ => e.acc.contains 64 || e.acc.contains 65
   | .smatch _ _ _ _ _ => true
   | _ => false)

/-- The entry has accesses that must be waited for: while the window is frozen, only those that have started (R276). -/
def Entry.mustDrain (e : Entry) (frozen : Bool) : Bool :=
  !e.complete && e.accesses && (!frozen || e.sent != [] || e.formed != [])

/-- Serials of the thread whose operations are not complete; those of non-returning `vamo` only where they count. -/
def State.openSerials (s : State) (noReturn : Bool) : Bool :=
  match s.ctx s.th.ctx with
  | none => false
  | some c => c.out.any fun o => o.tid = s.th.tid && o.st == .awaiting && (noReturn || o.kind != 2)

/-- The window record of the thread stands only in its save area: its partition space was given away, and it has not taken `vrest`
(R286; log entry 19). -/
def Thread.windowAway (t : Thread) : Bool := t.part.isNone && !t.frozen && t.window.any fun e => !e.complete

/-- An instruction that waits for the window takes VOWN there. -/
def needWindow : Act Unit := do
  let s ← get
  if s.th.windowAway then trapWith cVOWN s.ownerArea else pure ()

/-- Wait until every earlier access of the thread is performed at device scope (R91); `noReturn` says whether non-returning trains
count (R104). -/
def needQuiet (noReturn : Bool) : Act Unit := do
  needWindow
  modify fun s => if s.th.frozen then s.sendAllFormed else s
  let s ← get
  if s.th.window.any (fun e => e.mustDrain s.th.frozen) || s.openSerials noReturn then endWith .wait
  else set s.drainOwn

/-- Wait until every vector and tile instruction of the window is complete, and every check of its elements has passed (R25,
R338). -/
def needEmpty : Act Unit := do
  needWindow
  let s ← get
  if (s.th.window.any fun e => !e.complete) || s.th.unchecked != [] then endWith .wait else pure ()

end Sys2Proof.Machine
end

