-- ==== Sys2Proof/Machine/Memory.lean ====
section
/-! DEFINITION. Scalar memory: loads, stores, atomics and `claim` (spec/05 R88–R95, spec/08 R145), vector length (R86, R143), and the
sync instructions and fences (spec/12 R213–R219). -/

namespace Sys2Proof.Machine

open Host (Outcome)

/-! ### Loads and stores -/

/-- Bytes of a load type and whether it is sign-extended (R88). -/
def loadShape (ty : BitVec 4) : Nat × Bool :=
  match ty.toNat with
  | 0 => (1, true)
  | 1 => (1, false)
  | 2 => (2, true)
  | 3 => (2, false)
  | 4 => (4, true)
  | 5 => (4, false)
  | _ => (8, false)

/-- An acquire discards the prefetched lines (R91); later accesses follow by program order. Whether it ends the current line's
snapshot too is said both ways (R91: it is kept; R213: `ld.acq` ends it); it is kept here (DESIGN CHOICE, log entry 69). -/
def acquire : Act Unit := modify fun s => { s with th := { s.th with prefetched := [] } }

/-- A scalar access follows the window's accesses to its bytes (R92). -/
def needFollow (a : Word) (n : Nat) : Act Unit := do
  if mustFollow (← get) none a n then endWith .wait else pure ()

/-- Read a located scalar range (R90, R299). -/
def loadAt (l : Loc) (ea : Word) (n : Nat) : Act (List Byte) := do
  match ← readLoc l n with
  | .error c => refusedWith c ea
  | .ok none => awaitAccess
  | .ok (some bs) =>
    gotAccess
    pure bs

/-- Write a located scalar range. -/
def storeAt (l : Loc) (ea : Word) (bs : List Byte) : Act Unit := do
  match ← writePieces false [(l, bs.length)] bs with
  | .error c => refusedWith c ea
  | .ok false => awaitAccess
  | .ok true => gotAccess

/-- A register's value from loaded bytes. -/
def loadedValue (n : Nat) (sgn : Bool) (bs : List Byte) : Word := if sgn then sextTo64 (8 * n) (leWord bs) else leWord bs

/-- Bytes at another device whose owner has granted the access (R207, R299). -/
def State.peerBytes (s : State) (dev : BitVec 14) (pa n : Nat) : List Byte := ((s.peer dev).map fun p => memRead p.mem pa n).getD []

/-- A load or store that has been committed is performed: the bytes are read or written (R207, R212). -/
def performLoad (k : Nat) : Act Unit := do
  match (← get).th.loads[k]? with
  | none => pure ()
  | some l =>
    match l.data, l.dev with
    | some bs, none => storePlain l.pa bs
    | some bs, some dev => modify fun s => match s.peer dev with
      | some p => s.setPeer { p with mem := memWrite p.mem l.pa bs }
      | none => s
    | none, none =>
      let bs ← loadHere l.pa l.n
      modify fun s => { s with th := s.th.setX l.d (loadedValue l.n l.sgn bs) }
    | none, some dev => modify fun s => { s with th := s.th.setX l.d (loadedValue l.n l.sgn (s.peerBytes dev l.pa l.n)) }
    modify fun s => { s with th := { s.th with loads := s.th.loads.eraseIdx k } }

/-- May an access at a location be performed later (R207, R212): the policy leaves it open, and the owner has answered. Nothing
where it is performed in program order, as in a device's registers. -/
def mayDefer (l : Loc) (ea : Word) (n : Nat) (wr : Bool) : Act (Option (Option (BitVec 14) × Nat)) := do
  let s ← get
  if s.policy.order then return none
  match l with
  | .here pa => return if paKind pa = .reg then none else some (none, pa)
  | .away dev pa =>
    match s.remoteMay dev pa n (!wr) wr with
    | .silent => awaitAccess
    | .fault c => refusedWith c ea
    | .bytes _ =>
      gotAccess
      return some (some dev, pa)

/-- Every access that the thread has committed is performed. -/
def performLoads : Nat → Act Unit
  | 0 => pure ()
  | n + 1 => do
    performLoad 0
    performLoads n

/-- LD (R88, R90–R92). Without `acq` it need not be performed in program order (R207, R212): unless the policy says so, a load of
memory is committed and performed later. -/
def execLd (d b : XReg) (off : BitVec 21) (ty : BitVec 4) (acq : Bool) (s : State) : Outcome State Fault Refusal :=
  runAct (do
    let ea := s.getX b + off.signExtend 64
    let (n, sg) := loadShape ty
    needAlign ea n
    let l ← xlate ea .read
    needFollow ea n
    match ← (if acq || d == 0 then pure none else mayDefer l ea n false) with
    | some (dev, pa) =>
      modify fun (s : State) => { s with th := { s.th with loads := s.th.loads ++ [{ d := d, dev := dev, pa := pa, n := n, sgn := sg, data := none }] } }
      advanceAct
    | none =>
      let bs ← loadAt l ea n
      if acq then acquire else pure ()
      retX d (loadedValue n sg bs)) s

/-- ST (R89–R92). Without `rel` it may be performed later, as a load may. -/
def execSt (v b : XReg) (off : BitVec 21) (ty : BitVec 4) (rel : Bool) (s : State) : Outcome State Fault Refusal :=
  runAct (do
    let ea := s.getX b + off.signExtend 64
    let n := 2 ^ ty.toNat
    needAlign ea n
    let l ← xlate ea .write
    if rel then needQuiet true else pure ()
    needFollow ea n
    let bs := leBytes n (s.getX v).toNat
    match ← (if rel then pure none else mayDefer l ea n true) with
    | some (dev, pa) =>
      modify fun (s : State) => { s with th := { s.th with loads := s.th.loads ++ [{ d := 0, dev := dev, pa := pa, n := n, sgn := false, data := some bs }] } }
    | none => storeAt l ea bs
    advanceAct) s

/-! ### Atomics (R93–R95) -/

/-- A scalar atomic: minor of R56, destination, address, operand, new value of `cas`. -/
def amoAct (minor : Nat) (d a b n : XReg) (o : AmoOp) : Act Unit := do
  carried
  let s ← get
  let ea := s.getX a
  let w := if o.w = 3 then 64 else 32
  needAlign ea (w / 8)
  let l ← xlate ea .both
  if o.rel then needQuiet true else pure ()
  needFollow ea (w / 8)
  let x := (s.getX b).toNat
  let y := (s.getX n).toNat
  match l with
  | .here pa =>
    let old ← amoHere pa (w / 8) fun old => amoNew minor w old x y
    if o.acq then acquire else pure ()
    retX d (sextTo64 w (BitVec.ofNat 64 old))
  | .away dev pa =>
    if o.acq then acquire else pure ()
    remoteScalar dev ea { Request.blank with
      op := BitVec.ofNat 4 minor, cls := .amo, w64 := o.w = 3,
      elems := [{ addr := pa, data := BitVec.ofNat 64 (x % 2 ^ w), dataB := BitVec.ofNat 64 (y % 2 ^ w), dataC := 0 }] } d 0

/-- AMO_SWAP (R94). -/
def execAmoSwap (d a b : XReg) (o : AmoOp) (s : State) : Outcome State Fault Refusal := runAct (amoAct 0 d a b 0 o) s

/-- AMO_ADD (R94). -/
def execAmoAdd (d a b : XReg) (o : AmoOp) (s : State) : Outcome State Fault Refusal := runAct (amoAct 1 d a b 0 o) s

/-- AMO_AND (R94). -/
def execAmoAnd (d a b : XReg) (o : AmoOp) (s : State) : Outcome State Fault Refusal := runAct (amoAct 2 d a b 0 o) s

/-- AMO_OR (R94). -/
def execAmoOr (d a b : XReg) (o : AmoOp) (s : State) : Outcome State Fault Refusal := runAct (amoAct 3 d a b 0 o) s

/-- AMO_XOR (R94). -/
def execAmoXor (d a b : XReg) (o : AmoOp) (s : State) : Outcome State Fault Refusal := runAct (amoAct 4 d a b 0 o) s

/-- AMO_MIN (R94). -/
def execAmoMin (d a b : XReg) (o : AmoOp) (s : State) : Outcome State Fault Refusal := runAct (amoAct 5 d a b 0 o) s

/-- AMO_MAX (R94). -/
def execAmoMax (d a b : XReg) (o : AmoOp) (s : State) : Outcome State Fault Refusal := runAct (amoAct 6 d a b 0 o) s

/-- AMO_MIN_N (R94). -/
def execAmoMinN (d a b : XReg) (o : AmoOp) (s : State) : Outcome State Fault Refusal := runAct (amoAct 7 d a b 0 o) s

/-- AMO_MAX_N (R94). -/
def execAmoMaxN (d a b : XReg) (o : AmoOp) (s : State) : Outcome State Fault Refusal := runAct (amoAct 8 d a b 0 o) s

/-- AMO_CAS (R94). -/
def execAmoCas (d a e n : XReg) (o : AmoOp) (s : State) : Outcome State Fault Refusal := runAct (amoAct 9 d a e n o) s

/-! ### Vector length (R36, R86, R143) -/

/-- The block length of a vtype (R36): 16 for a bx type under block code 0. -/
def blockLen (vtype : BitVec 8) : Nat :=
  match (vtype.extractLsb' 4 3).toNat with
  | 0 => if isBx (vtype.setWidth 4) then 16 else 1
  | 1 => 16
  | 2 => 32
  | _ => 64

/-- A limited request rounded down to whole blocks (R86). -/
def roundVl (lim blen : Nat) : Nat := if lim < blen then lim else lim - lim % blen

/-- SETVL (R86). -/
def execSetvl (d a : XReg) (vt : BitVec 8) (s : State) : Outcome State Fault Refusal :=
  runAct (do
    notOnCore
    if isBx (vt.setWidth 4) then needFeature 2 else pure ()
    waitTrims
    let vl := roundVl (min (s.getX a).toNat s.th.grant) (blockLen vt)
    modify fun s => { s with th := { s.th with vl := vl, vtype := vt } }
    retX d (BitVec.ofNat 64 vl)) s

/-- One pointer of `strip` advances by vl elements (R143). -/
def stripPtr (t : Thread) (p : XReg) (n : Nat) (e : BitVec 2) : Thread :=
  if p = 0 then t else t.setX p (t.getX p + BitVec.ofNat 64 (n * 2 ^ e.toNat))

/-- The registers and vl after `strip` (R143). -/
def stripRegs (t : Thread) (c : XReg) (o : StripOp) : Thread :=
  let n := t.vl
  let r := (t.getX c).toNat - n
  let t1 := t.setX c (BitVec.ofNat 64 r)
  let t2 := stripPtr (stripPtr (stripPtr (stripPtr t1 o.p1 n o.e1) o.p2 n o.e2) o.p3 n o.e3) o.p4 n o.e4
  { t2 with vl := roundVl (min r t.grant) (blockLen t.vtype) }

/-- Where control goes after `strip`. -/
def stripGo (t : Thread) (c : XReg) (o : StripOp) : Thread :=
  let pc := t.pc
  if t.getX c ≠ 0 then t.enter (pc + 2 * o.off.signExtend 64) else t.advance

/-- CLAIM (R145, R146): on a tile thread limited to whole blocks within G, on a core to what remains. -/
def execClaim (d req c : XReg) (s : State) : Outcome State Fault Refusal :=
  runAct (do
    carried
    waitTrims
    let t := s.th
    let ea := s.getX c
    needAlign ea 16
    let l ← xlate ea .both
    needFollow ea 16
    let r := (s.getX req).toNat
    let lim := if t.isCore then 2 ^ 64 - 1 else t.grant
    let blen := if t.isCore then 1 else blockLen t.vtype
    match l with
    | .here pa =>
      let old ← rmwHere pa 16 fun v =>
        some (v + claimGrant (v % 2 ^ 64) (v / 2 ^ 64) r lim blen)
      let g := claimGrant (old % 2 ^ 64) (old / 2 ^ 64) r lim blen
      modify fun s =>
        let t1 := (s.th.setX d (BitVec.ofNat 64 old)).setX req (BitVec.ofNat 64 g)
        { s with th := (if t.isCore then t1 else { t1 with vl := g }).advance }
    | .away dev pa =>
      remoteScalar dev ea { Request.blank with
        op := 0, cls := .claim, w64 := true,
        elems := [{ addr := pa, data := s.getX req, dataB := BitVec.ofNat 64 lim, dataC := BitVec.ofNat 64 blen }] } d req) s

/-! ### Fences (R213) -/

/-- The current thread's queued writes that `p` names are performed at a scope (R209): code 1 nothing, 2 in the hall's write
buffer, above at their homes; earlier writes to their bytes go before them. On a core nothing is queued. -/
def State.moveOwn (s : State) (sc : Nat) (p : Write → Bool) : State :=
  let mine := fun (w : Write) => w.tid = s.th.tid && p w
  match s.th.place with
  | none => s
  | some (h, t) =>
    if sc ≤ 1 then s
    else if sc = 2 then
      let q := pullWrites mine (s.tile h t).stores
      let s1 := s.setHall h { s.hall h with buffer := (s.hall h).buffer ++ q.1 }
      s1.setTile h t { s1.tile h t with stores := q.2 }
    else s.drainWhere h t mine

/-- The thread's writes are performed at hall scope (R209). -/
def State.toHall (s : State) : State := s.moveOwn 2 fun _ => true

/-- The thread's earlier accesses are performed at a scope (R209): codes 1 tile, 2 hall, 3 device, 4 system. On a core, tile and
hall act as device. -/
def performAt (sc : Nat) : Act Unit := do
  needWindow
  modify fun s => if s.th.frozen then s.sendAllFormed else s
  let s ← get
  if s.th.window.any (fun e => e.mustDrain s.th.frozen) || s.openSerials true then endWith .wait
  else if sc = 1 then pure ()
  else if sc = 2 then set s.toHall
  else set s.drainOwn

/-- FENCE (R213). -/
def execFence (sc : BitVec 8) (s : State) : Outcome State Fault Refusal :=
  runAct (do
    performAt sc.toNat
    advanceAct) s

/-! ### Sync objects (R214–R219) -/

/-- A binding of the context's table (R216, R284). -/
structure Binding where
  obj   : Word
  base  : Word
  len   : Word
  scope : Nat
  deriving DecidableEq, Repr

/-- The physical address of binding entry `i` of the current context (R284; log entry 13). -/
def State.bindEntry (s : State) (i : Nat) : Option Nat :=
  match s.ctx s.th.ctx with
  | none => none
  | some c => s.paOf c.ctxid 1 (c.bindtab + BitVec.ofNat 64 (32 * i)) .both

/-- Binding entry `i`, if it is valid. -/
def State.bindingAt (s : State) (i : Nat) : Option Binding :=
  match s.bindEntry i with
  | none => none
  | some pa =>
    let b := memRead s.mem pa 32
    if fieldAt b 25 1 = 0 then none
    else some { obj := leWord (bytesAt b 0 8), base := leWord (bytesAt b 8 8), len := leWord (bytesAt b 16 8), scope := fieldAt b 24 1 }

/-- The valid bindings with their places. -/
def State.bindings (s : State) : List (Nat × Binding) :=
  (List.range 64).filterMap fun i => (s.bindingAt i).map fun b => (i, b)

/-- Write an entry (R284). -/
def State.putBinding (s : State) (i : Nat) (b : Binding) (valid : Bool) : State :=
  match s.bindEntry i with
  | none => s
  | some pa => s.apply pa (leBytes 8 b.obj.toNat ++ leBytes 8 b.base.toNat ++ leBytes 8 b.len.toNat ++ leBytes 1 b.scope ++
      leBytes 1 (if valid then 1 else 0) ++ leBytes 6 0)

/-- The object of a sync instruction (R215): ALIGN, the faults of R90, PROT for another device's page. -/
def objectAt (a : Word) : Act Nat := do
  needAlign a 16
  match ← xlate a .both with
  | .here pa => pure pa
  | .away _ _ => trapWith cPROT a

/-- BIND (R216). -/
def execBind (obj base len : XReg) (sc : BitVec 8) (s : State) : Outcome State Fault Refusal :=
  runAct (do
    let b : Binding := { obj := s.getX obj, base := s.getX base, len := s.getX len, scope := sc.toNat }
    if b.len = 0 ∨ 2 ^ 56 < b.base.toNat + b.len.toNat then illegal else pure ()
    let _ ← objectAt b.obj
    let s ← get
    let l := s.bindings
    match l.find? fun (_, x) => x.obj = b.obj && x.base = b.base && x.len = b.len with
    | some (i, _) => set (s.putBinding i b true)
    | none =>
      match (List.range 64).find? fun i => (s.bindingAt i).isNone with
      | some i => set (s.putBinding i b true)
      | none => trapWith cPROT b.obj
    advanceAct) s

/-- UNBIND (R216). -/
def execUnbind (obj : XReg) (_ : BitVec 8) (s : State) : Outcome State Fault Refusal :=
  runAct (do
    let o := s.getX obj
    let _ ← objectAt o
    modify fun s => (s.bindings.filter fun (_, b) => b.obj = o).foldl (fun s (i, b) => s.putBinding i b false) s
    advanceAct) s

/-- The context runs under revision-1 strengthening (R219). -/
def Thread.strong (t : Thread) : Bool := t.rc

/-- Some earlier access of the thread to a byte of a region is not performed (R217). -/
def regionBusy (s : State) (b : Binding) : Bool :=
  (s.th.window.any fun e => (!s.th.frozen || e.sent != []) && meetsPending s (pendingOf s.th e) b.base b.len.toNat) ||
  (match s.ctx s.th.ctx with
   | none => false
   | some c => c.out.any fun o => o.tid = s.th.tid && o.st == .awaiting &&
       o.va.any fun a => mayMeet s a (reqSize o.req) b.base b.len.toNat)

/-- The places of a range of addresses, page by page; the fuel bounds the pages. -/
def State.rangePlaces (s : State) : Nat → Word → Nat → List (Option Loc × Nat)
  | 0, _, _ => []
  | f + 1, a, n =>
    if n = 0 then []
    else
      let k := min n (2 ^ 14 - a.toNat % 2 ^ 14)
      (s.somewhere a, k) :: s.rangePlaces f (a + BitVec.ofNat 64 k) (n - k)

/-- The pages that a table maps: virtual address, size, leaf (R278). -/
def pagesOf (m : Memory) : List Nat → Nat → Nat → List (Nat × Nat × BitVec 64)
  | [], _, _ => []
  | sh :: r, table, va =>
    let places := ((m.filter fun c => decide (table ≤ c.1) && decide (c.1 < table + 2 ^ 14)).map fun c => c.1 / 8).eraseDups
    places.flatMap fun i =>
      let e := leWord (memRead m (8 * i) 8)
      let a := va + (i - table / 8) * 2 ^ sh
      if !e.getLsbD 0 then [] else if e.getLsbD 1 then [(a, 2 ^ sh, e)] else pagesOf m r (entryBase e) a

/-- The parts of this device's memory, and of others', that a long range of addresses names: by the pages that the context maps. -/
def State.mappedPlaces (s : State) (base n : Nat) : List (Option Loc × Nat) :=
  if s.th.pl = 3 then [(some (.here base), n)]
  else match s.ctx s.th.ctx with
    | none => []
    | some c => (pagesOf s.mem [47, 36, 25, 14] c.ptroot 0).filterMap fun (a, k, e) =>
        let lo := max a base
        let hi := min (a + k) (base + n)
        if hi ≤ lo then none
        else match leafLoc s.hiend.id true e (Nat.log2 k) lo with
          | .ok l => some (some l, hi - lo)
          | .error _ => none

/-- The places of a region: page by page, or for a long one by the pages that are mapped. -/
def State.regionPlaces (s : State) (b : Binding) : List (Option Loc × Nat) :=
  if 2 ^ 24 < b.len.toNat then s.mappedPlaces b.base.toNat b.len.toNat else s.rangePlaces 1026 b.base b.len.toNat

/-- Bytes at a place are of a bound region (R217). -/
def State.placeIn (s : State) (b : Binding) (l : Loc) (n : Nat) : Bool := (s.regionPlaces b).any fun (x, k) => sharesByte x k (some l) n

/-- A queued write is to a byte of a bound region (R217). -/
def State.inRegion (s : State) (b : Binding) (w : Write) : Bool := s.placeIn b (.here w.pa) w.bytes.length

/-! ### Accesses to come (R207, R212) -/

/-- The x registers of an instruction that an access to come need not precede; nothing for every other instruction. -/
def touches (i : Instr) : Option (List XReg) :=
  match vkey i with
  | some (ma, mi, o) => some ((match o.src2 with
      | .x r => [r]
      | _ => []) ++ if toX ma mi o then [o.vd.setWidth 6] else [])
  | none =>
  match memKey i with
  | some (m, o) => some (o.base :: (if m = 1 then [o.idx] else []) ++ if o.nt then [o.aux] else [])
  | none =>
  match i with
  | .ld d b _ _ _ => some [d, b]
  | .st v b _ _ false => some [v, b]
  | .amoSwap d a b o | .amoAdd d a b o | .amoAnd d a b o | .amoOr d a b o | .amoXor d a b o | .amoMin d a b o | .amoMax d a b o
  | .amoMinN d a b o | .amoMaxN d a b o => if o.rel then none else some [d, a, b]
  | .amoCas d a e n o => if o.rel then none else some [d, a, e, n]
  | .claim d r c => some [d, r, c]
  | .add d a b | .sub d a b | .and d a b | .or d a b | .xor d a b | .sll d a b | .srl d a b | .sra d a b | .slt d a b | .sltN d a b
  | .mul d a b | .mulh d a b | .mulhN d a b | .div d a b | .divN d a b | .rem d a b | .remN d a b | .min d a b | .max d a b
  | .minN d a b | .maxN d a b | .andn d a b | .orn d a b => some [d, a, b]
  | .clz d a | .ctz d a | .cpop d a | .sext8 d a | .sext16 d a | .sext32 d a | .zext32 d a => some [d, a]
  | .addi d a _ | .andi d a _ | .ori d a _ | .xori d a _ | .slli d a _ | .srli d a _ | .srai d a _ | .slti d a _ => some [d, a]
  | .li d _ | .adr d _ | .jal d _ => some [d]
  | .jalr d a _ | .setvl d a _ => some [d, a]
  | .beq a b _ | .bne a b _ | .blt a b _ | .bge a b _ | .bltN a b _ | .bgeN a b _ => some [a, b]
  | .strip c o => some [c, o.p1, o.p2, o.p3, o.p4]
  | .tmma o | .tmms o => some [o.xrow, o.xcol, o.xdep]
  | .tld o | .tst o => some [o.xd, o.xcols, o.xrows, o.stride, o.base]
  | .tmovr _ _ r | .tmvr _ _ r => some [r]
  | .nop | .tzero _ => some []
  | _ => none

/-- The address and size of a scalar access. -/
def scalarRange (s : State) : Instr → Option (Word × Nat)
  | .ld _ b off ty _ => some (s.getX b + off.signExtend 64, (loadShape ty).1)
  | .st _ b off ty _ => some (s.getX b + off.signExtend 64, 2 ^ ty.toNat)
  | .amoSwap _ a _ o | .amoAdd _ a _ o | .amoAnd _ a _ o | .amoOr _ a _ o | .amoXor _ a _ o | .amoMin _ a _ o | .amoMax _ a _ o
  | .amoMinN _ a _ o | .amoMaxN _ a _ o | .amoCas _ a _ _ o => some (s.getX a, if o.w = 3 then 8 else 4)
  | .claim _ _ c => some (s.getX c, 16)
  | .acq _ o _ _ => some (s.getX o, 8)
  | .rel o _ => some (s.getX o, 16)
  | _ => none

/-- An access to come must be performed before an instruction that names some registers: it writes one of them, or touches one of
the instruction's bytes (R212). -/
def DLoad.precedes (l : DLoad) (s : State) (rs : List XReg) (i : Instr) : Bool :=
  (l.data.isNone && rs.contains l.d) || (match scalarRange s i with
    | some (a, n) => sharesByte (s.somewhere a) n (some l.loc) l.n
    | none => false)

/-- The access that must be performed before an instruction: the oldest that precedes it; the oldest of all where `touches` gives
nothing. `rel` waits for those of its object's regions (R217), unless the context is strengthened (R219). -/
def loadBefore (s : State) (i : Instr) : Option Nat :=
  let oldest := if s.th.loads = [] then none else some 0
  match i with
  | .rel o _ =>
    if s.th.strong then oldest
    else
      let bs := (s.bindings.map (·.2)).filter fun b => b.obj = s.getX o
      s.th.loads.findIdx? fun l => l.precedes s [o] i || bs.any fun b => s.placeIn b l.loc l.n
  | .acq d o m _ => if s.th.strong then oldest else s.th.loads.findIdx? fun l => l.precedes s [d, o, m] i
  | i => match touches i with
    | none => oldest
    | some rs => s.th.loads.findIdx? fun l => l.precedes s rs i

/-- The queued writes of other threads than `tid` to an object are free in the object's bytes; the numbers of the free values go
on from `fr`. -/
def looseWrites (tid pa : Nat) : List Write → Nat → List Write × Nat
  | [], fr => ([], fr)
  | w :: r, fr =>
    let (r1, fr1) := looseWrites tid pa r (fr + w.bytes.length)
    let loose := fun (i : Nat) => if pa ≤ w.pa + i ∧ w.pa + i < pa + 16 then Config.freeByte (fr + i) else w.bytes.getD i 0
    ((if w.tid ≠ tid ∧ w.within pa 16 then { w with bytes := (List.range w.bytes.length).map loose } else w) :: r1, fr1)

/-- The fields of an object become unpredictable where another thread's store races with the release or acquire (R214, R7): those
at the home, and what the store brings there later. -/
def State.raceObject (s : State) (races : Bool) (pa : Nat) : State :=
  if races then
    let s1 := { s.apply pa (s.freeBytes 16) with fresh := s.fresh + 16 }
    let s2 := s1.tiles.foldl (fun s (k, x) =>
      let (q, fr) := looseWrites s.th.tid pa x.stores s.fresh
      { s.setTile k.1 k.2 { x with stores := q } with fresh := fr }) s1
    s2.halls.foldl (fun s (h, x) =>
      let (q, fr) := looseWrites s.th.tid pa x.buffer s.fresh
      { s.setHall h { x with buffer := q } with fresh := fr }) s2
  else s

/-- REL (R217, R219): the waits for the bound regions, whose queued writes reach their scopes, then the object's three fields
change at its home. -/
def execRel (obj : XReg) (sc : BitVec 8) (s : State) : Outcome State Fault Refusal :=
  runAct (do
    let o := s.getX obj
    let pa ← objectAt o
    if s.th.strong then needQuiet true else pure ()
    modify fun s => if s.th.frozen then s.sendAllFormed else s
    needFollow o 16
    let s ← get
    let bs := (s.bindings.map (·.2)).filter fun b => b.obj = o
    if bs.any (regionBusy s) then endWith .wait else pure ()
    if s.touchesBad pa 16 then endWith (.abort (some pa)) else pure ()
    let widest := bs.foldl (fun w b => max w (max sc.toNat b.scope)) sc.toNat
    let races := s.writeUnderway pa 16
    modify fun s => bs.foldl (fun s b => s.moveOwn (max sc.toNat b.scope) (s.inRegion b)) s
    modify fun s =>
      let (old, s1) := (s.drainAt pa 16).homeRead pa 8
      (s1.homeWrite s1.th.pl pa (leBytes 8 (leNat old + 1) ++ leBytes 4 (s1.th.ident.setWidth 32).toNat ++ leBytes 4 widest)).raceObject
        races pa
    advanceAct) s

/-- ACQ (R218, R219). -/
def execAcq (d obj min : XReg) (_ : BitVec 8) (s : State) : Outcome State Fault Refusal :=
  runAct (do
    let o := s.getX obj
    let pa ← objectAt o
    needFollow o 8
    let races := (← get).writeUnderway pa 16
    modify fun s => (s.drainAt pa 16).raceObject races pa
    let s1 ← get
    if s1.touchesBad pa 8 then endWith (.abort (some pa)) else pure ()
    let (bs, s2) := s1.homeRead pa 8
    set s2
    let seq := leWord bs
    if seq.toNat < (s.getX min).toNat then
      set { s2 with th := { s2.th with await := some (.object s2.th.pc pa) } }
      endWith .wait
    else set { s2 with th := { s2.th with await := none } }
    if s.th.strong then needQuiet true else pure ()
    acquire
    retX d seq) s

end Sys2Proof.Machine
end

