-- ==== Sys2Proof/Machine/Control.lean ====
section
/-! DEFINITION. Control registers (spec/04 R63, R64; spec/05 R87; spec/16 R274), traps and returns (R57, R276, R292, R294),
`fence.i` (R102), translation removal (R293), and `getid` (spec/15 R264). -/

namespace Sys2Proof.Machine

open Host (Outcome)

/-! ### Control registers -/

/-- What a register number names. -/
inductive CReg where
  | vl | vtype | grant | fsr | fcsr | lsat | kstep | zrow | rstat
  | status | trapvec | trapcause | trappc | trapval | winrec | vowner | ctxid | ptroot | mmmode | bindtab | sscratch
  | rvid | serialnext | serialack | feat0 | featen0
  deriving DecidableEq, Repr

/-- The assigned numbers (R63, R274). -/
def cregOf (n : BitVec 12) : Option CReg :=
  match n.toNat with
  | 0x000 => some .vl
  | 0x001 => some .vtype
  | 0x002 => some .grant
  | 0x003 => some .fsr
  | 0x004 => some .fcsr
  | 0x005 => some .lsat
  | 0x006 => some .kstep
  | 0x007 => some .zrow
  | 0x008 => some .rstat
  | 0x100 => some .status
  | 0x101 => some .trapvec
  | 0x102 => some .trapcause
  | 0x103 => some .trappc
  | 0x104 => some .trapval
  | 0x105 => some .winrec
  | 0x106 => some .vowner
  | 0x107 => some .ctxid
  | 0x108 => some .ptroot
  | 0x109 => some .mmmode
  | 0x10A => some .bindtab
  | 0x10B => some .sscratch
  | 0x110 => some .rvid
  | 0x111 => some .serialnext
  | 0x112 => some .serialack
  | 0x120 => some .feat0
  | 0x121 => some .featen0
  | _ => none

/-- ILL on a core (R59). -/
def CReg.tileOnly : CReg → Bool
  | .vl | .vtype | .grant | .kstep | .zrow => true
  | _ => false

/-- A `cwr` raises ILL (R63, R274). -/
def CReg.readOnly : CReg → Bool
  | .vl | .vtype | .grant | .kstep | .zrow | .winrec | .ctxid | .ptroot | .mmmode | .bindtab | .rvid | .serialnext | .serialack
  | .feat0 => true
  | _ => false

/-- All six features (spec/00 R1). -/
def features : BitVec 6 := 0x3F

/-- Progress of the tile operation that is stopped part-way (R64, R200): `k` for a rank-one operation, else for rows. Of a thread
that has resumed without its partition, whose record stands in its save area until its `vrest`, the rule does not speak: it reads
0 (DESIGN CHOICE, log entry 80). `zrow` has five bits, and a `tld` of a weight bank moves up to 512 rows: the low bits of its row
are read (R63, R198; DESIGN CHOICE, log entry 80). -/
def Thread.partway (t : Thread) (k : Bool) : Nat :=
  if !t.frozen then 0
  else
    match t.window.find? fun e => !e.complete && isTileInstr e.instr && decide (0 < e.prog) && (tmKey e.instr).isNone == k with
    | some e => e.prog
    | none => 0

/-- `status` as a word (R274). -/
def Thread.statusWord (t : Thread) : Word :=
  let r := t.tregs
  t.pl.setWidth 64 ||| (r.ppl.setWidth 64 <<< 2) ||| (if r.ie then 0x10 else 0) ||| (if r.pie then 0x20 else 0)

/-- The context registers of the current thread, or zeros while it has no context. -/
def State.ctxReg (s : State) (f : Ctx → Word) : Word := match s.ctx s.th.ctx with
  | some c => f c
  | none => 0

/-- The value a `crd` returns. -/
def State.readCreg (s : State) (r : CReg) : Word :=
  let t := s.th
  match r with
  | .vl => BitVec.ofNat 64 t.vl
  | .vtype => t.vtype.setWidth 64
  | .grant => BitVec.ofNat 64 t.grant
  | .fsr => t.fsr.setWidth 64
  | .fcsr => t.fcsr.setWidth 64
  | .lsat => t.lsat.setWidth 64
  | .kstep => BitVec.ofNat 64 (t.partway true)
  | .zrow => BitVec.ofNat 64 (t.partway false % 32)
  | .rstat => (if t.stall then 1 else 0) ||| (if t.remind then 2 else 0) |||
      (s.ctxReg fun c => BitVec.ofNat 64 (min c.outstanding 65536 * 2 ^ 15))
  | .status => t.statusWord
  | .trapvec => t.tregs.vec
  | .trapcause => t.tregs.cause
  | .trappc => t.tregs.epc
  | .trapval => t.tregs.val
  | .winrec => t.winrec
  | .vowner => t.vowner
  | .ctxid => t.ctx.setWidth 64
  | .ptroot => s.ctxReg fun c => BitVec.ofNat 64 (c.ptroot % 2 ^ 48 / 2 ^ 14 * 2 ^ 14)
  | .mmmode => if t.rc then 1 else 0
  | .bindtab => s.ctxReg fun c => c.bindtab
  | .sscratch => t.sscratch
  | .rvid => s.ctxReg fun c => c.rvid.setWidth 64
  | .serialnext => s.ctxReg fun c => c.serialnext.setWidth 64
  | .serialack => s.ctxReg fun c => c.serialack.setWidth 64
  | .feat0 => features.setWidth 64
  | .featen0 => (t.featen0 &&& features).setWidth 64

/-- The new previous level of a `status` write (R273): 2 is ignored; 3 only a core at M may write. -/
def newPpl (t : Thread) (v : BitVec 2) : BitVec 2 :=
  if v = 2 ∨ (v = 3 ∧ !(t.isCore ∧ t.pl = 3)) then t.tregs.ppl else v

/-- A `cwr` of a register that may be written; reserved bits are ignored. -/
def Thread.writeCreg (t : Thread) (r : CReg) (v : Word) : Thread :=
  let g := t.tregs
  match r with
  | .fsr => { t with fsr := v.setWidth 25 }
  | .fcsr => { t with fcsr := v.setWidth 7 }
  | .lsat => { t with lsat := v.setWidth 3 }
  | .rstat => { t with remind := v.getLsbD 1 }
  | .status => t.setTregs { g with ppl := newPpl t (v.extractLsb' 2 2), ie := v.getLsbD 4, pie := v.getLsbD 5 }
  | .trapvec => t.setTregs { g with vec := v &&& ~~~(0x3F : Word) }
  | .trapcause => t.setTregs { g with cause := v &&& 0x1F01FF }
  | .trappc => t.setTregs { g with epc := v }
  | .trapval => t.setTregs { g with val := v }
  | .vowner => { t with vowner := v }
  | .sscratch => { t with sscratch := v }
  | .featen0 => { t with featen0 := v.setWidth 6 }
  | _ => t

/-- The checks of a `crd` or `cwr` in the order of R60: ILL, then PRIV. -/
def cregCheck (n : BitVec 12) (write : Bool) : Act CReg := do
  let s ← get
  match cregOf n with
  | none => illegal
  | some r =>
    if (s.th.isCore && r.tileOnly) || (write && r.readOnly) then illegal
    else if decide (0x100 ≤ n.toNat) && s.th.pl == 0 then trapWith cPRIV s.codeVal
    else if write && r == .featen0 && s.th.pl != 3 then trapWith cPRIV s.codeVal
    else pure r

/-- Flags are read and written after every earlier vector and tile instruction (R25). -/
def cregWait (r : CReg) (write : Bool) : Act Unit :=
  if r = .fcsr ∨ r = .lsat then needEmpty
  else if !write && (r == .vl || r == .fsr) then waitTrims
  else pure ()

/-- CRD (R87). -/
def execCrd (d : XReg) (n : BitVec 12) (s : State) : Outcome State Fault Refusal :=
  runAct (do
    let r ← cregCheck n false
    cregWait r false
    let s ← get
    retX d (s.readCreg r)) s

/-- CWR (R87). -/
def execCwr (n : BitVec 12) (a : XReg) (s : State) : Outcome State Fault Refusal :=
  runAct (do
    let r ← cregCheck n true
    cregWait r true
    modify fun s => { s with th := (s.th.writeCreg r (s.getX a)).advance }) s

/-! ### Undefined encodings -/

/-- UDF (R57): ILL with the head and the low 48 bits of the tail. -/
def execUdf (_ : BitVec 3) (_ : BitVec 6) (s : State) : Outcome State Fault Refusal := runAct illegal s

/-- RESERVED_ENCODING (R57): ILL with the head and the low 48 bits of the tail. -/
def execReservedEncoding (head : BitVec 16) (tail : BitVec 64) (s : State) : Outcome State Fault Refusal :=
  runAct (trapWith cILL (codeVal { head := head, tail := tail })) s

/-! ### The misc group and major 0x0E -/

/-- NOP (R101). -/
def execNop (s : State) : Outcome State Fault Refusal := .next s.advance

/-- FENCE_I (R102): the snapshot and every prefetched line go, and the line of the next head is entered afresh. -/
def execFenceI (s : State) : Outcome State Fault Refusal :=
  let t := s.th
  .next { s with th := { t with pc := t.nextPc, entering := true, cameFrom := t.pc, line := none, lineIn := none, prefetched := [] } }

/-- TRAP (R292): commits, then takes TRAP at the following instruction; it waits as every trap does (R241, R338). -/
def execTrap (code : BitVec 24) (s : State) : Outcome State Fault Refusal :=
  if s.collectiveBusy s.th.tid || s.th.unchecked != [] then .next { s with stalled := true }
  else .next { s with th := s.th.takeTrap cTRAP false 0 s.th.nextPc (code.setWidth 64), stalled := false }

/-- After a return, a wait of an instruction that is not returned to has ended. -/
def Thread.dropAwait (t : Thread) : Thread :=
  let keep : Bool := match t.await with
    | some (.entry pc _) => pc == t.pc
    | some (.access pc) => pc == t.pc
    | some (.object pc _) => pc == t.pc
    | _ => true
  if keep then t else { t with await := none }

/-- ERET (R294). -/
def execEret (s : State) : Outcome State Fault Refusal :=
  runAct (do
    needS
    modify fun s => { s with th := s.th.eret.dropAwait }) s

/-- WFI (R294): waits until an interrupt is pending. -/
def execWfi (s : State) : Outcome State Fault Refusal :=
  runAct (do
    needS
    if s.th.irq = [] then endWith .wait else pure ()
    advanceAct) s

/-- Every queued write of the device reaches its home (R208). -/
def State.drainAll (s : State) : State := s.tiles.foldl (fun s (p, _) => s.drain p.1 p.2) s

/-- An access of a thread that has been translated is still on its way (R293). -/
def Thread.inFlight (t : Thread) : Bool :=
  t.loads != [] || (t.window.any fun e => e.sent != [] || e.formed != []) || (match t.await with
    | some (.access _) => true
    | some (.serial _ _) => true
    | _ => false)

/-- Remove translations that `p` names from every TLB, and wait for the accesses that used them (R293). -/
def removeTlb (mine : Thread → Bool) (p : TlbEnt → Bool) : Act Unit := do
  needS
  modify fun s =>
    { s with halls := s.halls.map fun (h, x) => (h, { x with tlb := x.tlb.filter fun e => !p e }) }
  let s ← get
  if s.threads.any fun t => mine t && t.inFlight then endWith .wait else pure ()
  set s.drainAll
  advanceAct

/-- The page that a cached translation belongs to (R277, R279): first address and size. What is cached of a run of 16 that breaks
its conditions belongs to the whole run. -/
def TlbEnt.page (e : TlbEnt) : Nat × Nat :=
  if e.leaf.getLsbD 6 ∧ (e.size = 2 ^ 14 ∨ e.size = 2 ^ 25) then (e.base - e.base % (16 * e.size), 16 * e.size) else (e.base, e.size)

/-- TLBINV_PAGE (R293). -/
def execTlbinvPage (a : XReg) (s : State) : Outcome State Fault Refusal :=
  let c := s.th.ctx
  let va := (s.getX a).toNat
  runAct (removeTlb (fun t => t.ctx = c) fun e => e.ctx = c && decide (e.page.1 ≤ va) && decide (va < e.page.1 + e.page.2)) s

/-- TLBINV_CTX (R293). -/
def execTlbinvCtx (a : XReg) (s : State) : Outcome State Fault Refusal :=
  let c : BitVec 32 := (s.getX a).setWidth 32
  runAct (removeTlb (fun t => t.ctx = c) fun e => e.ctx = c) s

/-- TLBINV_ALL (R293). -/
def execTlbinvAll (s : State) : Outcome State Fault Refusal := runAct (removeTlb (fun _ => true) fun _ => true) s

/-- GETID (R264). -/
def execGetid (d : XReg) (s : State) : Outcome State Fault Refusal := runAct (retX d s.th.ident) s

/-! ### Landing words (spec/08 R149–R154) -/

/-- The landing word at an address (R151): ALIGN, the faults of R90, PROT for another device's page; the writes queued before it
to the word's bytes have reached their home. -/
def landingAt (a : Word) : Act Nat := do
  needAlign a 16
  match ← xlate a .both with
  | .here pa =>
    needFollow a 16
    modify fun s => s.drainAt pa 16
    if (← get).touchesBad pa 16 then endWith (.abort (some pa)) else pure pa
  | .away _ _ => trapWith cPROT a

/-- Change a landing word at its home. -/
def changeLanding (pa : Nat) (f : LWord → LWord) : Act Unit :=
  modify fun s => s.changeWord s.th.pl pa f

/-- Read a landing word at its home. -/
def readLanding (pa : Nat) : Act LWord := fun s =>
  let (bs, s1) := s.homeRead pa 16
  .ok (lwOf bs, s1)

/-- LINIT (R152). -/
def execLinit (l g : XReg) (s : State) : Outcome State Fault Refusal :=
  runAct (do
    let pa ← landingAt (s.getX l)
    changeLanding pa fun _ => { count := 0, target := 0, gen := (s.getX g).toNat % 2 ^ 32, flags := 0 }
    advanceAct) s

/-- `larm` on a word (R152). -/
def lwArm (w : LWord) (target : Nat) : LWord := lwCheck { w with target := target, flags := w.flags / 2 * 2 + 1 }

/-- LARM (R152). -/
def execLarm (l t : XReg) (s : State) : Outcome State Fault Refusal :=
  runAct (do
    let pa ← landingAt (s.getX l)
    changeLanding pa fun w => lwArm w ((s.getX t).toNat % 2 ^ 32)
    advanceAct) s

/-- LREAD (R152). -/
def execLread (d l : XReg) (s : State) : Outcome State Fault Refusal :=
  runAct (do
    let pa ← landingAt (s.getX l)
    let w ← readLanding pa
    retX d (BitVec.ofNat 64 (w.gen * 2 ^ 32 + w.count))) s

/-- LWAIT (R152, R153). -/
def execLwait (d l g : XReg) (s : State) : Outcome State Fault Refusal :=
  runAct (do
    let pa ← landingAt (s.getX l)
    let w ← readLanding pa
    if w.gen = (s.getX g).toNat % 2 ^ 32 then endWith .wait else pure ()
    acquire
    retX d (BitVec.ofNat 64 w.gen)) s

end Sys2Proof.Machine
end

