-- ==== Sys2Proof/Machine/Copy.lean ====
section
/-! DEFINITION. The copy engines, storage, media and network transfers that the copy instructions queue (spec/09 R171–R183), and
what their completion does. -/

namespace Sys2Proof.Machine

open Host (Outcome)

/-! ### Parameter blocks (R175–R183) -/

/-- Bytes of a block. -/
def blockSize : XferKind → Nat
  | .cpy => 48
  | .cpy2d => 64
  | .sxfer => 64
  | .mdec => 128
  | .nxfer => 64

/-- A field of `n` bytes at an offset of a transfer's block. -/
def Xfer.field (x : Xfer) (off n : Nat) : Nat := fieldAt x.params off n

/-- An address field. -/
def Xfer.addr (x : Xfer) (off : Nat) : Word := leWord (bytesAt x.params off 8)

/-- Element size of `ztype` (R175). -/
def Xfer.zsize (x : Xfer) : Nat := if x.field 32 1 / 4 % 4 = 2 then 4 else 2

/-- `zmode` (R175). -/
def Xfer.zmode (x : Xfer) : Nat := x.field 32 1 % 4

/-- Bytes that a `cpy` or `cpy2d` moves. -/
def Xfer.copyLen (x : Xfer) : Nat := if x.kind = .cpy then x.field 16 8 else x.field 16 4 * x.field 20 4

/-- The address of byte `i` of one side of a copy: the base at `off`; rows are `pitch` apart (R175, R177). -/
def Xfer.copyAddr (x : Xfer) (off pitch : Nat) (i : Nat) : Word :=
  if x.kind = .cpy then x.addr off + BitVec.ofNat 64 i
  else x.addr off + BitVec.ofNat 64 (i / x.field 16 4) * x.addr pitch + BitVec.ofNat 64 (i % x.field 16 4)

def Xfer.dstAddr (x : Xfer) (i : Nat) : Word := x.copyAddr 0 24 i
def Xfer.srcAddr (x : Xfer) (i : Nat) : Word := x.copyAddr 8 32 i

/-- A value between limits. -/
def within (lo hi v : Nat) : Bool := decide (lo ≤ v) && decide (v ≤ hi)

/-- A `cpy` block outside R175 or R176. -/
def Xfer.cpyBad (x : Xfer) : Bool :=
  let len := x.field 16 8
  let z := x.zmode
  !within 1 (2 ^ 40) len || x.field 32 4 / 16 != 0 || x.field 32 1 / 4 % 4 == 3 || z == 3 ||
  (if z = 0 then x.field 24 8 != 0
   else x.field 24 8 % 8 != 0 || len % x.zsize != 0 || x.field 0 8 % x.zsize != 0 || x.field 8 8 % x.zsize != 0)

/-- A `cpy2d` block outside R177. -/
def Xfer.cpy2dBad (x : Xfer) : Bool :=
  !within 1 (2 ^ 24) (x.field 16 4) || !within 1 (2 ^ 24) (x.field 20 4) || x.field 40 4 != 0 || x.field 56 8 != 0

/-- An `sxfer` block outside R178. -/
def Xfer.sxferBad (x : Xfer) : Bool :=
  x.field 0 8 % 512 != 0 || !within 1 65536 (x.field 16 4) || !within 0 7 (x.field 20 1) || !within 0 1 (x.field 21 1) ||
  x.field 22 2 != 0 || x.field 40 24 != 0

/-- Bytes of an `mdec` output element. -/
def Xfer.outSize (x : Xfer) : Nat := if x.field 13 1 = 6 then 4 else 2

/-- The crop: x, y, w, h (R179). -/
def Xfer.crop (x : Xfer) : Nat × Nat × Nat × Nat := (x.field 24 2, x.field 26 2, x.field 28 2, x.field 30 2)

def Xfer.cropOdd (x : Xfer) : Bool :=
  let (a, b, c, d) := x.crop
  a % 2 = 1 || b % 2 = 1 || c % 2 = 1 || d % 2 = 1

/-- An `mdec` block outside R179, apart from an odd crop. -/
def Xfer.mdecBad (x : Xfer) : Bool :=
  let ow := x.field 32 2
  let pitch := x.field 64 8
  !within 1 (2 ^ 28) (x.field 8 4) || !within 0 2 (x.field 12 1) || !within 4 6 (x.field 13 1) || !within 0 3 (x.field 14 1) ||
  x.field 15 1 != 0 || (x.field 12 1 == 2 && x.field 16 8 != 0) || !within 1 8192 ow || !within 1 8192 (x.field 34 2) ||
  x.field 36 4 != 0 || x.field 40 8 % 16 != 0 || x.field 48 8 % 16 != 0 || x.field 56 8 % 16 != 0 ||
  pitch % 16 != 0 || decide (pitch < ow * x.outSize) || x.field 84 4 != 0 || x.field 96 32 != 0

/-- An `nxfer` block outside R183. -/
def Xfer.nxferBad (x : Xfer) : Bool :=
  let op := x.field 28 1
  let fl := x.field 29 1
  !within 1 (2 ^ 31) (x.field 16 4) || x.field 27 1 != 0 || !within 0 3 op || decide (2 ≤ fl) ||
  (fl == 1 && !within 0 1 op) || x.field 30 2 != 0 || x.field 48 16 != 0 ||
  (!within 1 2 op && (x.field 8 8 != 0 || x.field 20 4 != 0))

/-- Planes an `mdec` writes for a monochrome or colour source (R179). -/
def Xfer.planes (x : Xfer) (mono : Bool) : Nat := if x.field 14 1 = 3 ∨ mono then 1 else 3

/-! ### Accesses of an engine -/

/-- Why an engine stops: no response from another device, or a fault (R173). -/
inductive EngStop where
  | silent
  | fault (cause : Byte)
  deriving DecidableEq, Repr

/-- Where an engine finds an address of its context. -/
def State.engLoc (s : State) (x : Xfer) (va : Word) (acc : Access) : Except Byte Loc :=
  s.resolve x.ctx x.pl ((s.ctx x.ctx).any fun c => c.featen.getLsbD 5) va acc

/-- Read bytes that lie in one page (R173, R299). -/
def State.engRead (s : State) (x : Xfer) (va : Word) (n : Nat) : Except EngStop (List Byte) :=
  match s.engLoc x va .read with
  | .error c => .error (.fault c)
  | .ok (.here pa) =>
    if paKind pa = .reg then .error (.fault cPROT)
    else if s.touchesBad pa n then .error (.fault cDABORT) else .ok (memRead s.mem pa n)
  | .ok (.away dev pa) =>
    match s.peer dev with
    | some p =>
      if s.policy.remote && p.up then
        match p.owner.refuses (s.rvidOf x.ctx) pa n true false with
        | some c => .error (.fault c)
        | none => .ok (memRead p.mem pa n)
      else .error .silent
    | none => .error .silent

/-- The bytes that stand where an engine has just written some, in one page: no access (R176). -/
def State.engOld (s : State) (x : Xfer) (va : Word) (n : Nat) : List Byte := match s.engLoc x va .write with
  | .ok (.here pa) => memRead s.mem pa n
  | .ok (.away dev pa) => ((s.peer dev).map fun p => memRead p.mem pa n).getD []
  | .error _ => []

/-- Write bytes that lie in one page. -/
def State.engWrite (s : State) (x : Xfer) (va : Word) (bs : List Byte) : Except EngStop State :=
  match s.engLoc x va .write with
  | .error c => .error (.fault c)
  | .ok (.here pa) =>
    if paKind pa = .reg then .error (.fault cPROT)
    else if s.partlyBad pa bs.length then .error (.fault cDABORT) else .ok (s.apply pa bs)
  | .ok (.away dev pa) =>
    match s.peer dev with
    | some p =>
      if s.policy.remote && p.up then
        match p.owner.refuses (s.rvidOf x.ctx) pa bs.length false true with
        | some c => .error (.fault c)
        | none => .ok (s.setPeer { p with mem := memWrite p.mem pa bs })
      else .error .silent
    | none => .error .silent

/-- A place that a storage or network transfer may use: a page homed on another device raises PROT (R178, R183). -/
def State.engOwn (s : State) (x : Xfer) (va : Word) (acc : Access) : Except EngStop Unit :=
  match s.engLoc x va acc with
  | .ok (.away _ _) => .error (.fault cPROT)
  | _ => .ok ()

/-- Write bytes one by one to memory of this device. -/
def putOwn (x : Xfer) (a : Nat → Word) : Nat → List Byte → State → State × Nat × Option EngStop
  | i, [], s => (s, i, none)
  | i, b :: r, s =>
    match (s.engOwn x (a i) .write).bind fun _ => s.engWrite x (a i) [b] with
    | .error e => (s, i, some e)
    | .ok s1 => putOwn x a (i + 1) r s1

/-- Read bytes one by one from memory of this device. -/
def State.getOwn (s : State) (x : Xfer) (a : Nat → Word) (i : Nat) : Nat → List Byte × Option EngStop
  | 0 => ([], none)
  | n + 1 =>
    match (s.engOwn x (a i) .read).bind fun _ => s.engRead x (a i) 1 with
    | .error e => ([], some e)
    | .ok bs =>
      let (r, e) := s.getOwn x a (i + 1) n
      (bs ++ r, e)

/-- The first stop of an engine that goes through a range page by page; the fuel bounds the pages. -/
def State.rangeStop (s : State) (x : Xfer) (acc : Access) : Nat → Word → Nat → Option EngStop
  | 0, _, _ => none
  | f + 1, a, n =>
    if n = 0 then none
    else
      let k := min n (2 ^ 14 - a.toNat % 2 ^ 14)
      match s.engLoc x a acc with
      | .error c => some (.fault c)
      | .ok (.here pa) =>
        if paKind pa = .reg then some (.fault cPROT)
        else if s.touchesBad pa k then some (.fault cDABORT)
        else s.rangeStop x acc f (a + BitVec.ofNat 64 k) (n - k)
      | .ok (.away dev _) =>
        if (s.peer dev).any fun p => s.policy.remote && p.up then s.rangeStop x acc f (a + BitVec.ofNat 64 k) (n - k)
        else some .silent

/-- How far an engine has come: the machine, bytes done in order, destination bytes written, and why it stopped. -/
structure EngRun where
  s     : State
  done  : Nat
  wrote : Nat
  stop  : Option EngStop

/-- Read up to `n` source bytes from position `i`. -/
def State.engGather (s : State) (x : Xfer) (src : Nat → Word) (i : Nat) : Nat → List Byte × Option EngStop
  | 0 => ([], none)
  | n + 1 =>
    match s.engRead x (src i) 1 with
    | .error e => ([], some e)
    | .ok bs =>
      let (r, e) := s.engGather x src (i + 1) n
      (bs ++ r, e)

/-- Positions from `i` whose destination bytes follow one another in one 32-byte unit. -/
def spanAt (dst : Nat → Word) (i : Nat) : Nat → Nat
  | 0 => 0
  | n + 1 => if dst i % 32 = 31 ∨ n = 0 ∨ dst (i + 1) ≠ dst i + 1 then 1 else 1 + spanAt dst (i + 1) n

/-- Move bytes in order from position `i` up to `limit`; the fuel bounds the pieces. -/
def moveBytes (x : Xfer) (src dst : Nat → Word) (limit : Nat) : Nat → Nat → State → EngRun
  | 0, i, s => { s := s, done := i, wrote := i, stop := none }
  | f + 1, i, s =>
    if limit ≤ i then { s := s, done := i, wrote := i, stop := none }
    else
      let (bs, e) := s.engGather x src i (spanAt dst i (min 32 (limit - i)))
      match (if bs = [] then .ok s else s.engWrite x (dst i) bs) with
      | .error e => { s := s, done := i, wrote := i, stop := some e }
      | .ok s1 =>
        match e with
        | some e => { s := s1, done := i + bs.length, wrote := i + bs.length, stop := some e }
        | none => moveBytes x src dst limit f (i + bs.length) s1

/-- The value of an element is +0 or −0 (R176). -/
def isZeroElem (size v : Nat) : Bool := v % 2 ^ (8 * size - 1) == 0

/-- One element of a compression (R176): element number, destination bytes written. -/
def compressElem (x : Xfer) (e w : Nat) (s : State) : Except EngStop (State × Nat) := do
  let sz := x.zsize
  let bit := x.addr 24 + BitVec.ofNat 64 (e / 8)
  let bs ← s.engRead x (x.addr 8 + BitVec.ofNat 64 (e * sz)) sz
  let s1 ← if e % 64 = 0 then s.engWrite x bit (List.replicate 8 0) else pure s
  if isZeroElem sz (leNat bs) then pure (s1, w)
  else
    let old := s1.engOld x bit 1
    let s2 ← s1.engWrite x (x.addr 0 + BitVec.ofNat 64 w) bs
    let s3 ← s2.engWrite x bit [old.headD 0 ||| BitVec.ofNat 8 (2 ^ (e % 8))]
    pure (s3, w + sz)

/-- One element of a decompression (R176); `w` counts the packed bytes taken. -/
def decompressElem (x : Xfer) (e w : Nat) (s : State) : Except EngStop (State × Nat) := do
  let sz := x.zsize
  let bits ← s.engRead x (x.addr 24 + BitVec.ofNat 64 (e / 8)) 1
  let dst := x.addr 0 + BitVec.ofNat 64 (e * sz)
  if (bits.headD 0).getLsbD (e % 8) then
    let bs ← s.engRead x (x.addr 8 + BitVec.ofNat 64 w) sz
    pure (← s.engWrite x dst bs, w + sz)
  else pure (← s.engWrite x dst (List.replicate sz 0), w)

/-- Elements of a zero-skip mode in order, from byte `i` up to `limit`. -/
def moveElems (x : Xfer) (one : Nat → Nat → State → Except EngStop (State × Nat)) (limit : Nat) :
    Nat → Nat → Nat → State → EngRun
  | 0, i, w, s => { s := s, done := i, wrote := w, stop := none }
  | f + 1, i, w, s =>
    if limit ≤ i then { s := s, done := i, wrote := w, stop := none }
    else match one (i / x.zsize) w s with
      | .error e => { s := s, done := i, wrote := w, stop := some e }
      | .ok (s1, w1) => moveElems x one limit f (i + x.zsize) w1 s1

/-- A `cpy` or `cpy2d` goes on from the bytes it has done up to `limit` (R174–R177). -/
def State.runCopy (s : State) (x : Xfer) (limit : Nat) : EngRun :=
  if x.kind = .cpy ∧ x.zmode = 1 then moveElems x (compressElem x) limit limit x.moved x.wrote s
  else if x.kind = .cpy ∧ x.zmode = 2 then moveElems x (decompressElem x) limit limit x.moved x.wrote s
  else moveBytes x x.srcAddr x.dstAddr limit limit x.moved s

/-- Destination bytes from position `i` become unpredictable (R173, R174, R7). -/
def State.scrub (s : State) (x : Xfer) (dst : Nat → Word) (i : Nat) : Nat → State
  | 0 => s
  | n + 1 =>
    let s1 := match s.engWrite x (dst i) [Config.freeByte s.fresh] with
      | .ok s' => { s' with fresh := s'.fresh + 1 }
      | .error _ => s
    s1.scrub x dst (i + 1) n

/-- The places of a range: device (nothing for this one), physical address and size of each page's part. -/
def State.placesOf (s : State) (x : Xfer) (acc : Access) (a : Word) (n : Nat) : Nat → List (Option (BitVec 14) × Nat × Nat)
  | 0 => []
  | f + 1 =>
    if n = 0 then []
    else
      let k := min n (2 ^ 14 - a.toNat % 2 ^ 14)
      let rest := s.placesOf x acc (a + BitVec.ofNat 64 k) (n - k) f
      match s.engLoc x a acc with
      | .ok (.here pa) => (none, pa, k) :: rest
      | .ok (.away d pa) => (some d, pa, k) :: rest
      | .error _ => rest

/-- The rows of one side of a copy as ranges. -/
def Xfer.rowRanges (x : Xfer) (addr : Nat → Word) : List (Word × Nat) :=
  if x.kind = .cpy then [(addr 0, x.copyLen)]
  else (List.range (x.field 20 4)).map fun r => (addr (r * x.field 16 4), x.field 16 4)

/-- The places of one side of a copy. -/
def State.sidePlaces (s : State) (x : Xfer) (acc : Access) (addr : Nat → Word) : List (Option (BitVec 14) × Nat × Nat) :=
  (x.rowRanges addr).flatMap fun (a, n) => s.placesOf x acc a n (n / 2 ^ 14 + 2)

/-- Source and destination of a copy overlap (R174). -/
def State.overlaps (s : State) (x : Xfer) : Bool :=
  let d := s.sidePlaces x .write x.dstAddr
  (s.sidePlaces x .read x.srcAddr).any fun (p, a, n) => d.any fun (q, b, m) => p == q && decide (a < b + m) && decide (b < a + n)

/-- Destination bytes that a copy has written, by the bytes it has done and the packed bytes it has counted: a compression packs its
destination (R176). -/
def Xfer.dstDone (x : Xfer) (done wrote : Nat) : Nat := if x.kind = .cpy ∧ x.zmode = 1 then wrote else done

/-! ### Issue (R172) -/

/-- What becomes of an issue. -/
inductive Issue where
  | trap (cause : Byte) (va : Word)
  /-- the block is refused with a status at once; nothing arrives -/
  | refused (status : Nat)
  | ready (units : Nat)
  deriving DecidableEq, Repr

/-- The landing word must be homed where the counted data goes (R172 item 4): nothing for this device. -/
def State.wordHome (s : State) (x : Xfer) (dev : Option (BitVec 14)) (units : Nat) : Issue :=
  if x.node.isSome && x.lword == 0 then .ready units
  else match s.engLoc x x.lword .both, dev with
    | .ok (.here _), none => .ready units
    | .ok (.away d _), some d' => if d = d' then .ready units else .trap cPROT x.lword
    | .ok _, _ => .trap cPROT x.lword
    | .error c, _ => .trap c x.lword

/-- Does an address of a transfer lie elsewhere than in HBM or the gallery of this device (R178, R183)? One that does not
translate is met by the engine. -/
def State.notOwnMemory (s : State) (x : Xfer) (va : Word) : Bool :=
  match s.engLoc x va .read with
  | .ok (.here pa) => paKind pa == .reg
  | .ok (.away _ _) => true
  | .error _ => false

/-- Steps 3 and 4 of R172 for a copy between memories. -/
def State.issueCopy (s : State) (x : Xfer) : Issue :=
  match s.engLoc x (x.dstAddr 0) .write with
  | .error c => .trap c (x.dstAddr 0)
  | .ok l =>
    let srcAway : Bool := match s.engLoc x (x.srcAddr 0) .read with
      | .ok (.away _ _) => true
      | _ => false
    match l with
    | .here _ => s.wordHome x none x.copyLen
    | .away d _ => if srcAway then .refused 0x01 else s.wordHome x (some d) x.copyLen

/-- The namespace of an `sxfer` (R178). -/
def State.namespaceOf (s : State) (x : Xfer) : Option Namespace :=
  s.spaces.find? fun n => n.port = x.field 20 1 && n.nsid = x.field 24 4

/-- Is the source of an `mdec` monochrome, or subsampled with an odd crop? What the bitstream holds is not in the block: the value
is free (R179). -/
def State.sourceMono (s : State) (x : Xfer) : Bool := x.field 12 1 != 0 && (Config.freeWord s.fresh).getLsbD 0

def State.sourceHalved (s : State) (x : Xfer) : Bool :=
  x.field 12 1 == 0 || (x.field 12 1 == 1 && !s.sourceMono x) ||
  (x.field 12 1 == 2 && !s.sourceMono x && (Config.freeWord s.fresh).getLsbD 1)

/-- Steps 3 and 4 of R172: validity, then the landing word's home. A namespace that is not granted is met by the engine; of one
that does not exist the block size is taken as 512 (DESIGN CHOICE, log entry 34). -/
def State.issueOf (s : State) (x : Xfer) : Issue :=
  match x.kind with
  | .cpy => if x.cpyBad then .refused 0x01 else s.issueCopy x
  | .cpy2d => if x.cpy2dBad then .refused 0x01 else s.issueCopy x
  | .sxfer =>
    if x.sxferBad || s.notOwnMemory x (x.addr 0) then .refused 0x01
    else match s.namespaceOf x with
      | none => s.wordHome x none (x.field 16 4 * 512)
      | some n =>
        if !((n.bsize == 512 || n.bsize == 4096) && n.plain) then .refused 0x01
        else s.wordHome x none (x.field 16 4 * n.bsize)
  | .mdec =>
    if x.mdecBad || (x.cropOdd && s.sourceHalved x) then .refused 0x01
    else s.wordHome x none (x.planes (s.sourceMono x) * x.field 32 2 * x.field 34 2 * x.outSize)
  | .nxfer =>
    if x.nxferBad || s.notOwnMemory x (x.addr 0) then .refused 0x01
    else s.wordHome x none (x.field 16 4)

/-- Queue a transfer (R172 item 5): an operation of a queue pair that offers a buffer stands in its list of receives (R182). -/
def State.queueXfer (s : State) (x : Xfer) (units : Nat) : State :=
  let y := { x with id := s.sched.nextId, units := units }
  let s1 := { s with xfers := s.xfers ++ [y], fresh := s.fresh + 1, sched := { s.sched with nextId := s.sched.nextId + 1 } }
  if x.kind = .nxfer ∧ x.field 28 1 = 3 then
    { s1 with qps := s1.qps.map fun q =>
        if q.qpn = x.field 24 3 && q.ctx = x.ctx && !q.err then { q with recvs := q.recvs ++ [y.id] } else q }
  else s1

/-- A transfer of the current thread before its block is read. -/
def Thread.newXfer (t : Thread) (k : XferKind) (block lword : Word) : Xfer :=
  { id := 0, kind := k, ctx := t.ctx, pl := t.pl, tid := t.tid, block := block, params := [], lword := lword, units := 0,
    sent := 0, moved := 0, wrote := 0, place := t.place, node := none }

/-- Read a structure that must lie at this device, sixteen bytes at a time; on another device's page PROT with `trapval` = the
structure's address (R300). -/
def readOwn (start a : Word) : Nat → Act (List Byte)
  | 0 => pure []
  | n + 1 => do
    match ← xlate a .read with
    | .away _ _ => trapWith cPROT start
    | .here pa =>
      let bs ← loadHere pa 16
      let r ← readOwn start (a + 16) n
      pure (bs ++ r)

/-- What is queued on the current thread's way reaches its home: an engine reads no byte older than the thread would (R220). -/
def State.drainWay (s : State) : State := match s.th.place with
  | some (h, t) => if (s.tile h t).stores = [] ∧ (s.hall h).buffer = [] then s else s.drain h t
  | none => s

/-- The issue of a copy instruction (R172). -/
def copyAct (k : XferKind) (d p l : XReg) : Act Unit := do
  needQuiet true
  let s ← get
  if s.th.place.isSome && decide (64 ≤ (s.xfers.filter fun x => x.place = s.th.place).length) then endWith .wait else pure ()
  let block := s.getX p
  let lword := s.getX l
  needAlign block 16
  let params ← readOwn block block (blockSize k / 16)
  needAlign lword 16
  let _ ← xlate lword .both
  let s ← get
  let x := { s.th.newXfer k block lword with params := params }
  match s.issueOf x with
  | .trap c va => refusedWith c va
  | .refused st =>
    set { s.writeBlock x (statusOffset k) (leBytes 4 st) with fresh := s.fresh + 1 }
    retX d 0
  | .ready u =>
    set (s.drainWay.queueXfer x u)
    retX d (BitVec.ofNat 64 u)

/-- CPY (R172, R175). -/
def execCpy (d p l : XReg) (s : State) : Outcome State Fault Refusal := runAct (copyAct .cpy d p l) s

/-- CPY2D (R172, R177). -/
def execCpy2d (d p l : XReg) (s : State) : Outcome State Fault Refusal := runAct (copyAct .cpy2d d p l) s

/-- SXFER (R172, R178). -/
def execSxfer (d p l : XReg) (s : State) : Outcome State Fault Refusal :=
  runAct (do
    needFeature 4
    copyAct .sxfer d p l) s

/-- MDEC (R172, R179). -/
def execMdec (d p l : XReg) (s : State) : Outcome State Fault Refusal :=
  runAct (do
    needFeature 3
    copyAct .mdec d p l) s

/-- NXFER (R172, R182). -/
def execNxfer (d p l : XReg) (s : State) : Outcome State Fault Refusal := runAct (copyAct .nxfer d p l) s

/-! ### Media arithmetic (R181) -/

/-- The source coordinate of an output column: x0, x1 and 256 × fx (R181): `o` the output column, `ow` columns, `cw` samples. -/
def tapAt (o ow cw : Nat) : Nat × Nat × Nat :=
  -- sx = n / (2 ow), clamped
  let n : Int := (2 * (o : Int) + 1) * cw - ow
  let hi : Int := 2 * ow * ((cw : Int) - 1)
  let m : Nat := (min (max n 0) hi).toNat
  let x0 := m / (2 * ow)
  let rest := 256 * (m % (2 * ow))
  let q := rest / (2 * ow)
  let r := rest % (2 * ow)
  let f := if 2 * r > 2 * ow ∨ (2 * r = 2 * ow ∧ q % 2 = 1) then q + 1 else q
  (x0, min (x0 + 1) (cw - 1), f)

/-- A component: width, height, samples. -/
abbrev Comp := Nat × Nat × List Nat

/-- A sample of a cropped component; nothing outside its grid. -/
def compAt (c : Comp) (cx cy x y : Nat) : Option Nat :=
  if cx + x < c.1 ∧ cy + y < c.2.1 then c.2.2[(cy + y) * c.1 + cx + x]? else none

/-- The scaled sample p at an output position (R181); nothing where the crop leaves the grid. -/
def scaledAt (c : Comp) (crop : Nat × Nat × Nat × Nat) (ow oh dx dy : Nat) : Option Rat := do
  let (cx, cy, cw, ch) := crop
  if cw = 0 ∨ ch = 0 then none
  else
    let (x0, x1, fx) := tapAt dx ow cw
    let (y0, y1, fy) := tapAt dy oh ch
    let a ← compAt c cx cy x0 y0
    let b ← compAt c cx cy x1 y0
    let d ← compAt c cx cy x0 y1
    let e ← compAt c cx cy x1 y1
    some (((256 - (fx : Int)) * (256 - fy) * a + (fx : Int) * (256 - fy) * b + (256 - (fx : Int)) * fy * d + (fx : Int) * fy * e : Int) /
      (65536 : Rat))

/-- The exact value of a finite f32 pattern. -/
def ratOf (bits : Nat) : Option Rat :=
  match unpack .f32 bits with
  | .fin n m e =>
    let v : Rat := (m * 2 ^ e.toNat : Nat) / (2 ^ (-e).toNat : Nat)
    some (if n then -v else v)
  | _ => none

/-- Round an exact value once, RNE; of an exact 0 the sign is not stated, and +0 is written (DESIGN CHOICE, log entry 34). -/
def roundRat (et : EType) (v : Rat) : Nat := (roundFin (fmtOf et) 0 (decide (v < 0)) v.num.natAbs v.den 0).1

/-- Y′, Cb′ or Cr′ from a scaled sample (R181). -/
def rangeOf (jpeg luma : Bool) (depth : Nat) (p : Rat) : Rat :=
  let k : Rat := (2 ^ (depth - 8) : Nat)
  if jpeg then (if luma then p / 255 else (p - 128) / 255)
  else if luma then (p - 16 * k) / (219 * k) else (p - 128 * k) / (224 * k)

/-- R, G or B (R181): plane 0, 1, 2 of colour 1 or 2. -/
def rgbOf (bt709 : Bool) (plane : Nat) (y cb cr : Rat) : Rat :=
  let kr : Rat := if bt709 then 2126 / 10000 else 299 / 1000
  let kb : Rat := if bt709 then 722 / 10000 else 114 / 1000
  let kg := 1 - kr - kb
  if plane = 0 then y + 2 * (1 - kr) * cr
  else if plane = 2 then y + 2 * (1 - kb) * cb
  else y - 2 * kb * (1 - kb) / kg * cb - 2 * kr * (1 - kr) / kg * cr

/-- The crop on component `q`: halved where the chroma has fewer samples (R181). -/
def Xfer.cropOf (x : Xfer) (pic : Picture) (q : Nat) : Nat × Nat × Nat × Nat :=
  let (cx, cy, cw, ch) := x.crop
  match pic.comps.head?, pic.comps[q]? with
  | some a, some b =>
    let hx := if q ≠ 0 ∧ b.1 ≠ a.1 then 2 else 1
    let hy := if q ≠ 0 ∧ b.2.1 ≠ a.2.1 then 2 else 1
    (cx / hx, cy / hy, cw / hx, ch / hy)
  | _, _ => (cx, cy, cw, ch)

/-- The value u of an output element (R181); nothing where the manual states none. -/
def Xfer.mediaValue (x : Xfer) (pic : Picture) (plane dx dy : Nat) : Option Rat := do
  let at_ := fun (q : Nat) => (pic.comps[q]?).bind fun c => scaledAt c (x.cropOf pic q) (x.field 32 2) (x.field 34 2) dx dy
  if x.field 14 1 = 1 ∨ x.field 14 1 = 2 then
    let j : Bool := x.field 12 1 == 2
    let y ← at_ 0
    let cb ← at_ 1
    let cr ← at_ 2
    some (rgbOf (x.field 14 1 == 2) plane (rangeOf j true pic.depth y) (rangeOf j false pic.depth cb) (rangeOf j false pic.depth cr))
  else at_ plane

/-- The element written: (u − offset) × scale, rounded once (R181). -/
def Xfer.mediaElem (x : Xfer) (pic : Picture) (plane dx dy : Nat) : Option Nat := do
  let u ← x.mediaValue pic plane dx dy
  let sc ← ratOf (x.field 72 4)
  let off ← ratOf (x.field 76 4)
  some (roundRat (BitVec.ofNat 4 (x.field 13 1)) ((u - off) * sc))

/-- Write the elements of the planes in order. -/
def State.putPlanes (s : State) (x : Xfer) (pic : Picture) : List (Nat × Nat × Nat) → Nat → EngRun
  | [], done => { s := s, done := done, wrote := done, stop := none }
  | (q, dy, dx) :: r, done =>
    let sz := x.outSize
    let a := x.addr (40 + 8 * q) + BitVec.ofNat 64 (dy * x.field 64 8 + dx * sz)
    let bs := match x.mediaElem pic q dx dy with
      | some v => leBytes sz v
      | none => s.freeBytes sz
    match s.engWrite x a bs with
    | .error e => { s := s, done := done, wrote := done, stop := some e }
    | .ok s1 => State.putPlanes { s1 with fresh := s1.fresh + sz } x pic r (done + sz)

/-- The elements in order: plane, row, column. -/
def Xfer.outOrder (x : Xfer) (planes : Nat) : List (Nat × Nat × Nat) :=
  (List.range planes).flatMap fun q => (List.range (x.field 34 2)).flatMap fun dy =>
    (List.range (x.field 32 2)).map fun dx => (q, dy, dx)

/-- The picture is one that the source noted at issue can give (R179): its planes match the units. -/
def Xfer.fits (x : Xfer) (pic : Picture) : Bool :=
  let mono := pic.comps.length == 1
  let halved := (pic.comps.drop 1).any fun c => match pic.comps.head? with
    | some a => c.1 != a.1 || c.2.1 != a.2.1
    | none => false
  (mono || pic.comps.length == 3) && x.units == x.planes mono * x.field 32 2 * x.field 34 2 * x.outSize &&
  !(x.cropOdd && halved)

/-! ### Completion (R173) -/

/-- `result` of `sxfer` and a failed `nxfer`: bits 15:0 a code, the bytes done above. -/
def codedResult (code done : Nat) : Nat := code % 2 ^ 16 + done % 2 ^ 48 * 2 ^ 16

/-- A copy stops at a fault: its destination from the bytes done on is unpredictable, or all of it where the two sides overlap
(R173, R174). -/
def State.stopCopy (s : State) (x : Xfer) (c : Byte) (lapped : Bool) (done wrote : Nat) : State :=
  let i := if lapped then 0 else x.dstDone done wrote
  (s.scrub x x.dstAddr i (x.copyLen - i)).endXfer x c.toNat done

/-- A `cpy` or `cpy2d` completes, or stops at a fault; nothing happens while another device is silent. -/
def State.completeCopy (s : State) (x : Xfer) : State :=
  let r := s.runCopy x x.copyLen
  match r.stop with
  | some .silent => s
  | some (.fault c) => r.s.stopCopy x c (s.overlaps x) r.done r.wrote
  | none =>
    let s1 := if s.overlaps x then r.s.scrub x x.dstAddr 0 (x.dstDone r.done r.wrote) else r.s
    s1.endXfer x 0 (if x.kind = .cpy ∧ x.zmode = 1 then r.wrote / x.zsize else x.copyLen)

/-- A byte of a copy's destination lies on another device. -/
def State.dstAway (s : State) (x : Xfer) : Bool := (s.sidePlaces x .write x.dstAddr).any fun p => p.1.isSome

/-- A byte of a copy lies on another device. -/
def State.isRemoteCopy (s : State) (x : Xfer) : Bool :=
  (x.kind == .cpy || x.kind == .cpy2d) && (s.dstAway x || (s.sidePlaces x .read x.srcAddr).any fun p => p.1.isSome)

/-- As if every device answered. -/
def State.answering (s : State) : State :=
  { s with policy := { s.policy with remote := true }, peers := s.peers.map fun p => { p with up := true } }

/-- The answers that devices give stay as they were in `was`. -/
def State.answeringAs (s was : State) : State :=
  { s with policy := was.policy, peers := s.peers.map fun p => { p with up := (was.peer p.id).any (·.up) } }

/-- The other device is unreachable (R173): `status` 0x13 and the bytes moved; the rest of the destination is unpredictable, and
whether the units of the last train arrived is open. -/
def State.unreachable (s : State) (x : Xfer) : State :=
  let at' := if s.overlaps x then 0 else x.dstDone x.moved x.wrote
  let s1 := (s.answering.scrub x x.dstAddr at' (x.copyLen - at')).answeringAs s
  State.endXferIf { s1 with fresh := s1.fresh + 1 } x 0x13 x.moved (!s.dstAway x || (Config.freeWord s1.fresh).getLsbD 0)

/-- Copies that an abort has stopped in this step: the rest of their destinations is unpredictable (R173, R342). -/
def State.scrubStopped (s : State) : State :=
  s.stops.foldl (fun s x =>
    if x.kind = .cpy ∨ x.kind = .cpy2d then
      let i := if s.overlaps x then 0 else x.dstDone x.moved x.wrote
      (s.answering.scrub x x.dstAddr i (x.copyLen - i)).answeringAs s
    else s) { s with stops := [] }

/-- As many as `n` more bytes of a copy move, in order (R174); of a zero-skip mode whole elements. The rest is left to its
completion. -/
def State.moveSome (s : State) (id n : Nat) : State :=
  match s.xfers.find? fun x => x.id = id with
  | none => s
  | some x =>
    if (x.kind ≠ .cpy ∧ x.kind ≠ .cpy2d) ∨ (s.ctx x.ctx).any (·.frozen) then s
    else
      let step := if x.kind = .cpy ∧ x.zmode ≠ 0 then x.zsize else 1
      let r := s.runCopy x (min x.copyLen (x.moved + n / step * step))
      { r.s with xfers := r.s.xfers.map fun y => if y.id = id then { y with moved := r.done, wrote := r.wrote } else y }

/-- A drive reports (R178); a namespace that is not granted to the context ends with PROT. -/
def State.completeDrive (s : State) (x : Xfer) (status : BitVec 16) (data : List Byte) : State :=
  let mem := fun (i : Nat) => x.addr 0 + BitVec.ofNat 64 i
  if !(s.namespaceOf x).any fun n => n.ctxs.contains x.ctx then s.endXfer x 0x07 (codedResult 0 0)
  else if x.field 21 1 = 0 then
    if status = 0 ∧ data.length ≠ x.units then s
    else
      let (s0, done, stop) := putOwn x mem 0 (data.take x.units) s
      let s1 := s0.scrub x mem done (x.units - done)
      match stop with
      | some .silent => s
      | some (.fault c) => s1.endXfer x c.toNat (codedResult 0 done)
      | none =>
        if status = 0 then s0.endXfer x 0 (codedResult 0 x.units)
        else s1.endXfer x 0x10 (codedResult status.toNat done)
  else
    let (bs, e) := s.getOwn x mem 0 x.units
    match e with
    | some .silent => s
    | some (.fault c) => s.endXfer x c.toNat (codedResult 0 bs.length)
    | none =>
      if status = 0 then s.endXfer x 0 (codedResult 0 x.units)
      else s.endXfer x 0x10 (codedResult status.toNat (min data.length x.units))

/-- The first bytes of a unit's stream area. -/
def State.areaHead (s : State) (x : Xfer) : Option (List Byte) := match s.engRead x (x.addr 16) 16 with
  | .ok bs => some bs
  | .error _ => none

/-- Elements of the planes become unpredictable (R173, R7). -/
def State.scrubPlanes (s : State) (x : Xfer) : List (Nat × Nat × Nat) → State
  | [] => s
  | (q, dy, dx) :: r =>
    let sz := x.outSize
    let s1 := match s.engWrite x (x.addr (40 + 8 * q) + BitVec.ofNat 64 (dy * x.field 64 8 + dx * sz)) (s.freeBytes sz) with
      | .ok s' => { s' with fresh := s'.fresh + sz }
      | .error _ => s
    s1.scrubPlanes x r

/-- The session of a unit; a new one where the program has written zero to the head of the stream area (R179; log entry 34). -/
def State.sessionOf (s : State) (x : Xfer) : Option Session :=
  if s.areaHead x = some (List.replicate 16 0) then none
  else s.media.find? fun m => m.ctx = x.ctx && m.base = x.addr 16

/-- `shown`, `period` and `order` of a picture (R180). -/
def Xfer.pictureInfo (x : Xfer) (m : Option Session) (p : Picture) : Bool × BitVec 16 × BitVec 32 :=
  match x.field 12 1 with
  | 0 => (p.shown, (m.map (·.period)).getD 0, p.order)
  | 1 => (true, 0, (m.map (·.shown)).getD 0)
  | _ => (true, 0, 0)

/-- The decoder supports the picture's stream (R179): profile, depth, subsampling and size. -/
def Xfer.supported (x : Xfer) (p : Picture) : Bool :=
  match p.comps with
  | [] => false
  | (w, h, _) :: chroma =>
    let sub := fun (a b : Nat) => chroma.length == 2 && chroma.all fun c => c.1 == (w + a - 1) / a && c.2.1 == (h + b - 1) / b
    match x.field 12 1 with
    | 0 => (p.depth == 8 || p.depth == 10) && sub 2 2 && decide (w ≤ 8192) && decide (h ≤ 4320)
    | 1 => (p.depth == 8 || p.depth == 10) && (chroma.isEmpty || sub 2 2) && decide (w ≤ 8192) && decide (h ≤ 4320)
    | _ => p.depth == 8 && (chroma.isEmpty || sub 1 1 || sub 2 1 || sub 2 2) && decide (w ≤ 16384) && decide (h ≤ 16384)

/-- The decoder keeps its state in the stream area: what stands at its head is open, and not all zero (R179; log entry 34). -/
def State.noteSession (s : State) (x : Xfer) (m : Option Session) (p : Picture) : State :=
  if x.field 16 8 = 0 then s
  else
    let shown := (match m with
      | some m => m.shown
      | none => 0) + (if p.written then 1 else 0)
    let period := (m.map (·.period)).getD 0 + (if p.written && p.irap then 1 else 0)
    let mine : Session := { ctx := x.ctx, base := x.addr 16, shown := shown, period := period }
    let s1 := { s with media := (s.media.filter fun (y : Session) => y.ctx != mine.ctx || y.base != mine.base) ++ [mine] }
    match s1.engWrite x (x.addr 16) (match s1.freeBytes 16 with
      | b :: r => (b ||| 1) :: r
      | [] => []) with
    | .ok s2 => { s2 with fresh := s2.fresh + 16 }
    | .error _ => s1

/-- Bytes of a stream area (R179): by the size of the picture, which only the bitstream tells. -/
def sessionSize (p : Option Picture) : Nat := match p.bind fun p => p.comps.head? with
  | some (w, h, _) => if w ≤ 3840 ∧ h ≤ 2160 then 96 * 2 ^ 20 else 384 * 2 ^ 20
  | none => 96 * 2 ^ 20

/-- What a unit meets before it decodes: its bitstream, then its stream area (R173, R179). -/
def State.mediaStop (s : State) (x : Xfer) (pic : Option Picture) : Option EngStop :=
  (s.rangeStop x .read (2 ^ 14 + 2) (x.addr 0) (x.field 8 4)).orElse fun _ =>
    if x.field 16 8 = 0 then none else s.rangeStop x .both (2 ^ 15) (x.addr 16) (sessionSize pic)

/-- A decoder gives up (R173, R179): the manual does not state how many bytes are done. -/
def State.failMedia (s : State) (x : Xfer) (status : Byte) : State :=
  let d := (Config.freeWord s.fresh).toNat % (x.units + 1)
  let s1 := { s with fresh := s.fresh + 1 }.scrubPlanes x (x.outOrder (x.units / (x.field 32 2 * x.field 34 2 * x.outSize)))
  s1.endXfer x status.toNat d

/-- A decoder reports (R179, R180): a picture of a stream that it does not support ends with `status` 0x12. -/
def State.completeMedia (s : State) (x : Xfer) (pic : Option Picture) (status : Byte) : State :=
  match s.mediaStop x pic with
  | some .silent => s
  | some (.fault c) => s.endXfer x c.toNat 0
  | none =>
    match pic with
    | none => if status = 0x11 ∨ status = 0x12 then s.failMedia x status else s
    | some p =>
      let m := s.sessionOf x
      let (shown, period, order) := x.pictureInfo m p
      let res := fun (b : Bool) => (if b then 1 else 0) + period.toNat * 2 ^ 16 + order.toNat * 2 ^ 32
      if !p.written then (if p.shown ∨ x.field 12 1 ≠ 0 then s else (s.noteSession x m p).endXfer x 0 (res false))
      else if !x.supported p then s.failMedia x 0x12
      else if !x.fits p then s
      else
        let places := x.outOrder (x.planes (p.comps.length == 1))
        let r := s.putPlanes x p places 0
        match r.stop with
        | some .silent => s
        | some (.fault c) => (r.s.scrubPlanes x (places.drop (r.done / x.outSize))).endXfer x c.toNat r.done
        | none => (r.s.noteSession x m p).endXfer x 0 (res shown)

/-- The queue pair of a transfer, granted to its context (R183). -/
def State.pairOf (s : State) (x : Xfer) : Option QueuePair := s.qps.find? fun q => q.qpn = x.field 24 3 && q.ctx = x.ctx

def State.modPair (s : State) (qpn : Nat) (f : QueuePair → QueuePair) : State :=
  { s with qps := s.qps.map fun q => if q.qpn = qpn then f q else q }

/-- A network transfer fails (R183): `status` 0x14, the syndrome and the bytes done, and the queue pair enters the error state. -/
def State.failNet (s : State) (x : Xfer) (syndrome done : Nat) : State :=
  (s.modPair (x.field 24 3) fun q => { q with err := true, recvs := q.recvs.filter fun i => i ≠ x.id }).endXfer x 0x14
    (codedResult syndrome done)

/-- A network transfer ends with a status after a local error, whose syndrome is open (R183; log entry 37). -/
def State.endNet (s : State) (x : Xfer) (status done : Nat) : State :=
  { s with fresh := s.fresh + 1 }.endXfer x status (codedResult (Config.freeWord s.fresh).toNat done)

/-- An operation whose queue pair is not granted, or stands in the error state, ends so (R183); the local error's syndrome is
open. -/
def State.netRefused (s : State) (x : Xfer) : Option State :=
  match s.pairOf x with
  | none => some (s.endNet x 0x07 0)
  | some q =>
    if q.err then
      let s1 := s.modPair q.qpn fun q => { q with recvs := q.recvs.filter (· ≠ x.id) }
      some (s1.endNet x 0x14 0)
    else none

/-- An operation 0–2 completes; its `result` is not stated. -/
def State.netDone (s : State) (x : Xfer) : State := { s with fresh := s.fresh + 1 }.endXfer x 0 (Config.freeWord s.fresh).toNat

/-- The message that an operation of a queue pair sends (R182, R183): `data` are its local bytes. -/
def Xfer.netMsg (x : Xfer) (data : List Byte) : NetMsg :=
  { qpn := x.field 24 3, addr := x.addr 8, len := x.field 16 4, rkey := BitVec.ofNat 32 (x.field 20 4), data := data,
    imm := if x.field 29 1 % 2 = 1 then some (BitVec.ofNat 32 (x.field 32 4)) else none }

/-- The port sends a message for an operation. -/
def State.sendNet (s : State) (x : Xfer) (data : List Byte) : State :=
  { s with netOut := s.netOut ++ [.request (x.field 28 1) (x.netMsg data)] }

/-- The network answers an operation of a queue pair (R182): what it sent, and what came of it. -/
def State.completeNet (s : State) (x : Xfer) (failed : Bool) (syndrome : BitVec 16) (done : Nat) (data : List Byte) : State :=
  let mem := fun (i : Nat) => x.addr 0 + BitVec.ofNat 64 i
  if x.field 28 1 = 3 then s
  else if failed then
    let bs := if x.field 28 1 = 2 then data.take (min done x.units) else []
    let (s1, k, _) := putOwn x mem 0 bs s
    let s2 := if x.field 28 1 = 2 then s1.scrub x mem k (x.units - k) else s1.sendNet x (s1.getOwn x mem 0 x.units).1
    s2.failNet x syndrome.toNat (min done x.units)
  else if x.field 28 1 = 2 then
    if data.length ≠ x.units then s
    else
      let (s1, k, stop) := putOwn x mem 0 data s
      match stop with
      | none => (s1.sendNet x []).netDone x
      | some (.fault c) => ((s1.sendNet x []).scrub x mem k (x.units - k)).endNet x c.toNat k
      | some .silent => s
  else
    match s.getOwn x mem 0 x.units with
    | (bs, none) => (s.sendNet x bs).netDone x
    | (bs, some (.fault c)) => s.endNet x c.toNat bs.length
    | (_, some .silent) => s

/-- An earlier transfer that must complete first: of the same media session (R179), or of the same queue pair (R182). Posted
receives are left out of a queue pair's order: the peer's messages consume them in theirs (DESIGN CHOICE, log entry 37). -/
def State.mustWaitFor (s : State) (x : Xfer) : Bool :=
  (s.xfers.takeWhile fun y => y.id ≠ x.id).any fun y => y.ctx = x.ctx && y.kind = x.kind &&
    ((x.kind == .mdec && x.field 16 8 != 0 && y.field 16 8 == x.field 16 8) ||
     (x.kind == .nxfer && y.field 24 3 == x.field 24 3 && y.field 28 1 != 3 && x.field 28 1 != 3))

/-- TRANSFER_COMPLETE (R173): a transfer's data, then `status` and `result`, then its units. An input that does not fit it changes
nothing, nor does one of a context that is frozen for a migration (R312). -/
def execTransferComplete (id : Nat) (inp : EngineInput) (s : State) : Outcome State Fault Refusal :=
  .next (match s.xfers.find? fun x => x.id = id with
    | none => s
    | some x =>
      if s.mustWaitFor x || (s.ctx x.ctx).any (·.frozen) then s
      else
        match x.kind, inp with
        | .cpy, .plain => s.completeCopy x
        | .cpy2d, .plain => s.completeCopy x
        | .cpy, .unreachable => if s.isRemoteCopy x then s.unreachable x else s
        | .cpy2d, .unreachable => if s.isRemoteCopy x then s.unreachable x else s
        | .sxfer, .drive st data => s.completeDrive x st data
        | .mdec, .media pic st => s.completeMedia x pic st
        | .nxfer, .plain => (s.netRefused x).getD s
        | .nxfer, .network failed syn done data => (s.netRefused x).getD (s.completeNet x failed syn done data)
        | _, _ => s)

/-- LANDING_ARRIVAL (R150): units arrive at the landing word at a physical address. -/
def execLandingArrival (pa units : Nat) (s : State) : Outcome State Fault Refusal :=
  .next (if pa % 16 = 0 ∧ (paKind pa = .hbm ∨ paKind pa = .gallery) then s.arrive pa units else s)

end Sys2Proof.Machine
end

