-- ==== Sys2Proof/Machine/Area.lean ====
section
/-! DEFINITION. Thread save areas (spec/16 R281, R282), the tile's row buffers at a pass between contexts (spec/04 R76), and the
fabric's state of a switched-out thread (spec/13 R243). -/

namespace Sys2Proof.Machine

/-! ### Bytes of an area -/

/-- Bytes of a save area (R281). -/
def areaSize : Nat := 0x64000

/-- Write bytes at an address of a context in pieces that lie in one page each. -/
def State.areaPut (s : State) (c : BitVec 32) (va : Word) : Nat → List Byte → State
  | 0, _ => s
  | n + 1, bs =>
    if bs = [] then s
    else
      let k := 64 - va.toNat % 64
      (s.putVa c va (bs.take k)).areaPut c (va + BitVec.ofNat 64 k) n (bs.drop k)

def State.areaWrite (s : State) (c : BitVec 32) (area : Word) (off : Nat) (bs : List Byte) : State :=
  s.areaPut c (area + BitVec.ofNat 64 off) (bs.length + 1) bs

/-- Read bytes at an address of a context; a byte that does not translate here reads as 0. -/
def State.areaRead (s : State) (c : BitVec 32) (area : Word) (off : Nat) : Nat → List Byte
  | 0 => []
  | n + 1 =>
    (match s.paOf c 1 (area + BitVec.ofNat 64 off) .read with
     | some pa => memByte s.mem pa
     | none => 0) :: s.areaRead c area (off + 1) n

/-- The 4 KiB pages of an area, counted from its base. -/
def areaPages (base : Word) : List Nat := List.range (if base.toNat % 4096 = 0 then 100 else 101)

/-- Where the part of an area begins that lies in its page `k`. -/
def areaPage (base : Word) (k : Nat) : Word := if k = 0 then base else (base &&& ~~~(0xFFF : Word)) + BitVec.ofNat 64 (4096 * k)

/-- The first page of an area that touches an uncorrectable unit of this device (R341). -/
def State.areaBad (s : State) (c : BitVec 32) (base : Word) : Option Nat :=
  if s.badUnit = [] then none
  else (areaPages base).findSome? fun k =>
    let n := if k = 0 then 4096 - base.toNat % 4096 else if k = 100 then base.toNat % 4096 else 4096
    (s.paOf c 1 (areaPage base k) .read).bind fun pa => if s.touchesBad pa n then some pa else none

def State.areaField (s : State) (c : BitVec 32) (area : Word) (off n : Nat) : Nat := leNat (s.areaRead c area off n)

/-- Set or clear bits of the header's flags: 0 `sv`, 1 `vv`, 2 `q`, 3 `fab`. -/
def State.areaFlag (s : State) (c : BitVec 32) (area : Word) (bit : Nat) (v : Bool) : State :=
  let f := s.areaField c area 4 2
  let g := f - (f / 2 ^ bit % 2) * 2 ^ bit + (if v then 2 ^ bit else 0)
  s.areaWrite c area 4 (leBytes 2 g)

/-- A bit list as bytes, bit e in bit e mod 8 of byte e >> 3. -/
def bitBytes (n : Nat) (f : Nat → Bool) : List Byte := leBytes n (bitsTo ((List.range (8 * n)).filter f))

/-- The one bits of bytes. -/
def byteBits (bs : List Byte) : List Nat := bitsOf (leNat bs) (8 * bs.length) 0

/-! ### Registers of a partition (R281) -/

def VVer.present (v : VVer) (e : Nat) : Bool := !(e ∈ v.absent) && !(e ∈ v.inherit)

def KVer.present (v : KVer) (e : Nat) : Bool := !(e ∈ v.absent) && !(e ∈ v.inherit)

/-- A v register's parts: values, presence, older version. The word of an absent element is open (R297), numbered from `fr`. -/
def vParts (t : Thread) (fr n : Nat) (r : VSt) : List (Nat × List Byte) :=
  let g := t.grant
  let vals := fun (v : VVer) (b : Nat) => (List.range g).flatMap fun e =>
    leBytes 4 (if v.present e then (sget 0 v.data e).toNat else (Config.freeWord (b + e)).toNat)
  [(0x20000 + 0x1000 * n, vals r.new fr), (0x60000 + 128 * n, bitBytes (g / 8) r.new.present)] ++
  (match r.old with
   | none => []
   | some o => [(0x40000 + 0x1000 * n, vals o (fr + 1024)), (0x61000 + 128 * n, bitBytes (g / 8) o.present)])

def kParts (t : Thread) (fr m : Nat) (r : KSt) : List (Nat × List Byte) :=
  let g := t.grant
  let vals := fun (v : KVer) (b : Nat) => bitBytes (g / 8) fun e =>
    if v.present e then sget false v.bits e else (Config.freeWord (b + e)).getLsbD 0
  [(0x62000 + 256 * m, vals r.new fr), (0x62800 + 256 * m, bitBytes (g / 8) r.new.present)] ++
  (match r.old with
   | none => []
   | some o => [(0x62000 + 256 * m + 128, vals o (fr + 1024)), (0x62800 + 256 * m + 128, bitBytes (g / 8) o.present)])

/-- The bit of byte 32 + N that says that vN has two open versions: bit 0, and bit 7 where the byte belongs to a mask register, a
z tile or a row buffer as well (R281; log entry 17). -/
def twoBit (n : Nat) : Nat := if n ≤ 8 ∨ 26 ≤ n then 0 else 7

/-- Tags and version flags of the 64 bytes at 0x6_3000 (R281). -/
def metaBytes (p : Part) (zt : Nat → Nat) (qtag : Nat → Nat) : List Byte :=
  let tags := (List.range 32).map fun n =>
    let r := p.vreg (BitVec.ofNat 5 n)
    BitVec.ofNat 8 (r.new.tag.toNat + (match r.old with | some o => 16 * o.tag.toNat | none => 0))
  let other := fun (n : Nat) =>
    if 8 < n ∧ n < 16 then (if (p.kreg (BitVec.ofNat 3 (n - 8))).old.isSome then 1 else 0)
    else if 16 ≤ n ∧ n < 24 then zt (n - 16) else if n = 24 ∨ n = 25 then qtag (n - 24) else 0
  tags ++ (List.range 32).map fun n =>
    BitVec.ofNat 8 (other n + (if (p.vreg (BitVec.ofNat 5 n)).old.isSome then 2 ^ twoBit n else 0))

/-- A row buffer's 16 KiB: element k of row i at 512i + k × size. -/
def qBytes (q : CodeTile) : List Byte :=
  let km := kmaxOf q.tag
  (List.range (32 * km)).flatMap fun i => leBytes (512 / km) (q.get i)

/-- A z tile's 8 KiB. -/
def zBytes (z : ZTile) : List Byte := (List.range 2048).flatMap fun i => leBytes 4 (z.get (i / 64) (i % 64))

/-- zt of a z tile (R281, R203): 0 unless the thread holds it. -/
def ztOf (tid : Nat) (z : ZTile) : Nat :=
  if z.holder = some tid then (if z.short then 1 else 0) + (if z.dropped then 2 else 0) + 4 else 0

/-! ### Window entries (R282) -/

/-- The elements of its destination that an entry writes: those below `vl`, but the 64 of `tmovr` (R189), one of each iteration of
a run (R239), whole blocks (R121, R158) and element 0 of a reduction or `vmvsx` (R137, R138). -/
def Entry.span (e : Entry) : Nat :=
  match vkey e.instr with
  | some (ma, mi, _) =>
    if ma = 0x33 ∧ mi = 3 then (e.vl + 15) / 16 * 16 else if ma = 0x34 then 1 else if ma = 0x37 ∧ mi = 4 then min e.vl 1 else e.vl
  | none =>
  match loadKey e.instr with
  | some (_, o) => if isBx o.et then (e.vl + 15) / 16 * 16 else e.vl
  | none => match e.instr with
    | .tmovr _ _ _ => 64
    | .frun _ _ => (e.xs.headD 0).toNat
    | _ => e.vl

/-- The entry leaves element `i` of its destination as it now is: it does not write it, or has done so. The elements of a block
are done together; a reduction, `vcompress` and a step's results count as written at their end. -/
def Entry.wrote (e : Entry) (i : Nat) : Bool :=
  decide (e.span ≤ i) || (match vkey e.instr with
    | some (ma, mi, _) =>
      if ma = 0x34 ∨ (ma = 0x35 ∧ mi = 5) then e.complete else if e.vl ≤ i then e.isDone (i / 16 * 16) else e.isDone i
    | none => if (loadKey e.instr).isSome || (vamoKey e.instr).isSome then (if e.vl ≤ i then e.isDone (i / 16 * 16) else e.isDone i)
      else e.complete)

/-- The done-mask as saved; an entry that has one unit more than its elements uses the next bit (log entry 18). -/
def entryDone (e : Entry) : List Byte := bitBytes 512 fun i => e.isDone i

/-- The 640 bytes of an entry (R282). -/
def entryBytes (e : Entry) : List Byte :=
  let words := fun (l : List Word) (n : Nat) => (List.range n).flatMap fun i => leBytes 8 (l.getD i 0).toNat
  let mask := if e.indet = [] then entryDone e else patchAt (entryDone e) 128 (bitBytes 128 fun i => i ∈ e.indet)
  leBytes 8 e.pc.toNat ++ leBytes 2 e.code.head.toNat ++ leBytes 2 e.vl ++ leBytes 1 e.vtype.toNat ++ leBytes 1 e.frm.toNat ++
  leBytes 2 (e.seq.toNat % 65536) ++ leBytes 8 e.code.tail.toNat ++ words e.xs 4 ++ leBytes 8 e.prog ++ words e.eng 8 ++ mask

/-- The feature that a window instruction needs, by its bit of `featen0` (R274): the fabric, the cursors, the block types. -/
def featureOf (i : Instr) : Option Nat :=
  let bx := fun (et : EType) => if isBx et then some 2 else none
  match vkey i with
  | some (_, _, o) => bx o.et
  | none =>
  match loadKey i with
  | some (_, o) => bx o.et
  | none =>
  match storeKey i with
  | some (_, o) => bx o.et
  | none => match i with
    | .frun _ _ => some 0
    | .smatch _ _ _ _ _ => some 1
    | .tld o | .tst o => bx o.mtype
    | _ => none

/-- An entry from its 640 bytes: nothing where its head and tail are no instruction of the window, or of a masked feature (R57,
R282). `seqn` is the thread's next sequence number; a tile product notes the step it stood at (`Thread.shadowed`); `told` and
`held` come from what hardware keeps beside the record. -/
def entryOf (feat : BitVec 6) (bs : List Byte) (post : Nat) (seqn : BitVec 32) (told : Bool) (held : Option (List (VReg × EType))) : Option Entry :=
  let c : Code := { head := BitVec.ofNat 16 (fieldAt bs 8 2), tail := BitVec.ofNat 64 (fieldAt bs 16 8) }
  match decode c with
  | .error _ => none
  | .ok i =>
    let windowed : Bool := (vkey i).isSome || (loadKey i).isSome || (storeKey i).isSome || (vamoKey i).isSome || isTileInstr i ||
      (match i with
       | .frun _ _ => true
       | .smatch _ _ _ _ _ => true
       | _ => false)
    if !windowed || (featureOf i).any (fun b => !feat.getLsbD b) then none
    else
      let mask := bytesAt bs 128 512
      let vamo := (vamoKey i).isSome
      let done := byteBits (if vamo then mask.take 128 else mask)
      let indet := if vamo then byteBits (bytesAt mask 128 128) else []
      let low := fieldAt bs 14 2
      let d := (seqn.toNat + 65536 - low) % 65536
      let prog := fieldAt bs 56 8
      let eng := (List.range 8).map fun k => leWord (bytesAt bs (64 + 8 * k) 8)
      some
        { pc := leWord (bytesAt bs 0 8), code := c, instr := i, vl := fieldAt bs 10 2, vtype := BitVec.ofNat 8 (fieldAt bs 12 1),
          frm := BitVec.ofNat 2 (fieldAt bs 13 1), seq := seqn - BitVec.ofNat 32 (if d = 0 then 65536 else d), post := post,
          xs := (List.range 4).map fun k => leWord (bytesAt bs (24 + 8 * k) 8), prog := prog,
          eng := eng, done := done, indet := indet, told := told, sent := [], formed := [], soft := [],
          acc := match i with
            | .tmma _ | .tmms _ => [BitVec.ofNat 64 prog]
            | _ => [],
          got := [], back := done, shared := false, held := held }

/-! ### The whole vector partition -/

/-- What `vsave` writes for the owner of a partition on a tile, apart from the header (R287). -/
def partImage (t : Thread) (x : Tile) (fr : Nat) : List (Nat × List Byte) :=
  let p := t.partOr
  let z := fun (n : Nat) => x.zAt n
  ((List.range 32).flatMap fun n => vParts t (fr + 2048 * n) n (p.vreg (BitVec.ofNat 5 n))) ++
  ((List.range 7).flatMap fun m => kParts t (fr + 65536 + 2048 * m) (m + 1) (p.kreg (BitVec.ofNat 3 (m + 1)))) ++
  ((List.range 8).filterMap fun n => if (z n).holder = some t.tid ∧ !(z n).dropped then some (0x8000 + 0x2000 * n, zBytes (z n)) else none) ++
  ((List.range 2).map fun n => (0x18000 + 0x4000 * n, qBytes (x.qAt n))) ++
  ((List.range t.window.length).zip t.window).map (fun (i, e) => (0x1100 + 640 * i, entryBytes e)) ++
  [(0x63000, metaBytes p (fun n => ztOf t.tid (z n)) fun n => (x.qAt n).tag.toNat)]

/-- The place of a version's writer among the window's entries (`Notes`). -/
def Thread.writerPlace (t : Thread) (w : Nat) : Nat :=
  match t.window.findIdx? fun e => e.post = w with
  | some i => 2 * i + 2
  | none => 2 * (t.window.filter fun e => e.post < w).length + 1

/-- The absent elements of a version that keep what stands in their place if their writer leaves them as they were. -/
def VVer.keeps (v : VVer) (key : Nat) : List ((Nat × Nat) × BitVec 32) := v.absent.map fun e => ((key, e), sget 0 v.data e)

def KVer.keeps (v : KVer) (key : Nat) : List ((Nat × Nat) × Bool) := v.absent.map fun e => ((key, e), sget false v.bits e)

/-- What goes beside the record of a thread's window (log entry 73). -/
def Thread.notes (t : Thread) (area : Nat) : Notes :=
  let p := t.partOr
  let vs := (List.range 32).map fun n => (n, p.vreg (BitVec.ofNat 5 n))
  let ks := (List.range 8).map fun n => (n, p.kreg (BitVec.ofNat 3 n))
  { area := area,
    vpos := vs.filterMap fun (n, r) => if r.old.isSome then some (n, t.writerPlace r.new.writer) else none,
    kpos := ks.filterMap fun (n, r) => if r.old.isSome then some (n, t.writerPlace r.new.writer) else none,
    vkeep := vs.flatMap fun (n, r) => match r.old with
      | none => r.new.keeps n
      | some o => o.keeps (n + 32),
    kkeep := ks.flatMap fun (n, r) => match r.old with
      | none => r.new.keeps n
      | some o => o.keeps (n + 32),
    vbase := vs.filterMap fun (n, r) => if r.new.base = [] then none else some (n, r.new.base),
    kbase := ks.filterMap fun (n, r) => if r.new.base = [] then none else some (n, r.new.base),
    held := t.window.filterMap (·.held),
    told := ((List.range t.window.length).zip t.window).filterMap fun (i, e) => if e.told then some i else none }

/-- `vsave` of a thread's partition into an area of a context (R287). R287 names no write of `ver` and R298 tabulates 1 after one;
1 is written (log entry 76). -/
def State.savePart (s : State) (c : BitVec 32) (area : Word) (t : Thread) : State :=
  let x := match t.place with
    | some (h, i) => s.tile h i
    | none => Tile.fresh
  let s1 := (partImage t x s.fresh).foldl (fun s (off, bs) => s.areaWrite c area off bs) { s with fresh := s.fresh + 81920 }
  let s2 := (s1.areaWrite c area 6 (leBytes 2 t.grant)).areaWrite c area 8 (leBytes 4 t.ctx.toNat ++ leBytes 4 (t.ident.toNat % 2 ^ 32))
  let s3 := (s2.areaWrite c area 0x11 (leBytes 1 t.window.length)).areaWrite c area 0 (leBytes 4 1)
  let s4 := (s3.areaFlag c area 1 true).areaFlag c area 2 true
  s4.modThread t.tid fun u => { u with saved := some (t.notes ((s.paOf c 1 area .read).getD 0)) }

/-- The post numbers of a register's writers: of the newest version, and of the version before it (`Notes`; R67). `ws` are the
entries that have opened a version of it; `base` numbers the entries' posts. -/
def writersOfSaved (ws : List Entry) (place : Option Nat) (base : Nat) : Nat × Nat :=
  let new := match place with
    | some k => base + k
    | none => ((ws.getLast?).map (·.post)).getD 0
  (new, (((ws.filter fun e => e.post < new).getLast?).map (·.post)).getD 0)

/-- Element `i`, which an area says is absent from a version, is to come from the version's writer; where the writer has left the
window, from nowhere, or from the older version if one is open (R73, R297). -/
def awaited (w : Option Entry) (two : Bool) (i : Nat) : Bool := match w with
  | some x => !x.wrote i
  | none => !two

/-- Read a v register's versions: elements absent from the presence map are awaited from the writer, or inherited where the writer
leaves or has left them; their own words have no meaning (R297). -/
def readV (s : State) (c : BitVec 32) (area : Word) (g n base : Nat) (win : List Entry) (notes : Option Notes) : VSt :=
  let two := s.areaField c area (0x63020 + n) 1 / 2 ^ twoBit n % 2 = 1
  let tags := s.areaField c area (0x63000 + n) 1
  let (w1, w0) := writersOfSaved (win.filter fun e => e.held.isNone && e.use.vw.contains (BitVec.ofNat 5 n))
    (notes.bind fun x => assocGet x.vpos n) base
  let base := if two then (notes.bind fun x => assocGet x.vbase n).getD [] else []
  let ver := fun (below : Option VVer) (vals pres tag key post : Nat) =>
    let w := win.find? fun e => e.post = post
    let here := byteBits (s.areaRead c area pres (g / 8))
    let under := fun (e : Nat) => match below with
      | some o => (match assocGet base e with
        | some v => some v
        | none => o.elem e)
      | none => notes.bind fun x => assocGet x.vkeep (key, e)
    let word := fun (e : Nat) => match (if e ∈ here then none else under e) with
      | some v => v
      | none => BitVec.ofNat 32 (s.areaField c area (vals + 4 * e) 4)
    let data := (List.range g).foldl (fun (d : Sparse (BitVec 32)) e => sset 0 d e (word e)) []
    let gone := (List.range g).filter fun e => e ∉ here
    let awaits := awaited w below.isSome
    ({ tag := BitVec.ofNat 4 tag, data := data, absent := gone.filter awaits,
       inherit := gone.filter fun e => !awaits e || (below.isSome && (under e).isNone),
       base := if below.isSome then base else [], writer := post } : VVer)
  let old := if two then some (ver none (0x40000 + 0x1000 * n) (0x61000 + 128 * n) (tags / 16) (n + 32) w0) else none
  VSt.sync { new := ver old (0x20000 + 0x1000 * n) (0x60000 + 128 * n) (tags % 16) n w1, old := old }

def readK (s : State) (c : BitVec 32) (area : Word) (g m base : Nat) (win : List Entry) (notes : Option Notes) : KSt :=
  let two := s.areaField c area (0x63028 + m) 1 % 2 = 1
  let (w1, w0) := writersOfSaved (win.filter fun e => e.held.isNone && e.use.kw.contains (BitVec.ofNat 3 m))
    (notes.bind fun x => assocGet x.kpos m) base
  let base := if two then (notes.bind fun x => assocGet x.kbase m).getD [] else []
  let ver := fun (below : Option KVer) (vals pres key post : Nat) =>
    let w := win.find? fun e => e.post = post
    let here := byteBits (s.areaRead c area pres (g / 8))
    let under := fun (e : Nat) => match below with
      | some o => (match assocGet base e with
        | some v => some v
        | none => o.elem e)
      | none => notes.bind fun x => assocGet x.kkeep (key, e)
    let read := byteBits (s.areaRead c area vals (g / 8))
    let ones := (List.range g).filter fun e => match (if e ∈ here then none else under e) with
      | some b => b
      | none => read.contains e
    let gone := (List.range g).filter fun e => e ∉ here
    let awaits := awaited w below.isSome
    ({ bits := ones.map fun e => (e, true), absent := gone.filter awaits,
       inherit := gone.filter fun e => !awaits e || (below.isSome && (under e).isNone),
       base := if below.isSome then base else [], writer := post } : KVer)
  let old := if two then some (ver none (0x62000 + 256 * m + 128) (0x62800 + 256 * m + 128) (m + 32) w0) else none
  KSt.sync { new := ver old (0x62000 + 256 * m) (0x62800 + 256 * m) m w1, old := old }

/-- The partition of an area (R288). -/
def readPart (s : State) (c : BitVec 32) (area : Word) (g base : Nat) (win : List Entry) (notes : Option Notes) : Part :=
  { v := Vector.ofFn fun (i : Fin 32) => readV s c area g i.val base win notes,
    k := Vector.ofFn fun (i : Fin 8) => if i.val = 0 then KSt.start else readK s c area g i.val base win notes }

/-- A row buffer of an area. -/
def readQ (s : State) (c : BitVec 32) (area : Word) (n : Nat) : CodeTile :=
  let tag : EType := if s.areaField c area (0x63038 + n) 1 % 16 = 8 then 8 else 9
  let km := kmaxOf tag
  let sz := 512 / km
  (List.range (32 * km)).foldl (fun q i => q.put i (s.areaField c area (0x18000 + 0x4000 * n + sz * i) sz))
    { tag := tag, ptag := tag, data := [] }

/-- A z tile of an area (R203), held by the thread. -/
def readZ (s : State) (c : BitVec 32) (area : Word) (n tid : Nat) : ZTile :=
  let zt := s.areaField c area (0x63030 + n) 1
  if zt / 4 % 2 = 0 then { ZTile.zero with holder := some tid }
  else if zt / 2 % 2 = 1 then { data := [], short := zt % 2 = 1, dropped := true, holder := some tid }
  else
    let z : ZTile := { data := [], short := zt % 2 = 1, dropped := false, holder := some tid }
    (List.range 2048).foldl (fun z i => z.put (i / 64) (i % 64) (s.areaField c area (0x8000 + 0x2000 * n + 4 * i) 4)) z

/-! ### Tile ownership (R76, R186) -/

/-- The z tiles that the tile-local index gives a thread (R186). -/
def heldZ (idx tcount : Nat) : List Nat := (List.range 8).filter fun n => n % (max tcount 1) = idx

def Thread.heldZ (t : Thread) : List Nat := match t.who with
  | .tile _ _ i => Machine.heldZ i t.tcount
  | .core _ => []

/-- A thread stands on a tile and has not ended. -/
def Thread.isOn (t : Thread) (h i : Nat) : Bool :=
  t.place = some (h, i) && (t.run == .running || t.run == .suspended true || t.run == .suspended false)

def Thread.suspended (t : Thread) : Bool := t.run == .suspended true || t.run == .suspended false

/-- The tag that the tile's posted loads into a register leave it, from the contents' tag on (R71, R196): of loads that are not
finished, in queue order. -/
def State.postedTag (s : State) (x : Tile) (r : TReg) (tag : EType) : EType :=
  (s.cleanQueue x).foldl (fun tag q => match (s.thread q.tid).bind fun t => t.entry q.post with
    | some e => match e.instr with
      | .tld o => if tileReg o.tile = r then lfTag (shapeOf o.tile ((e.xs.drop 1).headD 0)).lf else tag
      | _ => tag
    | none => tag) tag

/-- The posted tags of a tile's banks and row buffers follow its contents and its queue. -/
def State.retag (s : State) (h i : Nat) : State :=
  let x := s.tile h i
  s.setTile h i { x with
    w := Vector.ofFn fun (k : Fin 4) => { x.w[k.val] with ptag := s.postedTag x (.w k.val) x.w[k.val].tag }
    q := Vector.ofFn fun (k : Fin 2) => { x.q[k.val] with ptag := s.postedTag x (.q k.val) x.q[k.val].tag } }

/-- A tile's w and q pass to a context (R76): the row buffers go into the areas of the losing context's frozen threads, whose bits
of v24 and v25 stay in the bytes of the tags (log entry 17); the banks are filled with the zero code, and the row buffers are
those of the area for which the tile passes, if it has any. The tag that is saved is that of the contents; a load posted and not
finished gives its tag again when it is in the queue again (DEDUCED from R71, R196; log entry 77). -/
def State.passTile (s : State) (h i : Nat) (c : BitVec 32) (area : Option (BitVec 32 × Word)) : State :=
  let x := s.tile h i
  if x.owner = some c then s
  else
    let losers := s.threads.filter fun t => t.isOn h i && t.suspended && x.owner = some t.ctx
    let s1 := losers.foldl (fun s t =>
      let s1 := (List.range 2).foldl (fun s n =>
        let two := s.areaField t.ctx t.winrec (0x63038 + n) 1 / 128 * 128
        (s.areaWrite t.ctx t.winrec (0x18000 + 0x4000 * n) (qBytes (x.qAt n))).areaWrite t.ctx t.winrec (0x63038 + n)
          (leBytes 1 (two + (x.qAt n).tag.toNat))) s
      s1.areaFlag t.ctx t.winrec 2 true) s
    let q := fun (n : Nat) => match area with
      | some (ac, a) => if s1.areaField ac a 4 2 / 4 % 2 = 1 then readQ s1 ac a n else CodeTile.zero
      | none => CodeTile.zero
    (s1.setTile h i { x with w := Vector.replicate 4 CodeTile.zero, q := Vector.ofFn fun (k : Fin 2) => q k.val, owner := some c }).retag h i

/-- A thread takes its z tiles with the contents that `f` gives. -/
def State.takeZ (s : State) (t : Thread) (f : Nat → ZTile) : State :=
  match t.place with
  | none => s
  | some (h, i) => s.setTile h i (t.heldZ.foldl (fun x n => x.setZ n (f n)) (s.tile h i))

/-- A newcomer in a frozen partition's space holds those of its z tiles that are free; the others become its own at its `vrest`
(R186, R286). -/
def State.takeFreeZ (s : State) (t : Thread) : State :=
  match t.place with
  | none => s
  | some (h, i) => s.setTile h i (t.heldZ.foldl (fun x n => if (x.zAt n).holder.isNone then x.setZ n { ZTile.zero with holder := some t.tid } else x)
      (s.tile h i))

/-! ### Scalar state (R281, R285) -/

/-- A cursor's record (R245). -/
def cursorBytes (c : Cursor) : List Byte :=
  leBytes 8 c.base.toNat ++ leBytes 8 c.len ++ leBytes 8 c.pos ++
  leBytes 1 ((if c.isOpen then 1 else 0) + (if c.k64 then 2 else 0)) ++ leBytes 1 c.win.length ++ leBytes 6 0 ++
  (List.range 16).flatMap fun i => leBytes 8 (c.win.getD i 0).toNat

def cursorOf (bs : List Byte) : Cursor :=
  let fl := fieldAt bs 24 1
  { base := leWord (bytesAt bs 0 8), len := fieldAt bs 8 8, pos := fieldAt bs 16 8, isOpen := fl % 2 = 1, k64 := fl / 2 % 2 = 1,
    win := (List.range (min 16 (fieldAt bs 25 1))).map fun i => leWord (bytesAt bs (32 + 8 * i) 8) }

/-- The parts of the area that hold the scalar state; trap registers only of a thread at S. -/
def scalarImage (t : Thread) (outst : Nat) : List (Nat × List Byte) :=
  let w := fun (v : Word) => leBytes 8 v.toNat
  let rstat := (if t.stall then 1 else 0) + (if t.remind then 2 else 0) + outst * 2 ^ 15
  [(0x40, (List.range 64).flatMap fun i => w (t.getX (BitVec.ofNat 6 i))),
   (0x240, w t.pc ++ leBytes 8 t.vl ++ leBytes 8 t.vtype.toNat ++ leBytes 8 t.grant ++ leBytes 8 t.fsr.toNat ++
     leBytes 8 t.fcsr.toNat ++ leBytes 8 t.lsat.toNat ++ leBytes 8 rstat),
   (0x2C0, w t.sscratch),
   (0x300, (List.range 4).flatMap fun i => cursorBytes (t.cursor (BitVec.ofNat 2 i)))] ++
  (if t.pl = 1 then [(0x280, w t.statusWord ++ w t.sregs.cause ++ w t.sregs.epc ++ w t.sregs.val)] else [])

/-- Hardware writes the scalar state and sets `sv` (R285). -/
def State.saveScalar (s : State) (t : Thread) : State :=
  let outst := match s.ctx t.ctx with
    | some c => min c.outstanding 65536
    | none => 0
  let s1 := (scalarImage t outst).foldl (fun s (off, bs) => s.areaWrite t.ctx t.winrec off bs) s
  (s1.areaWrite t.ctx t.winrec 0x14 (leBytes 4 t.seqn.toNat)).areaFlag t.ctx t.winrec 0 true

/-- The previous level that an area gives a tile thread (R273): 2 and 3 are ignored. -/
def pplFrom (old v : BitVec 2) : BitVec 2 := if 2 ≤ v.toNat then old else v

/-- The flags that a suspended thread's window has raised meanwhile join those of its saved state (R25, R285). -/
def Thread.joinLate (t : Thread) : Thread := { (t.orFlags t.lateF t.lateL) with lateF := 0, lateL := 0 }

/-- The scalar state of an area; a thread whose area does not translate keeps its own (R285). -/
def State.loadScalar (s : State) (t : Thread) : Thread :=
  Thread.joinLate <|
  if (s.paOf t.ctx 1 t.winrec .read).isNone ∨ s.areaField t.ctx t.winrec 4 2 % 2 = 0 then t
  else
    let w := fun (off : Nat) => leWord (s.areaRead t.ctx t.winrec off 8)
    let t1 := { t with
      x := Vector.ofFn fun (i : Fin 64) => if i.val = 0 then 0 else w (0x40 + 8 * i.val),
      pc := w 0x240, vl := min (w 0x248).toNat t.grant, vtype := (w 0x250).setWidth 7 |>.setWidth 8, fsr := (w 0x260).setWidth 25,
      fcsr := (w 0x268).setWidth 7, lsat := (w 0x270).setWidth 3, remind := (w 0x278).getLsbD 1, sscratch := w 0x2C0,
      seqn := BitVec.ofNat 32 (s.areaField t.ctx t.winrec 0x14 4),
      cursors := Vector.ofFn fun (i : Fin 4) => cursorOf (s.areaRead t.ctx t.winrec (0x300 + 160 * i.val) 160) }
    if t.pl = 1 then
      let st := w 0x280
      { t1 with sregs := { t1.sregs with ppl := pplFrom t.sregs.ppl (st.extractLsb' 2 2), ie := st.getLsbD 4, pie := st.getLsbD 5, cause := w 0x288,
                                         epc := w 0x290, val := w 0x298 } }
    else t1

/-- The address of the `k`-th save area of a context's pool, aligned to 4 KiB (R281; log entry 13). -/
def areaAt (pool : Word) (k : Nat) : Word := ((pool + 0xFFF) &&& ~~~(0xFFF : Word)) + BitVec.ofNat 64 (k * areaSize)

/-- A save area that no living thread of the context uses (R281). -/
def State.freeArea (s : State) (c : Ctx) : Word :=
  let used := (s.threads.filter fun t => t.ctx = c.ctxid && !t.isCore && t.run != .exited && t.run != .aborted).map (·.winrec)
  let k := ((List.range (used.length + 1)).find? fun k => !used.contains (areaAt c.pool k)).getD 0
  areaAt c.pool k

/-- The header of an area before the thread's first instruction (R281). -/
def State.startArea (s : State) (t : Thread) : State :=
  s.areaWrite t.ctx t.winrec 0 (leBytes 4 1 ++ leBytes 2 0 ++ leBytes 2 t.grant ++ leBytes 4 t.ctx.toNat ++
    leBytes 4 (t.ident.toNat % 2 ^ 32) ++ leBytes 48 0)

/-! ### Fabric state (R243) -/

/-- The hall's fabric of any thread. -/
def State.fabricOf (s : State) (t : Thread) : Fabric := match t.place with
  | some (h, _) => (s.hall h).fabric
  | none => Fabric.free

/-- What is kept of the fabric that a thread owns: counter and tokens at the iteration it stands at. -/
def fabSaveOf (f : Fabric) : FabSave :=
  let (n, left) := match f.runs.head? with
    | some r => (r.n0 + r.j, r.count - r.j)
    | none => (f.counter, 0)
  { img := f.img, counter := n, remain := left, tokens := f.tokens, nodes := f.nodes, edges := f.edges, binds := f.binds }

/-- The fabric of a thread that is switched out is saved and released; a waiter leaves the line (R234, R243, R289). -/
def State.switchFabric (s : State) (t : Thread) : State :=
  let f := s.fabricOf t
  if f.owner = some t.tid then
    let v := fabSaveOf f
    let bs := leBytes 8 v.img.toNat ++ leBytes 8 v.counter ++ leBytes 8 v.remain ++ v.tokens.flatMap fun x => leBytes 4 x.toNat
    let s1 := ((s.areaWrite t.ctx t.winrec 0xD80 bs).areaWrite t.ctx t.winrec 0x12 (leBytes 2 v.tokens.length)).areaFlag
      t.ctx t.winrec 3 true
    (s1.releaseFabrics t.tid).modThread t.tid fun u => { u with fabPend := some v }
  else (s.areaFlag t.ctx t.winrec 3 false).releaseFabrics t.tid

/-- The fabric's state as the area gives it back (R243); what an area does not hold stands as it was kept. -/
def State.fabBack (s : State) (t : Thread) (v : FabSave) : FabSave :=
  if (s.paOf t.ctx 1 t.winrec .read).isNone ∨ s.areaField t.ctx t.winrec 4 2 / 8 % 2 = 0 then v
  else
    let f := fun (off n : Nat) => s.areaField t.ctx t.winrec (0xD80 + off) n
    { v with img := BitVec.ofNat 64 (f 0 8), counter := f 8 8, remain := f 16 8,
             tokens := (List.range v.tokens.length).map fun i => BitVec.ofNat 32 (f (24 + 4 * i) 4) }

/-- The runs of the window's entries that are not complete (R239, R243): the first stands at its progress. -/
def runsOf (t : Thread) (counter : Nat) : List FRun :=
  let es := t.window.filter fun e => !e.complete && (match e.instr with
    | .frun _ _ => true
    | _ => false)
  (es.foldl (fun (acc : List FRun × Nat) e =>
    let n0 := acc.2 - e.prog
    let count := (e.xs.headD 0).toNat
    (acc.1 ++ [{ tid := t.tid, post := e.post, n0 := n0, count := count, j := e.prog, fired := [], fault := none, coll := [],
                  ahead := [] }],
      n0 + count)) ([], counter)).1

/-- The fabric's runs follow the window that has just been restored; the entries note their bindings. -/
def State.rebuildRuns (s : State) (tid : Nat) : State :=
  match s.thread tid with
  | none => s
  | some t =>
    match t.place with
    | none => s
    | some (h, _) =>
      let f := (s.hall h).fabric
      if f.owner = some tid ∧ f.runs = [] then
        let s1 := s.modThread tid fun t => { t with window := t.window.map fun e => match e.instr with
          | .frun _ _ => { e with acc := runCodes f }
          | _ => e }
        let runs := runsOf t f.counter
        let counter := match runs.head? with
          | some r => r.n0
          | none => f.counter
        s1.setHall h { s1.hall h with fabric := { f with runs := runs, counter := counter } }
      else s

/-- The runs of a thread's fabric are given up: its counter stands where the first of them stood (R239). -/
def State.dropRuns (s : State) (tid : Nat) : State :=
  match s.thread tid with
  | none => s
  | some t =>
    match t.place with
    | none => s
    | some (h, _) =>
      let f := (s.hall h).fabric
      if f.owner = some tid then
        s.setHall h { s.hall h with fabric := { f with runs := [], counter := (fabSaveOf f).counter } }
      else s

/-- Words whose value is open: the configuration after a resumption with a changed image (R234). -/
def freeWords (n k : Nat) : List (BitVec 64) := (List.range k).map fun i => Config.freeWord (n + i)

/-- The first of a thread's runs has as many iterations left as were saved (R243). -/
def State.setRemain (s : State) (h left : Nat) : State :=
  let f := (s.hall h).fabric
  match f.runs with
  | r :: rs => s.setHall h { s.hall h with fabric := { f with runs := { r with count := r.j + left } :: rs } }
  | [] => s

/-- The thread that resumes takes the fabric back (R243): the image is read again, with the saved tokens; nothing while another
thread owns it or stands before it. -/
def State.retakeFabric (s : State) (t : Thread) (kept : FabSave) : Option State :=
  let v := s.fabBack t kept
  match t.place with
  | none => none
  | some (h, _) =>
    let f := (s.hall h).fabric
    let w := if f.waiters.contains t.tid then f.waiters else f.waiters ++ [t.tid]
    if f.owner = none ∧ w.head? = some t.tid then
      let hd := leNat (s.areaRead t.ctx v.img 0 16)
      let words := v.nodes ++ v.edges ++ v.binds
      let k := words.length
      let now := (List.range k).map fun i => leWord (s.areaRead t.ctx v.img (16 + 8 * i) 8)
      let same := now = words ∧ hd = 1 + v.nodes.length * 2 ^ 16 + v.binds.length * 2 ^ 24 + v.edges.length * 2 ^ 32
      let ws := if same then words else freeWords s.fresh k
      let f' : Fabric := { Fabric.free with
        owner := some t.tid, waiters := w.drop 1, img := v.img, nodes := ws.take v.nodes.length,
        edges := (ws.drop v.nodes.length).take v.edges.length, binds := ws.drop (v.nodes.length + v.edges.length),
        counter := v.counter, tokens := v.tokens }
      let s1 := s.setHall h { s.hall h with fabric := f' }
      let s2 := { s1 with fresh := s1.fresh + k }
      some (((s2.modThread t.tid fun u => { u with fabPend := none }).rebuildRuns t.tid).setRemain h v.remain)
    else none

/-- The thread stands in the line for the fabric. -/
def State.queueFabric (s : State) (t : Thread) : State :=
  match t.place with
  | none => s
  | some (h, _) =>
    let f := (s.hall h).fabric
    if f.waiters.contains t.tid then s else s.setHall h { s.hall h with fabric := { f with waiters := f.waiters ++ [t.tid] } }

end Sys2Proof.Machine
end

