-- ==== Sys2Proof/Machine/Sched.lean ====
section
/-! DEFINITION. Launch packets, placement and the launch queues (spec/15 R255–R265), graphs (R266–R272), the end of a thread
(spec/05 R104), and the scheduler's steps. -/

namespace Sys2Proof.Machine

open Host (Outcome)

/-! ### Packets (R255, R268) -/

/-- A grant code's G (R255). -/
def grantOf (c : Nat) : Nat := if c = 0 then 0 else 32 * 2 ^ c

/-- The fields of a packet. -/
def packetOf (b : List Byte) : Packet :=
  { entry := leWord (bytesAt b 0 8), count := leWord (bytesAt b 8 8),
    args := (List.range 8).map fun i => leWord (bytesAt b (16 + 8 * i) 8), work := leWord (bytesAt b 80 8),
    done := leWord (bytesAt b 88 8), hmask := BitVec.ofNat 32 (fieldAt b 96 4), ctxid := BitVec.ofNat 32 (fieldAt b 100 4),
    tmask := BitVec.ofNat 16 (fieldAt b 104 2), threads := fieldAt b 106 1, stage := BitVec.ofNat 8 (fieldAt b 107 1),
    prio := fieldAt b 108 1, gmax := fieldAt b 109 1, gmin := fieldAt b 110 1, gang := fieldAt b 111 1 % 2 = 1 }

/-- A packet outside R255. -/
def packetBad (b : List Byte) : Bool :=
  let p := packetOf b
  p.work.toNat % 16 != 0 || p.done.toNat % 16 != 0 || p.hmask == 0 || !within 1 16 p.threads || decide (8 ≤ fieldAt b 107 1) ||
  decide (7 < p.prio) || decide (5 < p.gmax) || decide (5 < p.gmin) || decide (p.gmax < p.gmin) ||
  (p.gmin == 0 && p.gmax != 0) || decide (1 < fieldAt b 111 1) || fieldAt b 112 16 != 0

/-- A node's packet outside R255 or R268, by class. -/
def nodePacketBad (cls : Nat) (b : List Byte) : Bool :=
  let p := packetOf b
  let rest := p.work != 0 || p.ctxid != 0 || p.tmask != 0 || p.threads != 0 || p.stage != 0 || p.gmax != 0 || p.gmin != 0 ||
    fieldAt b 111 1 != 0 || fieldAt b 112 16 != 0 || p.hmask != 1 || decide (7 < p.prio) || p.done.toNat % 16 != 0
  if cls = 0 then packetBad b
  else if cls = 1 then rest || p.count != 0
  else rest || p.args.any (· != 0) || (if cls = 2 then decide (1 < p.count.toNat) else p.count != 0)

/-- The halls and tiles a packet names. -/
def Packet.halls (p : Packet) : List Nat := bitsOf p.hmask.toNat 32 0
def Packet.tiles (p : Packet) : List Nat := if p.tmask = 0 then List.range 16 else bitsOf p.tmask.toNat 16 0

/-- The places of a packet's threads, in rank order (R264), in the halls and on the tiles that `ok` admits. -/
def Packet.places (p : Packet) (ok : Nat → Nat → Bool) : List (Nat × Nat × Nat × Nat) :=
  let l := p.halls.flatMap fun h => p.tiles.flatMap fun t => if ok h t then (List.range p.threads).map fun i => (h, t, i) else []
  (List.range l.length).zip l

/-- The context a packet names: 0 for the poster's own. -/
def Packet.context (p : Packet) (own : BitVec 32) : BitVec 32 := if p.ctxid = 0 then own else p.ctxid

/-- The refusals of a packet that concern no queue, in the order of R256. -/
def State.packetRefusal (s : State) (own : BitVec 32) (p : Packet) : Option Nat :=
  if (s.ctx (p.context own)).isNone then some 0x06
  else if p.halls.any fun h => p.tiles.any fun t => (s.tile h t).retired then some 0x05
  else if 2048 < p.threads * grantOf p.gmin then some 0x03
  else none

/-- A context with the registers that its record in memory gives it (R283, R323). A context whose record's place does not name it
keeps what it has (log entry 13). -/
def Ctx.loaded (m : Memory) (c : Ctx) : Ctx :=
  let f := fun (off n : Nat) => leWord (memRead m (c.record + off) n)
  if !c.recorded m then c
  else { c with ptroot := entryBase (f 8 8), rc := (f 0x10 8).getLsbD 0, bindtab := f 0x18 8, rvid := (f 0x20 4).setWidth 24,
                serialnext := (f 0x24 4).setWidth 32, serialack := (f 0x28 4).setWidth 32, outHdr := f 0x30 8, faultHdr := f 0x38 8,
                featen := (f 0x40 8).setWidth 6 &&& features.setWidth 6, pool := f 0x48 8,
                qmask := f 0x50 8, trapvec := f 0x58 8 &&& ~~~(0x3F : Word) }

/-- The scheduler loads a context's registers from its record (R283). -/
def State.reload (s : State) (c : BitVec 32) : State := match s.ctx c with
  | none => s
  | some x =>
    if x.recorded s.mem && s.touchesBad x.record 96 then s.meetBad c x.record else s.modCtx c fun y => y.loaded s.mem

/-- PROT at U for another context, or a queue that the record's `qmask` does not assign (R256, R283). -/
def mayPost (s : State) (p : Packet) (queue : Option Nat) : Bool :=
  s.th.pl != 0 ||
  ((p.ctxid == 0 || p.ctxid == s.th.ctx) &&
   (match queue with
    | none => true
    | some q => (s.ctx s.th.ctx).any fun c => (c.loaded s.mem).qmask.getLsbD q))

/-- A launch for a packet: its number is the scheduler's next. -/
def State.newLaunch (s : State) (p : Packet) (c : BitVec 32) (todo : List (Nat × Nat × Nat × Nat)) (node : Option (Nat × Nat))
    (core : Bool) : Launch :=
  { id := s.sched.nextId, pkt := p, ctx := c, todo := todo, ran := [], total := todo.length, exited := 0, failed := false, node := node, core := core }

/-- Keep a launch. -/
def State.addLaunch (s : State) (l : Launch) : State :=
  { s with sched := { s.sched with launches := s.sched.launches ++ [l], nextId := s.sched.nextId + 1 } }

def State.launch (s : State) (id : Nat) : Option Launch := s.sched.launches.find? fun l => l.id = id

def State.modLaunch (s : State) (id : Nat) (f : Launch → Launch) : State :=
  { s with sched := { s.sched with launches := s.sched.launches.map fun l => if l.id = id then f l else l } }

def State.queue (s : State) (q : Nat) : Queue := sget Queue.empty s.sched.queues q

def State.setQueue (s : State) (q : Nat) (x : Queue) : State :=
  { s with sched := { s.sched with queues := sset Queue.empty s.sched.queues q x } }

/-! ### `lpost` (R263) -/

/-- A refusal in xd: bit 63 and the code (R263, R270). -/
def refusalWord (code node : Nat) : Word := BitVec.ofNat 64 (2 ^ 63 + node % 2 ^ 16 * 2 ^ 16 + code)

/-- The packets that stand in a queue: those with threads still to start (R260). -/
def State.waitingIn (s : State) (q : Nat) : List Launch :=
  (s.queue q).packets.filterMap fun i => (s.launch i).bind fun l => if l.todo = [] then none else some l

/-- LPOST (R263). -/
def execLpost (d p q : XReg) (s : State) : Outcome State Fault Refusal :=
  runAct (do
    let n := (s.getX q).toNat
    if 64 ≤ n then illegal else pure ()
    needQuiet true
    let a := s.getX p
    needAlign a 16
    let b ← readOwn a a 8
    let pk := packetOf b
    let s ← get
    if !mayPost s pk (some n) then trapWith cPROT a else pure ()
    if packetBad b then retX d (refusalWord 0x01 0)
    else match s.packetRefusal s.th.ctx pk with
      | some c => retX d (refusalWord c 0)
      | none =>
        if 256 ≤ (s.waitingIn n).length then retX d (refusalWord 0x02 0)
        else
          let l := s.newLaunch pk (pk.context s.th.ctx) (pk.places fun _ _ => true) none false
          let x := s.queue n
          let s1 := s.addLaunch l
          set (s1.setQueue n { packets := (s.waitingIn n).map (·.id) ++ [l.id], accepted := x.accepted + 1 })
          retX d (BitVec.ofNat 64 ((x.accepted + 1) % 2 ^ 32))) s

/-! ### Placement (R257–R259, R286) -/

/-- The thread is running on a tile. -/
def Thread.runsOn (t : Thread) (h i : Nat) : Bool := t.place = some (h, i) && t.run == .running

/-- Bytes of the vector file that a thread's partition space takes (R62, R257). -/
def State.spaceUsed (s : State) (u : Thread) : Nat :=
  if u.gaveAway then 0
  else match u.spaceOf.bind s.thread with
    | some v => 128 * max u.grant v.grant
    | none => 128 * u.grant

/-- Unallocated bytes of a tile's vector file (R62); `but` is a thread whose space counts as unallocated (R258). -/
def State.freeFile (s : State) (h i : Nat) (but : Option Nat) : Nat :=
  262144 - ((s.threads.filter fun u => u.isOn h i && but != some u.tid).map s.spaceUsed).sum

/-- A tile instruction that reads a weight bank and is not finished (R201, R259). -/
def Thread.readsBank (t : Thread) : Bool := t.window.any fun e => !e.complete && (match e.instr with
  | .tmma _ => true
  | .tmms _ => true
  | _ => false)

/-- The tile-register regions of a node with an access that `ok` admits (R267): the registers named. -/
def Node.tileRegs (n : Node) (ok : Nat → Bool) : List Nat :=
  n.regs.flatMap fun (base, _, mode) => if mode.toNat / 8 % 2 = 1 ∧ ok (mode.toNat % 4) then bitsOf base.toNat 6 0 else []

/-- The tiles on which a node's threads have run. -/
def State.nodeTiles (s : State) (g n : Nat) : List (Nat × Nat) :=
  match s.sched.launches.find? fun l => l.node = some (g, n) with
  | none => []
  | some l => l.ran

/-- The tiles a node that only reads tile registers is bound to: those where predecessors that wrote them have run, each of the
registers (R269). -/
def State.boundTiles (s : State) (g : Gen) (n : Node) : Option (List (Nat × Nat)) :=
  let need := n.tileRegs (· = 1)
  if need = [] then none
  else
    let wrote := n.preds.filterMap fun p => match g.nodes[p]? with
      | some m => if g.st[p]? == some NodeState.finished then some (m.tileRegs (2 ≤ ·), s.nodeTiles g.id p) else none
      | none => none
    some ((wrote.flatMap (·.2)).filter fun t => need.all fun r => wrote.any fun w => w.1.contains r && w.2.contains t)

/-- The context of a node's instance: a launch of class 0 may name another than the graph's (R255, R268). -/
def Node.ctxOf (n : Node) (c : BitVec 32) : BitVec 32 := if n.cls = 0 then (packetOf n.packet).context c else c

/-- A tile is kept between the finish of a writer of its registers and the start of their reader (R269). -/
def State.tileKept (s : State) (h i : Nat) (c : BitVec 32) : Bool :=
  s.sched.gens.any fun g => (g.nodes.zip g.st).any fun (n, st) =>
    n.ctxOf g.ctx != c && ((st == .waiting && !g.failed) || st == .ready) && (match s.boundTiles g n with
     | some l => l.contains (h, i)
     | none => false)

/-- The tile may pass to a context: no thread of its owner runs there, none has stopped before a bank's reader, and no graph keeps
it (R76, R201, R269). -/
def State.passable (s : State) (h i : Nat) (c : BitVec 32) : Bool :=
  match (s.tile h i).owner with
  | none => true
  | some o => o == c ||
    (!(s.threads.any fun u => u.ctx = o && (u.runsOn h i || (u.isOn h i && u.readsBank))) && !s.tileKept h i c)

/-- The z tiles that are not free for a thread, by their holders. -/
def State.zHolders (s : State) (h i : Nat) (zs : List Nat) : List Nat := zs.filterMap fun n => ((s.tile h i).zAt n).holder

/-- The thread whose data stands in a suspended thread's space: its own, or the one it was given (R286). -/
def Thread.dataOf (u : Thread) : Nat := u.spaceOf.getD u.tid

/-- The identity of the thread whose partition stands in a space; all ones where none does (R286, R287). -/
def State.ownerOf (s : State) (tid : Nat) : Word := match s.thread tid with
  | some v => if v.part.isSome then v.selfOwner else -1
  | none => -1

/-- A grant and, unless it lies in free file, the suspended thread whose space it takes (R257, R286): `codes` in falling order. -/
def State.chooseSpot (s : State) (h i : Nat) (zs codes : List Nat) (self : Option Nat) : Option (Nat × Option Nat) :=
  let hold := (s.zHolders h i zs).filter fun t => self != some t
  let free := if hold = [] then codes.find? fun c => 128 * grantOf c ≤ s.freeFile h i self else none
  match free with
  | some c => some (grantOf c, none)
  | none => s.threads.findSome? fun u =>
      if u.isOn h i && u.suspended && !u.gaveAway && self != some u.tid && hold.all (fun t => t == u.tid || t == u.dataOf) then
        (codes.find? fun c => 128 * grantOf c ≤ s.spaceUsed u).map fun c => (grantOf c, some u.tid)
      else none

/-- Grant codes from the largest to the smallest. -/
def codesDown (lo hi : Nat) : List Nat := ((List.range (hi + 1)).filter fun c => lo ≤ c).reverse

/-- A pre-empted thread of the launch's priority waits on the tile: it resumes first (R259). -/
def State.resumesFirst (s : State) (h i prio : Nat) : Bool := s.threads.any fun u => u.isOn h i && u.suspended && u.prio = prio

/-- New threads may stand on the tile at all (R257, R343, R344). -/
def State.tileOpen (s : State) (h i : Nat) (c : BitVec 32) : Bool :=
  decide (h < 32) && decide (i < 16) && !(s.tile h i).marked && !(s.tile h i).retired && !s.sched.paused &&
  decide ((s.threads.filter fun u => u.runsOn h i).length < 16) && s.passable h i c

/-- A thread's registers at its start (R75); `x3` the gallery base. No instruction has transferred control to its first line:
should the entry raise TARGET, `trapval` holds the entry's own address (DESIGN CHOICE, log entry 78; R49 names no other). -/
def startThread (tid startNo : Nat) (who : Agent) (l : Launch) (c : Ctx) (rank : Nat) (x3 : Word) : Thread :=
  { Thread.powerOn 0 with
    tid := tid, who := who, ctx := l.ctx, launch := l.id, rank := BitVec.ofNat 16 rank, tcount := l.pkt.threads,
    stage := l.pkt.stage.setWidth 3, prio := l.pkt.prio, startNo := startNo,
    x := Vector.ofFn fun (i : Fin 64) => if i.val = 3 then x3 else if 4 ≤ i.val ∧ i.val < 12 then l.pkt.args.getD (i.val - 4) 0 else 0,
    pc := l.pkt.entry, entering := true, cameFrom := l.pkt.entry, pl := 0, sregs := { TrapRegs.zero with vec := c.trapvec },
    featen0 := c.featen, rc := c.rc }

/-- Before the first thread starts, the claim pair is filled (R257). The scheduler's own writes translate at S, and one that does
not translate here is not made (DESIGN CHOICE, log entry 38). -/
def State.fillPair (s : State) (l : Launch) : State :=
  if l.todo.length = l.total ∧ l.pkt.work ≠ 0 then
    match s.paOf l.ctx 1 l.pkt.work .write with
    | some pa => s.applyFor l.ctx pa (leBytes 8 0 ++ leBytes 8 l.pkt.count.toNat)
    | none => s
  else s

/-- A list with a tile added once. -/
def insertPlace (l : List (Nat × Nat)) (p : Nat × Nat) : List (Nat × Nat) := if l.contains p then l else l ++ [p]

/-- The scheduler's counters after a start. -/
def State.countStart (s : State) (l : Launch) (p : Nat × Nat × Nat × Nat) : State :=
  let s1 := s.modLaunch l.id fun x => { x with todo := x.todo.filter (· ≠ p), ran := insertPlace x.ran (p.2.1, p.2.2.1) }
  { s1 with sched := { s1.sched with nextId := s1.sched.nextId + 1, starts := s1.sched.starts + 1 } }

/-- A thread starts on a tile in free file or in a frozen partition's space (R257, R281, R286). -/
def State.startTile (s : State) (l : Launch) (c : Ctx) (p : Nat × Nat × Nat × Nat) (grant : Nat) (frozen : Option Nat) : State :=
  let (rank, h, i, idx) := p
  let s0 := s.fillPair l
  let tid := s0.sched.nextId
  let t0 := startThread tid s0.sched.starts (.tile h i idx) l c rank (c.gb + BitVec.ofNat 64 (h * 2 ^ 24 + i * 2 ^ 20))
  let t1 := { t0 with grant := grant, winrec := s0.freeArea c }
  match frozen.bind s0.thread with
  | none =>
    let t2 := { t1 with vowner := t1.selfOwner, part := some Part.start }
    let s1 := { s0 with others := s0.others ++ [t2] }
    let s2 := (s1.startArea t2).countStart l p
    (s2.passTile h i l.ctx (some (l.ctx, t2.winrec))).takeZ t2 fun _ => { ZTile.zero with holder := some tid }
  | some u =>
    let owner := u.dataOf
    let t2 := { t1 with vowner := s0.ownerOf owner, spaceOf := some owner }
    let s1 := { s0 with others := s0.others ++ [t2] }
    let s2 := ((s1.startArea t2).countStart l p).takeFreeZ t2
    s2.modThread u.tid fun x => { x with gaveAway := true, spaceOf := none }

/-- A Benzia core 0–13 that runs nothing. -/
def State.idleCore (s : State) : Option Thread := s.threads.find? fun t => match t.who with
  | .core n => decide (n < 14) && t.run == .exited
  | .tile _ _ _ => false

/-- A graph node's thread starts on a Benzia core (R75, R268). -/
def State.startCore (s : State) (l : Launch) (c : Ctx) (p : Nat × Nat × Nat × Nat) (t : Thread) : State :=
  let u := { startThread t.tid s.sched.starts t.who l c 0 c.gb with irq := t.irq, mregs := t.mregs }
  (s.modThread t.tid fun _ => u).countStart l p

/-- One thread of a launch is placed and started, if some place admits it. -/
def State.placeOne (s0 : State) (l : Launch) : Option State :=
  let s := s0.reload l.ctx
  match s.ctx l.ctx with
  | none => none
  | some c =>
    if c.frozen then none
    else if l.core then s.idleCore.bind fun t => l.todo.head?.map fun p => s.startCore l c p t
    else l.todo.findSome? fun p =>
      let (_, h, i, idx) := p
      if s.tileOpen h i l.ctx && !s.resumesFirst h i l.pkt.prio then
        (s.chooseSpot h i (heldZ idx l.pkt.threads) (codesDown l.pkt.gmin l.pkt.gmax) none).map fun (g, f) => s.startTile l c p g f
      else none

/-- Every thread of a launch is placed at once (R257 `gang`). -/
def State.placeAll (s : State) (id : Nat) : Nat → Option State
  | 0 => none
  | n + 1 =>
    match s.launch id with
    | none => none
    | some l => if l.todo = [] then some s else (s.placeOne l).bind fun s1 => s1.placeAll id n

/-- A placement of a launch: one thread, or all under `gang`. -/
def State.place (s : State) (l : Launch) : Option State :=
  if l.todo = [] then none
  else if l.pkt.gang then s.placeAll l.id (l.todo.length + 1) else s.placeOne l

/-! ### Graph instances (R267–R271) -/

def State.gen (s : State) (g : Nat) : Option Gen := s.sched.gens.find? fun x => x.id = g

def State.modGen (s : State) (g : Nat) (f : Gen → Gen) : State :=
  { s with sched := { s.sched with gens := s.sched.gens.map fun x => if x.id = g then f x else x } }

def Gen.state (g : Gen) (n : Nat) : NodeState := g.st.getD n .finished

/-- In a generation with a failed instance, the instances that have not entered the pool are skipped (R271). -/
def Gen.skipRest (g : Gen) : Gen :=
  if g.failed then { g with st := g.st.map fun x => if x = .waiting then .skipped else x } else g

def State.skipFailed (s : State) : State := { s with sched := { s.sched with gens := s.sched.gens.map Gen.skipRest } }

/-- The memory regions of a node: base, length, and whether it may write (R267). -/
def Node.memRegs (n : Node) : List (Nat × Nat × Bool) :=
  n.regs.filterMap fun (base, len, mode) =>
    if mode.toNat / 8 % 2 = 0 ∧ mode.toNat % 4 ≠ 0 then some (base.toNat, len, decide (2 ≤ mode.toNat % 4)) else none

/-- Two nodes declare overlapping regions, one of them with write access (R269). -/
def Node.clashes (a b : Node) : Bool :=
  a.memRegs.any fun (x, n, w) => b.memRegs.any fun (y, m, v) =>
    (w || v) && decide (0 < n) && decide (0 < m) && decide (x < y + m) && decide (y < x + n)

/-- A running instance of the same context forbids the start (R269). -/
def State.regionHeld (s : State) (g : Gen) (n : Nat) : Bool :=
  match g.nodes[n]? with
  | none => true
  | some a => s.sched.gens.any fun o => (List.range o.nodes.length).any fun k =>
      !(o.id = g.id && k = n) && o.state k == .running && (match o.nodes[k]? with
        | some b => b.ctxOf o.ctx == a.ctxOf g.ctx && a.clashes b
        | none => false)

/-- The halls a node with `near` regions is placed in: those whose slices hold a byte of each (R269). -/
def nearHall (c : Ctx) (n : Node) (h : Nat) : Bool :=
  let near := n.regs.filter fun (_, _, mode) => mode.toNat / 4 % 2 = 1 && mode.toNat % 4 != 0
  near.all fun (base, len, _) =>
    let a := c.gb.toNat + h * 2 ^ 24
    decide (0 < len) && decide (base.toNat < a + 2 ^ 24) && decide (a < base.toNat + len)

/-- The places of a node's threads (R257, R269): a node that no place admits stands in front of a hall that does not exist. Ranks
number the places that R269 admits, without a gap for those it leaves out (DESIGN CHOICE, log entry 38). -/
def State.nodePlaces (s : State) (g : Gen) (n : Node) (p : Packet) : List (Nat × Nat × Nat × Nat) :=
  match s.ctx (p.context g.ctx) with
  | none => []
  | some c =>
    let bound := s.boundTiles g n
    let l := p.places fun h t => nearHall c n h && (match bound with
      | some b => b.contains (h, t)
      | none => true)
    if l = [] then [(0, 32, 0, 0)] else l

/-- The predecessors' instances of the generation, and the instance of the generation before, have ended (R271). -/
def State.eligible (s : State) (g : Gen) (n : Nat) : Bool :=
  (match g.nodes[n]? with
   | some x => x.preds.all fun p => g.state p == .finished
   | none => false) &&
  (s.sched.gens.all fun o => !(o.ctx = g.ctx && o.addr = g.addr && o.g + 1 = g.g) || (match o.state n with
    | .finished => true
    | .skipped => true
    | .failed => true
    | _ => false))

/-- The transfer of an engine node (R268). -/
def engineKind (cls : Nat) (p : Packet) : XferKind :=
  match cls with
  | 2 => if p.count = 1 then .cpy2d else .cpy
  | 3 => .mdec
  | 4 => .sxfer
  | _ => .nxfer

/-- Bytes of a structure of a context, sixteen at a time, here: or nothing. -/
def State.readBlock (s : State) (c : BitVec 32) (a : Word) : Nat → Option (List Byte)
  | 0 => some []
  | n + 1 => do
    let pa ← s.paOf c 1 a .read
    let r ← s.readBlock c (a + 16) n
    if paKind pa = .reg ∨ s.touchesBad pa 16 then none else some (memRead s.mem pa 16 ++ r)

/-- An engine node starts (R268): its command is checked as an issue is; one that could not be issued fails. Its command, block
and landing word translate at S, whatever level launched the graph (DESIGN CHOICE, log entry 38). -/
def State.startEngine (s : State) (g : Gen) (n : Nat) (x : Node) : State :=
  let p := packetOf x.packet
  let k := engineKind x.cls p
  let t : Xfer := { id := 0, kind := k, ctx := g.ctx, pl := 1, tid := g.tid, block := p.entry, params := [], lword := p.done, units := 0,
                    sent := 0, moved := 0, wrote := 0, place := none, node := some (g.id, n) }
  let failed := fun (s : State) => s.modGen g.id fun z => { z with st := z.st.set n .failed, failed := true }
  let masked := (k == .mdec && !(s.ctx g.ctx).any fun c => c.featen.getLsbD 3) || (k == .sxfer && !(s.ctx g.ctx).any fun c => c.featen.getLsbD 4)
  match (if p.entry.toNat % 16 = 0 ∧ !masked then s.readBlock g.ctx p.entry (blockSize k / 16) else none) with
  | none => failed s
  | some b =>
    let t1 := { t with params := b }
    match s.issueOf t1 with
    | .ready u => (s.queueXfer t1 u).modGen g.id fun z => { z with st := z.st.set n .running }
    | .refused st => failed { s.writeBlock t1 (statusOffset k) (leBytes 4 st) with fresh := s.fresh + 1 }
    | .trap c _ => failed (s.writeBlock t1 (statusOffset k) (leBytes 4 c.toNat))

/-- An instance leaves the ready pool. -/
def State.unpool (s : State) (g n : Nat) : State := { s with sched := { s.sched with pool := s.sched.pool.filter (· ≠ (g, n)) } }

/-- A pooled instance of an aborted context fails (R271, R342). -/
def State.failNode (s : State) (gid n : Nat) : State :=
  match s.sched.launches.find? fun l => l.node = some (gid, n) with
  | some l => s.failLaunch l
  | none => (s.modGen gid fun z => { z with st := z.st.set n .failed, failed := true }).unpool gid n

/-- A pooled instance is placed or started, if that can be done (R260, R269). -/
def State.startInstance (s : State) (gid n : Nat) : Option State :=
  match s.gen gid with
  | none => none
  | some g =>
    match g.nodes[n]? with
    | none => none
    | some x =>
      if (s.ctx (x.ctxOf g.ctx)).any (·.aborted) then some (s.failNode gid n)
      else if (g.state n = .ready ∧ s.regionHeld g n) ∨ (s.ctx (x.ctxOf g.ctx)).any (·.frozen) then none
      else if 2 ≤ x.cls then some ((s.startEngine g n x).unpool gid n)
      else match s.sched.launches.find? fun l => l.node = some (gid, n) with
        | none => none
        | some l => (s.place l).map fun s1 =>
            let s2 := s1.modGen gid fun z => { z with st := z.st.set n .running }
            match s2.launch l.id with
            | some l2 => if l2.todo = [] then s2.unpool gid n else s2
            | none => s2

def State.instancePrio (s : State) (gid n : Nat) : Nat :=
  match (s.gen gid).bind fun g => g.nodes[n]? with
  | some x => (packetOf x.packet).prio
  | none => 0

/-! ### The scheduler's service (R260) -/

/-- While an update brings the queues to packet boundaries, only what has been placed in part is placed (R350). -/
def State.admits (s : State) (l : Launch) : Bool := s.svc.upd != 1 || l.ran != []

/-- What a contender offers: its priority and the machine after it is served. -/
def State.offer (s : State) (k : Nat) : Option (Nat × State) :=
  if k < 64 then (s.waitingIn k).head?.bind fun l => if s.admits l then (s.place l).map fun s1 => (l.pkt.prio, s1) else none
  else
    let able := s.sched.pool.filterMap fun (g, n) =>
      if s.svc.upd = 1 ∧ !(s.sched.launches.any fun l => l.node == some (g, n) && s.admits l) then none
      else (s.startInstance g n).map fun s1 => (s.instancePrio g n, s1)
    match (able.map (·.1)).max? with
    | none => none
    | some p => able.find? fun x => x.1 = p

/-- The contender that is served: of the highest priority, the first at or after the pointer (R260). -/
def State.winner (s : State) : Option (Nat × Nat × State) :=
  let able := (List.range 65).filterMap fun k => (s.offer k).map fun (p, s1) => (k, p, s1)
  match (able.map fun x => x.2.1).max? with
  | none => none
  | some p =>
    let ptr := s.sched.pointers.toList.getD p 0
    let mine := able.filter fun x => x.2.1 = p
    match mine.find? fun x => ptr ≤ x.1 with
    | some x => some x
    | none => mine.head?

def setPointer (v : Vector Nat 8) (p x : Nat) : Vector Nat 8 := if h : p < 8 then v.set p x h else v

/-- One placement. -/
def State.serve (s : State) : State :=
  if s.sched.paused then s
  else match s.winner with
    | none => s
    | some (k, p, s1) => { s1 with sched := { s1.sched with pointers := setPointer s1.sched.pointers p ((k + 1) % 65) } }

/-- The launches that wait for a place: the heads of the queues and the pooled instances. -/
def State.wanting (s : State) : List Launch :=
  ((List.range 64).filterMap fun q => (s.waitingIn q).head?) ++
  s.sched.pool.filterMap fun (g, n) => (s.sched.launches.find? fun l => l.node = some (g, n)).bind fun l =>
    if l.core ∨ l.todo = [] then none else some l

/-! ### The way back of a suspended thread (R258, R286) -/

/-- How a suspended thread comes back: its grant, whether its partition stays, and the suspended thread whose space it takes. -/
inductive Comeback where
  | own (grant : Nat)
  | fresh (grant : Nat)
  | lent (grant : Nat)
  | lost (grant : Nat) (frozen : Option Nat)
  deriving DecidableEq, Repr

/-- The grant codes open to a thread at a yield point, or its former one (R258). -/
def State.codesFor (s : State) (t : Thread) : List Nat :=
  let same := (List.range 6).filter fun c => grantOf c = t.grant
  if t.run = .suspended true then
    match s.launch t.launch with
    | some l => codesDown l.pkt.gmin l.pkt.gmax
    | none => same
  else same

/-- The thread's own partition has been given away, or was and has not been restored since (R286). -/
def Thread.homeless (t : Thread) : Bool := t.gaveAway || (t.spaceOf.isNone && t.part.isNone)

/-- A tile instruction of the thread stands in its tile's queue behind the bank reader of a suspended thread that it conflicts
with (R187, R259). -/
def State.behindReader (s : State) (u : Thread) (h i : Nat) : Bool :=
  let q := s.cleanQueue (s.tile h i)
  u.window.any fun e => !e.complete && isTileInstr e.instr &&
    (q.takeWhile fun p => p != { tid := u.tid, post := e.post }).any fun p => p.tid != u.tid && (match s.thread p.tid with
      | some v => v.suspended && v.readsBank && (v.entry p.post).any fun x => tileConflict x.instr e.instr
      | none => false)

/-- Work of higher priority is to be placed where a suspended thread stands, which it was pre-empted for; of a `gang`, a part may
have to wait for others (R259). A thread that stopped before the end of a bank's reader comes back for it. -/
def State.outranked (s : State) (t : Thread) (h i : Nat) : Bool :=
  !t.readsBank && s.wanting.any fun l =>
    decide (t.prio < l.pkt.prio) && s.admits l && !(s.ctx l.ctx).any (·.frozen) && s.tileOpen h i l.ctx && l.todo.any fun (_, a, b, idx) =>
      a == h && b == i && (l.pkt.gang || (s.chooseSpot h i (heldZ idx l.pkt.threads) (codesDown l.pkt.gmin l.pkt.gmax) none).isSome)

/-- The way back of a thread, if its tile admits one now. It waits for work of higher priority, and where one slot is free for the
reader of a bank that its own tile instruction waits for (R259). At a yield point the grant is chosen afresh, also by a thread
that stands in another one's space: the space stays its place under the new grant (R258; log entry 38). -/
def State.comeback (s : State) (t : Thread) (h i : Nat) : Option Comeback :=
  if (s.ctx t.ctx).any (·.frozen) then none
  else if !(decide ((s.threads.filter fun u => u.runsOn h i).length < 16) && !(s.tile h i).retired && s.passable h i t.ctx) then none
  else if s.outranked t h i || (decide (15 ≤ (s.threads.filter fun u => u.runsOn h i).length) && s.behindReader t h i) then none
  else if t.homeless then (s.chooseSpot h i t.heldZ (s.codesFor t) (some t.tid)).map fun (g, f) => .lost g f
  else if t.spaceOf.isSome then
    ((s.codesFor t).find? fun c => 128 * grantOf c ≤ s.freeFile h i (some t.tid)).map fun c => .lent (grantOf c)
  else
    match (s.codesFor t).find? fun c => 128 * grantOf c ≤ s.freeFile h i (some t.tid) with
    | none => none
    | some c => some (if grantOf c = t.grant then .own t.grant else .fresh (grantOf c))

/-! ### Pre-emption for work that cannot be placed (R259) -/

/-- The thread that is pre-empted first: lowest priority, then most recently started (R259). -/
def worse (a b : Thread) : Bool := decide (a.prio < b.prio) || (a.prio == b.prio && decide (b.startNo < a.startNo))

def worst : List Thread → Option Thread
  | [] => none
  | t :: r => match worst r with
    | none => some t
    | some u => some (if worse u t then u else t)

/-- Work that waits for room (R259): its priority and context, and the places it could take, each with hall, tile, the z tiles it
would hold and the grant codes that serve; `self` is the suspended thread that waits to come back, `zfree` says that it keeps its
own space. -/
structure Want where
  prio  : Nat
  ctx   : BitVec 32
  spots : List (Nat × Nat × List Nat × List Nat)
  self  : Option Nat
  keeps : Bool
  deriving DecidableEq, Repr

/-- What a launch wants: under `gang` the places that are left once as many threads as can be placed are. -/
def Launch.want (l : Launch) : Want :=
  { prio := l.pkt.prio, ctx := l.ctx, self := none, keeps := false,
    spots := l.todo.map fun (_, h, i, idx) => (h, i, heldZ idx l.pkt.threads, codesDown l.pkt.gmin l.pkt.gmax) }

/-- The threads of a launch that can be placed are placed: the machine in which the others find no room. -/
def State.packed (s : State) (id : Nat) : Nat → State
  | 0 => s
  | n + 1 =>
    match (s.launch id).bind s.placeOne with
    | none => s
    | some s1 => s1.packed id n

/-- A thread on a tile holds a slot, vector file or z tiles that a place wants and that are not to be had otherwise (R259). -/
def State.inTheWay (s : State) (w : Want) (spot : Nat × Nat × List Nat × List Nat) (u : Thread) : Bool :=
  let (h, i, zs, codes) := spot
  let slots := decide (16 ≤ (s.threads.filter fun x => x.runsOn h i).length)
  let holders := if w.keeps then [] else (s.zHolders h i zs).filter fun t => w.self != some t
  let file := holders.isEmpty && (codes.all fun c => s.freeFile h i w.self < 128 * grantOf c) && decide (0 < s.spaceUsed u)
  slots || holders.any (fun t => t == u.tid || t == u.dataOf) || file

/-- The running threads of lower priority on a tile that hold what a place there wants. -/
def State.victims (s : State) (w : Want) (spot : Nat × Nat × List Nat × List Nat) : List Thread :=
  s.threads.filter fun u => u.runsOn spot.1 spot.2.1 && decide (u.prio < w.prio) && s.inTheWay w spot u

/-- A thread is asked to give way; one request a tile at a time (R259; log entry 38). `there` is the machine in which the work
finds no room. -/
def State.ask1 (s there : State) (w : Want) : State :=
  let pick := w.spots.findSome? fun spot =>
    let (h, i, _, _) := spot
    if (s.tile h i).marked || (s.tile h i).retired || s.threads.any (fun u => u.runsOn h i && u.pendPre.isSome) then none
    else worst (there.victims w spot)
  match pick with
  | none => s
  | some u => s.modThread u.tid fun t => { t with pendPre := some (t.ctx != w.ctx) }

/-- What finds no room, each with the machine in which it finds none: launches, and suspended threads. -/
def State.stuck (s : State) : List (Want × State) :=
  (s.wanting.filterMap fun l =>
    if (s.place l).isSome then none
    else
      let there := if l.pkt.gang then s.packed l.id l.todo.length else s
      (there.launch l.id).map fun x => (x.want, there)) ++
  s.threads.filterMap fun t => match t.place with
    | some (h, i) =>
      if t.suspended && (s.comeback t h i).isNone then
        some ({ prio := t.prio, ctx := t.ctx, spots := [(h, i, t.heldZ, s.codesFor t)], self := some t.tid, keeps := !t.homeless }, s)
      else none
    | none => none

/-- A running thread whose tile instruction waits for a weight-bank reader of a suspended thread gives up its slot, where no other
is free, so that the reader can finish (R187, R259). -/
def State.yieldToReader (s : State) (u : Thread) : State :=
  match u.place with
  | none => s
  | some (h, i) =>
    if u.run == .running && s.behindReader u h i && u.pendPre.isNone && decide (16 ≤ (s.threads.filter fun x => x.runsOn h i).length) &&
        !(s.threads.any fun x => x.runsOn h i && x.pendPre.isSome) then
      s.modThread u.tid fun t => { t with pendPre := some false }
    else s

/-- Work that cannot be placed makes the scheduler ask threads of lower priority to give way, for the work of highest priority first
(R259). -/
def State.askVictim (s : State) : State :=
  let all := s.stuck
  let order := (List.range 8).reverse.flatMap fun p => all.filter fun x => x.1.prio = p
  let s1 := order.foldl (fun s x => s.ask1 x.2 x.1) s
  s1.threads.foldl State.yieldToReader s1

/-- THREAD_START (R257, R260): the scheduler serves one contender, and asks for room for work that has none; a packet that has
been placed whole may be what an update waits for (R350). -/
def execThreadStart (s : State) : Outcome State Fault Refusal :=
  .next (if s.sched.paused then s else s.askVictim.serve.closeQueues)

/-- GRAPH_INSTANCE_START (R271): the instance enters the ready pool, and is started when it is the one to be served. -/
def execGraphInstanceStart (gid n : Nat) (s : State) : Outcome State Fault Refusal :=
  let s0 := s.skipFailed
  .next (match s0.gen gid with
    | none => s
    | some g =>
      if g.state n = .waiting ∧ s0.eligible g n ∧ n < g.nodes.length ∧ s0.sched.pool.length < 4096 then
        match g.nodes[n]? with
        | none => s
        | some x =>
          let p := packetOf x.packet
          let s1 := s0.modGen gid fun z => { z with st := z.st.set n .ready }
          let s2 := { s1 with sched := { s1.sched with pool := s1.sched.pool ++ [(gid, n)] } }
          let s3 := if x.cls = 0 then s2.addLaunch (s2.newLaunch p (p.context g.ctx) (s2.nodePlaces g x p) (some (gid, n)) false)
            else if x.cls = 1 then s2.addLaunch (s2.newLaunch p g.ctx [(0, 0, 0, 0)] (some (gid, n)) true)
            else s2
          match s3.winner with
          | some (64, _, s4) => if s4.gen gid |>.any fun z => z.state n != .ready then s3.serve else s3
          | _ => s3
      else s)

/-- GRAPH_GENERATION_FINISH (R271): every instance has finished or been skipped, and every numbered request of the generation is
resolved, since a fault deferred past exit sets its status first (R314; DEDUCED, log entry 81); the status byte, then `finished`.
Where one of them does not translate here at S it is not written (DESIGN CHOICE, log entry 38). -/
def execGraphGenerationFinish (gid : Nat) (s : State) : Outcome State Fault Refusal :=
  let s0 := s.skipFailed
  .next (match s0.gen gid with
    | none => s
    | some g =>
      let ended := g.st.all fun x => x == .finished || x == .skipped || x == .failed
      let older := s0.sched.gens.any fun o => o.ctx = g.ctx && o.addr = g.addr && o.g != g.g && atOrBelow g.g o.g
      let mine := fun (o : OutSerial) => o.gen.any fun x => x.1 = gid
      let remote := s0.ctxs.any fun c => (c.out.any fun o => o.st != .resolved && mine o) || c.records.any fun r => mine r.out
      if !ended || older || remote then s
      else
        let at_ := fun (off : Nat) => s0.paOf g.ctx 1 (g.addr + BitVec.ofNat 64 off) .write
        let s1 := match at_ (16 + g.g.toNat % 8) with
          | some pa => s0.apply pa [(if g.failed then 1 else 0) + (if g.deferred then 2 else 0)]
          | none => s0
        let s2 := match at_ 12 with
          | some pa => s1.apply pa (leBytes 4 (leNat (memRead s1.mem pa 4) + 1))
          | none => s1
        { s2 with sched := { s2.sched with gens := s2.sched.gens.filter fun x => x.id ≠ gid } })

/-! ### `glaunch` and `gwait` (R270, R272) -/

/-- A node record (R267). -/
def nodeOf (b : List Byte) : Node :=
  { packet := bytesAt b 0 128, cls := fieldAt b 129 1,
    preds := (List.range (min (fieldAt b 128 1) 8)).map fun i => fieldAt b (136 + 2 * i) 2,
    regs := (List.range 4).map fun i =>
      (leWord (bytesAt b (160 + 16 * i) 8), fieldAt b (168 + 16 * i) 6, BitVec.ofNat 8 (fieldAt b (174 + 16 * i) 1)) }

/-- A region outside R267. -/
def regionBad (cls : Nat) (b : List Byte) (i : Nat) : Bool :=
  let base := fieldAt b (160 + 16 * i) 8
  let len := fieldAt b (168 + 16 * i) 6
  let mode := fieldAt b (174 + 16 * i) 1
  let tile := mode / 8 % 2
  let near := mode / 4 % 2
  decide (16 ≤ mode) || fieldAt b (175 + 16 * i) 1 != 0 ||
  (mode % 4 == 0 && (base != 0 || len != 0)) ||
  (near == 1 && (cls != 0 || tile == 1)) || (tile == 1 && cls != 0) ||
  (tile == 1 && (len != 0 || decide (64 ≤ base) || base == 0))

/-- A record outside R255, R267 or R268. -/
def recordBad (nnode : Nat) (b : List Byte) : Bool :=
  let npred := fieldAt b 128 1
  let cls := fieldAt b 129 1
  decide (8 < npred) || decide (5 < cls) || fieldAt b 130 6 != 0 || fieldAt b 152 8 != 0 || fieldAt b 224 32 != 0 ||
  ((List.range 8).any fun i => let p := fieldAt b (136 + 2 * i) 2; if i < npred then decide (nnode ≤ p) else p != 0) ||
  ((List.range 4).any fun i => regionBad cls b i) || nodePacketBad cls (bytesAt b 0 128)

/-- The nodes that lie on a cycle of predecessor edges (R270). -/
def onCycle (nodes : List Node) : List Nat :=
  let es := (indexed nodes).flatMap fun (i, n) => n.preds.map fun p => (i, p)
  (List.range nodes.length).filter fun i => (reach es (nodes.length + 1) ((nodes[i]?.map Node.preds).getD [])).contains i

/-- Read the records of a graph that starts at `start`: nothing is changed. -/
def readRecordsAt (start a : Word) : Nat → Act (List (List Byte))
  | 0 => pure []
  | n + 1 => do
    let b ← readOwn start a 16
    let r ← readRecordsAt start (a + 256) n
    pure (b :: r)

/-- Node records held for the generations in flight (R256 code 0x04). -/
def State.snapshotUsed (s : State) : Nat := (s.sched.gens.map fun g => g.nodes.length).sum

/-- GLAUNCH (R270). The header's page must admit reads and writes, before any refusal: R262 names no access (DESIGN CHOICE, log
entry 38). -/
def execGlaunch (d g : XReg) (s : State) : Outcome State Fault Refusal :=
  runAct (do
    needQuiet true
    let a := s.getX g
    needAlign a 64
    let _ ← xlate a .both
    let h ← readOwn a a 4
    let nnode := fieldAt h 0 2
    let bad := !within 1 1024 nnode || fieldAt h 2 6 != 0 || fieldAt h 24 40 != 0
    let recs ← readRecordsAt a (a + 64) (if bad then 0 else nnode)
    let s ← get
    let nodes := recs.map nodeOf
    let tile := (indexed nodes).filter fun (_, n) => n.cls = 0
    if nodes.any fun n => !mayPost s (packetOf n.packet) none then trapWith cPROT a else pure ()
    let issued := fieldAt h 8 4
    let finished := fieldAt h 12 4
    if (issued + 2 ^ 32 - finished) % 2 ^ 32 = 8 then endWith .wait else pure ()
    let wrong := ((indexed recs).filter fun (_, b) => recordBad nnode b).map (·.1)
    let first := fun (c : Nat) => (tile.find? fun (_, n) => s.packetRefusal s.th.ctx (packetOf n.packet) = some c).map (·.1)
    if bad then retX d (refusalWord 0x01 0)
    else match (wrong ++ onCycle nodes).min? with
      | some i => retX d (refusalWord 0x01 i)
      | none =>
        match first 0x06, first 0x05, first 0x03 with
        | some i, _, _ => retX d (refusalWord 0x06 i)
        | none, some i, _ => retX d (refusalWord 0x05 i)
        | none, none, some i => retX d (refusalWord 0x03 i)
        | none, none, none =>
          if 4096 ≤ s.sched.pool.length ∨ 8192 < s.snapshotUsed + nnode then retX d (refusalWord 0x04 0)
          else
            let n := (issued + 1) % 2 ^ 32
            let s1 := match s.paOf s.th.ctx s.th.pl (a + 8) .write with
              | some pa => s.apply pa (leBytes 4 n)
              | none => s
            let gen : Gen := { id := s1.sched.nextId, ctx := s1.th.ctx, addr := a, g := BitVec.ofNat 32 n, nodes := nodes,
                               st := nodes.map fun _ => .waiting, failed := false, deferred := false, tid := s1.th.tid }
            set { s1 with sched := { s1.sched with gens := s1.sched.gens ++ [gen], nextId := s1.sched.nextId + 1 } }
            retX d (BitVec.ofNat 64 n)) s

/-- GWAIT (R272). -/
def execGwait (d g n : XReg) (s : State) : Outcome State Fault Refusal :=
  runAct (do
    let a := s.getX g
    needAlign a 64
    let h ← readOwn a a 4
    let k := (s.getX n).toNat % 2 ^ 32
    let past := (fieldAt h 12 4 + 2 ^ 32 - k) % 2 ^ 32
    if 2 ^ 31 ≤ past then endWith .wait else pure ()
    acquire
    retX d (if past < 8 then BitVec.ofNat 64 (fieldAt h (16 + k % 8) 1) else 0xFF)) s

/-! ### The end of a thread (R104) -/

/-- A thread of a launch has exited: a unit for `done`, and the node's instance finishes with the last (R104, R261, R271). -/
def State.launchExit (s : State) (id : Nat) : State :=
  match s.launch id with
  | none => s
  | some l =>
    let s1 := (s.arriveVa l.ctx l.pkt.done 1).modLaunch id fun x => { x with exited := x.exited + 1 }
    match l.node with
    | some (g, n) =>
      if l.exited + 1 ≥ l.total ∧ !l.failed then s1.modGen g fun z => { z with st := z.st.set n .finished } else s1
    | none => s1

/-- The thread's slot and partition return to the scheduler (R104, R286). -/
def Thread.ended (t : Thread) : Thread :=
  { t with run := .exited, vowner := -1, part := none, window := [], frozen := false, spaceOf := none, gaveAway := false,
           cursors := Vector.replicate 4 Cursor.closed, pendPre := none, await := none, unchecked := [], loads := [], saved := none,
           rests := [], stripC := none }

/-- Benzia OS ends a launch as failed (R261): its threads are discarded. -/
def State.endLaunch (s : State) (id : Nat) : State :=
  match s.launch id with
  | none => s
  | some l =>
    if l.failed ∨ l.total ≤ l.exited then s
    else
      let mine := fun (t : Thread) => t.launch = id && t.ctx = l.ctx && t.alive
      let stop := fun (t : Thread) => if mine t then t.halt else t
      let s1 := { s with th := stop s.th, others := s.others.map stop, stalled := s.stalled && !mine s.th }
      let s2 := (s.threads.filter mine).foldl (fun s t => (s.releaseFabrics t.tid).releaseZ t.tid) s1
      s2.failLaunch l

/-- EXIT (R104). -/
def execExit (s : State) : Outcome State Fault Refusal :=
  runAct (do
    needEmpty
    needQuiet false
    let s ← get
    if s.fabric.runs.any fun r => r.tid = s.th.tid then endWith .wait else pure ()
    let s1 := (s.releaseFabrics s.th.tid).releaseZ s.th.tid
    let s2 := s1.launchExit s1.th.launch
    set { s2 with th := s2.th.ended }) s

end Sys2Proof.Machine
end

