-- ==== Sys2Proof/Machine/Context.lean ====
section
/-! DEFINITION. Pre-emption, yield points and resumption (spec/05 R103, spec/08 R143, R144, spec/15 R258, R259, spec/16 R285, R286,
R289), `vsave` and `vrest` (R287, R288), and the passing of tiles and slices (spec/04 R76, spec/10 R202, spec/22 R344). -/

namespace Sys2Proof.Machine

open Host (Outcome)

/-! ### Suspension (R285, R289) -/

/-- The loads that a thread has committed are performed. -/
def State.finishLoads (s : State) (tid : Nat) : State :=
  s.onThread tid fun s => match performLoads s.th.loads.length s with
    | .ok (_, s1) => s1
    | .error (.abort pa, s1) => s1.dabort pa
    | .error (_, s1) => s1

/-- The thread leaves its slot: formed trains go out, what is read in part is given up, its scalar state is written, its fabric is
released. -/
def State.suspend (s : State) (tid : Nat) (atYield : Bool) : State :=
  let s1 := ((s.finishLoads tid).onThread tid State.sendAllFormed).onThread tid State.giveUpParts
  let s2 := s1.modThread tid fun t =>
    if t.run = .running then
      { t with run := .suspended atYield, pendPre := none, await := match t.await with
          | some (.access _) => none
          | some (.object _ _) => none
          | a => a }
    else t
  match s2.thread tid with
  | none => s2
  | some t => if t.suspended then (s2.saveScalar t).switchFabric t else s2

/-- A request that must be carried to its reply before the thread stops (R310). -/
def Thread.mustCarry (t : Thread) : Bool :=
  t.carrying || t.window.any fun e => (vamoKey e.instr).isSome && e.sent != []

/-- A pre-emption has to wait: a run with a collective binding, a reader of a weight bank in favour of another context, a request
to be carried, a check under way (R243, R259, R310, R338). -/
def State.exempt (s : State) (t : Thread) : Bool :=
  s.collectiveBusy t.tid || (t.pendPre == some true && t.readsBank) || t.mustCarry || t.unchecked != []

/-- A pre-emption of the thread still has to wait once the trains it has formed are sent (R221, R310). -/
def State.heldBack (s : State) (tid : Nat) : Bool := (s.thread tid).any s.exempt

/-- Control at the resume pc. Whether a thread that was stopped in the middle of a line goes on from the snapshot it had is open
(R50): its line is entered afresh, with all checks (DESIGN CHOICE, log entry 79); `trapval` of TARGET is then the resume pc itself
(log entry 78). -/
def Thread.goOn (t : Thread) : Thread :=
  { t with run := .running, entering := true, cameFrom := t.pc, line := none, lineIn := none, prefetched := [], stripC := none }

/-- The registers that a thread of a context has from its record (R323, R326). -/
def Thread.withCtx (t : Thread) (c : Option Ctx) : Thread := match c with
  | some c => { t with featen0 := c.featen, rc := c.rc }
  | none => t

/-- The pre-emption of a graph node's thread on a Benzia core and its resumption are one step: it has no save area, its state
stays in the core, and it goes on with the registers of its context's record (R283, R326; DEDUCED, log entry 40). -/
def State.restopCore (s : State) (t : Thread) : State :=
  if t.launch = 0 ∨ t.mustCarry then s
  else
    let s1 := (s.finishLoads t.tid).reload t.ctx
    s1.modThread t.tid fun u => if u.run = .running then { (u.withCtx (s1.ctx u.ctx)).goOn with await := none } else u

/-- The pre-emption of a running thread at its instruction boundary, or its request while an exemption holds. The trains formed go
out first: the thread waits for the replies to its returning ones. -/
def State.stopThread (s : State) (tid : Nat) : State :=
  match s.thread tid with
  | none => s
  | some t =>
    if t.run ≠ .running then s
    else if t.isCore then s.restopCore t
    else
      let ask := fun (s : State) => s.modThread tid fun t => { t with pendPre := some (t.pendPre.getD false) }
      if s.exempt t then ask s
      else
        let s1 := s.onThread tid State.sendAllFormed
        if s1.heldBack tid then ask s1
        else (s1.modThread tid fun t => { t with stripC := none }).suspend tid false

/-- PREEMPT (R285). -/
def execPreempt (tid : Nat) (s : State) : Outcome State Fault Refusal := .next (s.stopThread tid)

/-- PREEMPT_TIMEOUT (R259): a pending pre-emption has met no yield point. -/
def execPreemptTimeout (tid : Nat) (s : State) : Outcome State Fault Refusal :=
  .next (if (s.thread tid).any fun t => t.pendPre.isSome then s.stopThread tid else s)

/-- YIELD (R103). -/
def execYield (s : State) : Outcome State Fault Refusal :=
  runAct (do
    needEmpty
    let s ← get
    set s.advance
    if s.th.pendPre.isSome && !s.th.isCore then
      let s1 := s.advance
      set ({ s1 with th := { s1.th with stripC := none } }.suspend s1.th.tid true)
    else pure ()) s

/-- STRIP (R143, R144): `strip.y` with a pre-emption pending is committed, and the thread then waits for an empty window. -/
def execStrip (c : XReg) (o : StripOp) (s : State) : Outcome State Fault Refusal :=
  runAct (do
    notOnCore
    waitTrims
    let s ← get
    let t := stripGo (stripRegs s.th c o) c o
    set { s with th := if o.y && t.pendPre.isSome then { t with stripC := some c } else t }) s

/-- A thread that has committed a `strip.y` under a pending pre-emption is suspended once its window is empty (R144); a trap taken
meanwhile, or the end of the request, lets it run on. -/
def State.atStripYield (s : State) : State :=
  if s.th.frozen ∨ s.th.pendPre.isNone then { s with th := { s.th with stripC := none } }
  else if (s.th.window.any fun e => !e.complete) ∨ s.th.unchecked ≠ [] then { s with stalled := true }
  else s.suspend s.th.tid true

/-! ### Copy remainders (R289) -/

/-- A copy of a switched-out thread stops after `d` bytes; they count at the landing word, and the rest is recorded (R289). -/
def State.cutCopy (s : State) (id d : Nat) : State :=
  match s.xfers.find? fun x => x.id = id with
    | none => s
    | some x =>
      match s.thread x.tid with
      | none => s
      | some t =>
        let step := if x.kind = .cpy ∧ x.zmode ≠ 0 then x.zsize else 1
        if !((x.kind == .cpy || x.kind == .cpy2d) && x.node.isNone && t.suspended && decide (x.moved ≤ d) && decide (d < x.copyLen) &&
            d % step == 0) then s
        else
          let r := s.runCopy x d
          match r.stop with
          | some .silent => s
          | some (.fault c) => r.s.stopCopy x c (s.overlaps x) r.done r.wrote
          | none =>
            let s1 := r.s.unitsTo x (d - x.sent)
            let n := s1.areaField t.ctx t.winrec 0x10 1
            let rec_ := leBytes 8 x.block.toNat ++ leBytes 8 x.lword.toNat ++ leBytes 8 d ++ leBytes 6 r.wrote ++
              leBytes 1 (if x.kind = .cpy then 0 else 1) ++ leBytes 1 0
            let s2 := s1.areaWrite t.ctx t.winrec (0x580 + 32 * n) rec_
            let s3 := (s2.areaWrite t.ctx t.winrec 0x10 (leBytes 1 (n + 1))).modThread t.tid fun u =>
              { u with rests := u.rests.take n ++ [(x.pl, x.units)] }
            { s3 with xfers := s3.xfers.filter fun y => y.id ≠ id }

/-- COPY_DRAIN_TIMEOUT (R289): the engine has drained for as long as it may. -/
def execCopyDrainTimeout (id d : Nat) (s : State) : Outcome State Fault Refusal := .next (s.cutCopy id d)

/-- One remainder is issued again from its byte, at the level that issued the copy (R289). Where its block does not read any more,
the copy stops there and its remaining units arrive. -/
def State.reissue (s : State) (t : Thread) (i : Nat) (b : List Byte) : State :=
  let k : XferKind := if fieldAt b 30 1 = 0 then .cpy else .cpy2d
  let block := leWord (bytesAt b 0 8)
  let d := fieldAt b 16 8
  let (pl, units) := t.rests.getD i (0, d)
  let x := { t.newXfer k block (leWord (bytesAt b 8 8)) with pl := pl, sent := d, moved := d, wrote := fieldAt b 24 6, units := units }
  match s.readBlock t.ctx block (blockSize k / 16) with
  | none => s.unitsTo x (units - d)
  | some p =>
    let y := { x with params := p }
    s.queueXfer y y.copyLen

/-- The remainders of a thread's area. -/
def State.reissueAll (s : State) (t : Thread) : State :=
  let n := s.areaField t.ctx t.winrec 0x10 1
  if n = 0 then s
  else
    let s1 := (List.range n).foldl (fun s i => s.reissue t i (s.areaRead t.ctx t.winrec (0x580 + 32 * i) 32)) s
    (s1.areaWrite t.ctx t.winrec 0x10 (leBytes 1 0)).modThread t.tid fun u => { u with rests := [] }

/-! ### Resumption (R258, R286) -/

/-- A thread's grant and vl at its return (R103, R144). -/
def Thread.regrant (t : Thread) (g : Nat) : Thread :=
  if g = t.grant then t
  else
    let vl := match t.stripC with
      | some c => roundVl (min (t.getX c).toNat g) (blockLen t.vtype)
      | none => 0
    { t with grant := g, vl := vl }

/-- THREAD_RESUME (R286). Two of R286's cases meet where the thread's own partition was given away and it is given another frozen
one's space: `vowner` is then that one's owner, so that it is saved (DESIGN CHOICE, log entry 38). A save area in an uncorrectable
unit ends the context (R341). -/
def execThreadResume (tid : Nat) (s0 : State) : Outcome State Fault Refusal :=
  .next (match s0.thread tid with
    | none => s0
    | some t =>
      match t.place with
      | none => s0
      | some (h, i) =>
        if !t.suspended then s0
        else match s0.comeback t h i, s0.areaBad t.ctx t.winrec with
          | none, _ => s0
          | some _, some pa => s0.meetBad t.ctx pa
          | some w, none =>
            let s := s0.reload t.ctx
            let t1 := (s.loadScalar t).withCtx (s.ctx t.ctx)
            let area := some (t.ctx, t.winrec)
            match w with
            | .own g =>
              let t2 := { (t1.regrant g).goOn with vowner := t.selfOwner }
              ((s.modThread tid fun _ => t2).passTile h i t.ctx area).reissueAll t2
            | .fresh g =>
              let t2 := { (t1.regrant g).goOn with vowner := t.selfOwner, part := some Part.start }
              ((s.modThread tid fun _ => t2).passTile h i t.ctx area).reissueAll t2
            | .lent g =>
              let t2 := { (t1.regrant g).goOn with vowner := s.ownerOf t.dataOf }
              (s.modThread tid fun _ => t2).reissueAll t2
            | .lost g frozen =>
              let t2 := { (t1.regrant g).goOn with part := none, gaveAway := false }
              match frozen.bind s.thread with
              | none =>
                let t3 := { t2 with vowner := -1, spaceOf := none }
                ((s.modThread tid fun _ => t3).takeZ t3 fun n => { (s.tile h i).zAt n with holder := some tid }).reissueAll t3
              | some u =>
                let t3 := { t2 with vowner := s.ownerOf u.dataOf, spaceOf := some u.dataOf }
                (((s.modThread tid fun _ => t3).takeFreeZ t3).modThread u.tid fun x => { x with gaveAway := true, spaceOf := none }).reissueAll t3)

/-! ### `vsave` and `vrest` (R287, R288) -/

/-- Every page of an area is checked, lowest address first (R90): the fault, its address, and whether the area is left
unpredictable. A page homed on another device raises PROT with the area's address, and changes nothing (R300). -/
def State.areaFault (s : State) (base : Word) (acc : Access) : List Nat → Option (Byte × Word × Bool)
  | [] => none
  | k :: r =>
    match s.locate (areaPage base k) acc with
    | .error c => some (c, areaPage base k, true)
    | .ok (.away _ _, _) => some (cPROT, base, false)
    | .ok (.here _, _) => s.areaFault base acc r

/-- Every byte of an area that can be written becomes unpredictable (R287, R7). -/
def State.scrubArea (s : State) (base : Word) : Nat → State
  | 0 => s
  | n + 1 =>
    let s1 := s.putVa s.th.ctx (base + BitVec.ofNat 64 n) [Config.freeByte s.fresh]
    State.scrubArea { s1 with fresh := s1.fresh + 1 } base n

/-- The thread whose partition `vowner` names in the slot's space (R287). -/
def State.partOwner (s : State) : Option Thread :=
  match s.lender.filter fun v => v.part.isSome with
  | some v => some v
  | none => if s.th.vowner = s.th.selfOwner ∧ s.th.part.isSome then some s.th else none

/-- Work of a window that has started and is not complete: units in flight, a check, and of a window that works or has a
collective run an iteration of the fabric or a block or row read in part (R287, R310, R338). What else a frozen window had begun
is given up (`giveUpParts`). -/
def State.windowBusy (s : State) (t : Thread) : Bool :=
  let works := t.run == .running && !t.frozen
  (t.window.any fun e => e.sent != [] || (works && e.got != [])) || t.unchecked != [] ||
  ((works || (s.fabricOf t).collective) && (s.fabricOf t).runs.any fun r => r.tid = t.tid && r.fired != [])

/-- VSAVE (R287). -/
def execVsave (a : XReg) (s : State) : Outcome State Fault Refusal :=
  runAct (do
    notOnCore
    needS
    let base := s.getX a
    needAlign base 4096
    match s.areaFault base .write (areaPages base) with
    | some (c, va, lost) =>
      set (if lost then s.scrubArea base areaSize else s)
      refusedWith c va
    | none => pure ()
    match s.partOwner with
    | none =>
      set ((s.drainOwn.areaFlag s.th.ctx base 1 false).areaFlag s.th.ctx base 2 false)
    | some o =>
      if s.windowBusy o then endWith .wait else pure ()
      set (s.drainOwn.savePart s.th.ctx base o)
    advanceAct) s

/-- v, k and the window as R75 states; the z tiles held likewise. The partition that stood in the space is gone (R286, R288). -/
def State.claimSpace (s : State) : State :=
  match s.th.spaceOf with
  | none => s
  | some v =>
    let s1 := (s.releaseZ v).modThread v fun x => { x with part := none }
    { s1 with th := { s1.th with spaceOf := none } }

/-- The post number that stands for an earlier one after the window has been replaced: of the entry with the same sequence number.
-/
def renumber (old new : List Entry) (post : Nat) : Option Nat :=
  (old.find? fun e => e.post = post).bind fun e => (new.find? fun x => x.seq = e.seq).map (·.post)

/-- The window is replaced: its tile instructions keep their places in the tile's queue if it stood in the partition (`stood`,
R187), those without one go to its end, and serials that await delivery follow their entries; where an entry is gone, nothing is
left to deliver (R309; log entry 73). -/
def State.follow (s : State) (old : List Entry) (stood : Bool) : State :=
  let t := s.th
  let s1 := s.modMyTile fun x =>
    let kept := x.ox.filterMap fun q => if q.tid ≠ t.tid then some q
      else if stood then (renumber old t.window q.post).map fun p => { tid := t.tid, post := p } else none
    let all := t.window.filterMap fun e => if isTileInstr e.instr && !e.complete then some ({ tid := t.tid, post := e.post } : OxItem) else none
    { x with ox := kept ++ all.filter fun q => q ∉ kept }
  let s2 := match t.place with
    | some (h, i) => s1.retag h i
    | none => s1
  let gone := fun (o : OutSerial) => (renumber old t.window o.post).isNone
  let s3 := s2.delivered t gone
  s3.modCtx t.ctx fun c => { c with out := c.out.map fun o =>
    if o.kind = 1 ∧ o.tid = t.tid then { o with post := (renumber old t.window o.post).getD o.post } else o }

def State.freshPart (s : State) : State :=
  let s1 := s.claimSpace
  let s2 := { s1 with th := { s1.th with part := some Part.start, window := [], unchecked := [] } }
  ((s2.dropRuns s2.th.tid).takeZ s2.th fun _ => { ZTile.zero with holder := some s2.th.tid }).follow s.th.window s.th.part.isSome

/-- A run of the fabric notes the bindings of its image (`Entry.use`). -/
def noteRun (f : Fabric) (e : Entry) : Entry := match e.instr with
  | .frun _ _ => { e with acc := runCodes f }
  | _ => e

/-- The reductions of a restored window go on from the elements they have consumed (R139, R282). -/
def Thread.regain (t : Thread) : Thread := { t with window := t.window.map fun e => { e with acc := regained t e } }

/-- The partition of an area under the thread's grant (R288): its entries take the next post numbers, every other one, so that a
version's writer that has left the window finds its place between them (`Notes`). -/
def State.restorePart (s : State) (base : Word) (entries : List Entry) (sameG : Bool) (notes : Option Notes) : State :=
  let c := s.th.ctx
  let es := entries.map (noteRun (s.fabricOf s.th))
  let p := if sameG then readPart s c base s.th.grant s.th.posts es notes else Part.start
  let z := fun (n : Nat) => readZ s c base n s.th.tid
  let s1 := s.claimSpace
  let t := Thread.regain { s1.th with part := some p, window := es, posts := s1.th.posts + 2 * es.length + 1, unchecked := [] }
  (((({ s1 with th := t }).dropRuns t.tid).takeZ t z).rebuildRuns t.tid).follow s.th.window s.th.part.isSome

/-- The tile's w and q pass to the thread's context (R288). -/
def State.passAtVrest (s : State) (area : Option Word) : State :=
  match s.th.place with
  | some (h, i) => s.passTile h i s.th.ctx (area.map fun a => (s.th.ctx, a))
  | none => s

/-- What hardware keeps beside the record at an area, if it is of that area. -/
def State.notesOf (s : State) (base : Word) : Option Notes :=
  s.th.saved.bind fun n => if s.paOf s.th.ctx 1 base .read = some n.area then some n else none

/-- The entries of an area's record; nothing where one is no instruction of the window. -/
def State.readEntries (s : State) (base : Word) (n : Nat) : Option (List Entry) :=
  let notes := s.notesOf base
  let waits := (notes.map (·.held)).getD []
  (List.range n).mapM fun i =>
    entryOf s.th.featen0 (s.areaRead s.th.ctx base (0x1100 + 640 * i) 640) (s.th.posts + 2 * (i + 1)) s.th.seqn
      (notes.any fun x => x.told.contains i) (if n ≤ i + waits.length then waits[i + waits.length - n]? else none)

/-- VREST (R288). It waits until the tile's w and q may pass to the thread's context (R76). -/
def execVrest (a : XReg) (s : State) : Outcome State Fault Refusal :=
  runAct (do
    notOnCore
    needS
    needQuiet true
    let base := s.getX a
    let s ← get
    let free : Bool := match s.th.place with
      | some (h, i) => s.passable h i s.th.ctx
      | none => true
    if free then pure () else endWith .wait
    let fail := fun (c : Byte) (va : Word) => do
      set s.freshPart
      refusedWith c va
    if base = 0 then modify fun s => s.freshPart.passAtVrest none
    else
      match s.areaFault base .read (areaPages base), s.areaBad s.th.ctx base with
      | some (c, va, true), _ => fail c va
      | some (c, va, false), _ => trapWith c va
      | none, some pa => endWith (.abort (some pa))
      | none, none => pure ()
      let c := s.th.ctx
      let f := fun (off n : Nat) => s.areaField c base off n
      if f 4 2 / 2 % 2 = 0 then modify fun s => s.freshPart.passAtVrest (some base)
      else
        if f 8 4 ≠ c.toNat ∨ f 12 4 ≠ s.th.ident.toNat % 2 ^ 32 then fail cPROT base else pure ()
        let n := f 0x11 1
        let same := f 6 2 == s.th.grant
        if !same && n != 0 then fail cILL base else pure ()
        match s.readEntries base (min n 32) with
        | none => fail cILL s.codeVal
        | some l => modify fun s => (s.restorePart base l same (s.notesOf base)).passAtVrest (some base)
    advanceAct) s

/-! ### Tiles and slices -/

/-- ZTILE_DROP (R202): a short-lived tile loses its contents; tile number 16 × hall + tile. -/
def execZtileDrop (tile z : Nat) (s : State) : Outcome State Fault Refusal :=
  let x := s.tile (tile / 16) (tile % 16)
  .next (if (x.zAt z).short then s.setTile (tile / 16) (tile % 16) (x.setZ z { x.zAt z with dropped := true }) else s)

/-- The parts of some ranges that were last held by another context than `c`, or by none; the allocations newest first. -/
def notHeldBy (c : BitVec 32) : List (Nat × Nat × BitVec 32) → List (Nat × Nat) → List (Nat × Nat)
  | [], l => l
  | (b, n, x) :: r, l =>
    let inside := l.filterMap fun (a, m) => if max a b < min (a + m) (b + n) then some (max a b, min (a + m) (b + n) - max a b) else none
    let outside := l.flatMap fun (a, m) =>
      (if a < b then [(a, min m (b - a))] else []) ++ (if b + n < a + m then [(max a (b + n), a + m - max a (b + n))] else [])
    (if x = c then [] else inside) ++ notHeldBy c r outside

/-- GALLERY_ALLOCATION (R76): a range of a slice goes to a context; hardware writes zero to what another context, or none, held
last, before its new context can reach it. -/
def execGalleryAllocation (ctx hall tile off len : Nat) (s : State) : Outcome State Fault Refusal :=
  let c : BitVec 32 := BitVec.ofNat 32 ctx
  let base := sliceBase hall tile + off
  .next (if hall < 32 ∧ tile < 16 ∧ off + len ≤ 2 ^ 20 then
      let s1 := (notHeldBy c s.allocs.reverse [(base, len)]).foldl (fun s (a, n) => s.apply a (List.replicate n 0)) s.drainAll
      { s1 with allocs := s1.allocs ++ [(base, len, c)] }
    else s)

/-- A resident thread is pre-empted for a quiesce, and Benzia OS saves its partition (R344). -/
def State.quiesceThread (s : State) (tid : Nat) : State :=
  let s1 := if (s.thread tid).any fun t => t.run = .running then s.suspend tid false else s
  match s1.thread tid with
  | none => s1
  | some t =>
    if t.gaveAway ∨ t.part.isNone then s1
    else ((s1.savePart t.ctx t.winrec t).releaseZ tid).modThread tid fun x => { x with gaveAway := true, part := none, spaceOf := none }

/-- The trains that some threads have formed go out, and whether all of the threads can then be stopped and saved: no reader of a
weight bank, no exemption, nothing in flight (R259, R287, R310, R338). -/
def State.mayQuiesce (s : State) (l : List Thread) : State × Bool :=
  let s1 := l.foldl (fun s t => if t.run = .running then s.onThread t.tid State.sendAllFormed else s) s
  (s1, l.all fun t => match s1.thread t.tid with
    | none => true
    | some u => !(s1.windowBusy u) && !(u.run == .running && (u.readsBank || s1.exempt u)))

/-- Events counted for the structures of a tile. -/
def State.tileEvents (s : State) (h i : Nat) : Nat :=
  (s.ras.counts.map fun (k, n) => match k with
    | .laneSlice a b _ => if a = h ∧ b = i then n else 0
    | .ox a b => if a = h ∧ b = i then n else 0
    | .lane a b _ => if a = h ∧ b = i then n else 0
    | _ => 0).foldl max 0

/-- The lines of a hall's slices that have reached their threshold and are not remapped (R343). -/
def State.badLines (s : State) (hall : Nat) : List Nat := s.ras.lasting.filter fun a => (slicePlace a).1 = hall

/-- A line is remapped to one of its slice's 32 spare lines, while there is one (R343): the spare starts with no event, and may be
remapped in its turn. -/
def State.remapLine (s : State) (a : Nat) : State :=
  let p := slicePlace a
  if 32 ≤ (s.ras.spared.filter fun b => slicePlace b == p).length then s
  else State.rasRecord { s with ras := { s.ras with spared := s.ras.spared ++ [a], lasting := s.ras.lasting.filter fun b => b ≠ a,
                                                    counts := s.ras.counts.filter fun x => x.1 ≠ .galleryLine a } }
    { cls := 9, action := 3, count := s.rasCount (.galleryLine a), hall := p.1, tile := p.2, pa := a }

/-- A marked tile at a quiesce (R344): the spare takes its number and what it holds, or it stays retired where the spare is in
use. -/
def State.spareTile (s : State) (hall i : Nat) : State :=
  let x := s.tile hall i
  let n := s.tileEvents hall i
  if (s.hall hall).spare.isSome then
    (s.setTile hall i { x with retired := true, marked := false }).rasRecord { cls := 10, action := 6, count := n, hall := hall, tile := i }
  else
    let s2 := s.setTile hall i { x with marked := false }
    let mine := fun (k : RasKey) => match k with
      | .laneSlice a b _ => a == hall && b == i
      | .ox a b => a == hall && b == i
      | .lane a b _ => a == hall && b == i
      | _ => false
    let s3 := s2.setHall hall { s2.hall hall with spare := some i }
    let s4 := s3.rasRecord { cls := 11, action := 5, count := n, hall := hall, tile := i }
    { s4 with ras := { s4.ras with counts := s4.ras.counts.filter fun x => !mine x.1 } }

/-- HALL_QUIESCE (R343, R344): once no exempted instruction is under way and nothing of a window is in flight, the resident
threads are pre-empted and saved, lines that have reached their threshold are remapped, and the spare takes the number of a marked
tile. -/
def execHallQuiesce (hall : Nat) (s : State) : Outcome State Fault Refusal :=
  let mine := s.threads.filter fun t => !t.isCore && (t.place.map (·.1)) == some hall && (t.run == .running || t.suspended)
  let marked := (List.range 16).filter fun i => (s.tile hall i).marked
  let lines := s.badLines hall
  .next (if marked = [] ∧ lines = [] then s
    else
      let (s0, ready) := s.mayQuiesce mine
      if !ready then s0
      else
        let s1 := mine.foldl (fun s t => s.quiesceThread t.tid) s0.drainAll
        marked.foldl (fun s i => s.spareTile hall i) (lines.foldl State.remapLine s1))

end Sys2Proof.Machine
end

