-- ==== Sys2Proof/Machine/Check.lean ====
section
/-! DEFINITION. The steps of the window and the fabric as events: an element, step, row or node that fires (spec/01 R16, spec/10 R188,
spec/13 R233), the Gander check and parity with the squash they lead to (spec/22 R336–R343), the collective unit (spec/13 R244), and
a write that reaches its home (spec/12 R208). -/

namespace Sys2Proof.Machine

open Host (Outcome)

/-! ### Acting for a thread -/

/-- Run an action as if thread `tid` had the turn; the thread whose turn it is stays so. -/
def actOn (tid : Nat) (a : Act Unit) (s : State) : Outcome State Fault Refusal :=
  if s.th.tid = tid then runAct a s
  else if (s.others.find? fun t => t.tid = tid).isNone then .next s
  else match runAct a (s.turnTo tid) with
    | .next s' => .next { s'.turnTo s.th.tid with stalled := s.stalled }
    | o => o

/-- The entry that a sequence number names (R336): its post number. -/
def Thread.seqPost (t : Thread) (seq : Nat) : Option Nat := (t.window.find? fun e => e.seq.toNat = seq).map (·.post)

/-- The window of the thread works: the thread runs on its own partition and is not frozen (R72, R140). -/
def Thread.works (t : Thread) : Bool := t.run == .running && t.part.isSome && !t.frozen

/-! ### The squash (R338) -/

/-- Elements of the newest version, if `post` opened it, that have to wait for the older one again: those that keep its values or
may do so, and are absent from it. `own` are the elements that the newest version has of its own. -/
def VSt.waitsUnder (r : VSt) (post : Nat) (own : Nat → Bool) : List Nat :=
  if r.new.writer ≠ post then []
  else match r.old with
    | some o => ((o.absent ++ o.inherit).filter fun e => !own e && (assocGet r.new.base e).isNone).foldl insertIdx []
    | none => []

def KSt.waitsUnder (r : KSt) (post : Nat) (own : Nat → Bool) : List Nat :=
  if r.new.writer ≠ post then []
  else match r.old with
    | some o => ((o.absent ++ o.inherit).filter fun e => !own e && (assocGet r.new.base e).isNone).foldl insertIdx []
    | none => []

/-- Reopen the version that `post` opened as its post alone leaves it: `absent` are to come, `zeroed` are 0, `gone` have escaped
and stay, the others keep what the version before holds. -/
def VSt.reopen (r : VSt) (post : Nat) (absent zeroed gone : List Nat) : VSt :=
  let wait := r.waitsUnder post fun e => e ∈ zeroed || e ∈ gone
  let before := absent.filterMap fun e => if r.new.writer = post then (r.under e).map fun x => (e, x) else none
  r.modBy post fun v => { v with
    data := before.foldl (fun d x => sset 0 d x.1 x.2) (zeroed.foldl (fun d e => sset 0 d e 0) v.data), absent := absent, inherit := wait }

def KSt.reopen (r : KSt) (post : Nat) (absent zeroed gone : List Nat) : KSt :=
  let wait := r.waitsUnder post fun e => e ∈ zeroed || e ∈ gone
  let before := absent.filterMap fun e => if r.new.writer = post then (r.under e).map fun x => (e, x) else none
  r.modBy post fun v => { v with
    bits := before.foldl (fun d x => sset false d x.1 x.2) (zeroed.foldl (fun d e => sset false d e false) v.bits), absent := absent,
    inherit := wait }

/-- A version that stays as it stands, but for what it keeps of an older one whose elements are absent again; `wrote` are the
elements written to it. -/
def VSt.rewait (r : VSt) (post : Nat) (wrote : Nat → Bool) : VSt :=
  r.modBy post fun v => { v with inherit := r.waitsUnder post fun e => wrote e && !(e ∈ v.absent) }

/-- Elements of a store or `vamo` that have escaped: those done under a true mask bit (R337). `was` is the thread before the
squash. -/
def escapedOf (was : Thread) (e : Entry) : List Nat :=
  let under := fun (k : KReg) => e.done.filter fun u => was.kElem e.post k u = some true
  match storeKey e.instr with
  | some (_, o) => under o.k
  | none => match vamoKey e.instr with
    | some (_, _, o) => under o.k
    | none => []

/-- A squash leaves the entry as it stands: one that has not opened its versions, a tile instruction, a result written to an x
register, the fabric's work, and a merge, which depends on no checked element and whose cursors have read their keys (R246, R337;
log entry 44). -/
def Entry.standsFast (e : Entry) : Bool := e.held.isSome || isTileInstr e.instr || (match vkey e.instr with
  | some (ma, mi, o) => toX ma mi o && e.complete
  | none => match e.instr with
    | .frun _ _ => true
    | .smatch _ _ _ _ _ => true
    | _ => false)

/-- Elements of its destinations that an entry which stands fast has written. -/
def Entry.wroteFast (e : Entry) (i : Nat) : Bool := match e.instr with
  | .frun _ _ => decide (i < e.prog)
  | .smatch _ _ _ _ _ => decide (i < e.prog)
  | _ => decide (i < e.span)

/-- One entry goes back to what its post alone gives (R338), or stands fast. Escaped stores and atomics stay done (R337). A
first-fault load keeps its trim, and a store the progress that its word shows (R155). -/
def resetEntry (was : Thread) (t : Thread) (e : Entry) : Thread :=
  if e.held.isSome then t
  else if e.standsFast then e.use.vw.foldl (fun t r => t.modV r fun s => s.rewait e.post e.wroteFast) t
  else
    let p := t.postShape e
    let gone := escapedOf was e
    let absent := p.absent.filter (· ∉ gone)
    let t1 := e.use.vw.foldl (fun t r => t.modV r fun s => s.reopen e.post absent p.zeroed gone) t
    let t2 := e.use.kw.foldl (fun t k => t.modK k fun s => s.reopen e.post absent p.zeroed gone) t1
    let keeps := (loadKey e.instr).isSome || (storeKey e.instr).isSome
    let done := gone.foldl insertIdx p.done
    t2.modEntry e.post fun x =>
        { x with done := done, prog := if keeps then x.prog else 0, acc := [], got := [], back := [],
                 sent := if (vamoKey e.instr).isSome then x.sent else [],
                 formed := x.formed.filter fun f => x.sent.contains f.e }

/-- The window is squashed from an entry on (R338): its entries are reset in order and no check of theirs is under way. -/
def Thread.squash (t : Thread) (post : Nat) : Thread :=
  let t0 := t.retire
  let t1 := (t0.window.filter fun e => post ≤ e.post).foldl (resetEntry t0) t0
  { t1 with unchecked := t1.unchecked.filter fun u => u.1 < post }

/-! ### Checks (R336–R338) -/

/-- Failed fires of an element in a row. -/
def Entry.softCount (e : Entry) (u : Nat) : Nat := (assocGet e.soft u).getD 0

/-- A record about an element of a thread (R345). -/
def Thread.rasOf (t : Thread) (cls action count lane : Nat) (pc : Word) (elem : Nat) : RasRec :=
  let p := t.place.getD (0xFF, 0xFF)
  { cls := cls, action := action, count := count, hall := p.1, tile := p.2, lane := lane, ctx := t.ctx, head := pc, elem := elem }

/-- The check of an element passes: it may escape, and its earlier failures are no longer in a row. -/
def Thread.passCheck (t : Thread) (post u : Nat) : Thread :=
  { (t.modEntry post fun e => { e with soft := e.soft.filter fun x => x.1 ≠ u }) with
    unchecked := t.unchecked.filter (· ≠ (post, u)) }

/-- The check of an element fails (R338, R343): squash, or after three in a row the context is aborted. -/
def State.failCheck (s : State) (e : Entry) (u : Nat) : State :=
  let t := s.th
  let (h, i) := t.place.getD (0, 0)
  let key := RasKey.lane h i (u % 16)
  let s1 := s.rasTileEvent key 4 h i
  let n := e.softCount u + 1
  if n ≥ 3 then (s1.rasRecord (t.rasOf 7 2 (s1.rasCount key) (u % 16) e.pc u)).abortCtx t.ctx
  else
    let t1 := s1.th.squash e.post
    let t2 := t1.modEntry e.post fun x => { x with soft := assocSet x.soft u n }
    { s1 with th := t2 }.rasRecord (t.rasOf 1 1 (s1.rasCount key) (u % 16) e.pc u)

/-- An action of a check: what it leaves, or the state it started from where it faults or waits. -/
def State.afterFire (s : State) (a : Act Bool) : State := match a s with
  | .ok (_, s1) => s1
  | .error (_, _) => s

/-- GANDER_CHECK (R338): the recomputation of a checked element completes. The element of a store, which would escape as it fires,
has waited for it (R337). -/
def execGanderCheck (tid seq elem : Nat) (mismatch : Bool) (s : State) : Outcome State Fault Refusal :=
  .next (s.onThread tid fun s =>
    match s.th.seqPost seq with
    | none => s
    | some post =>
      match s.th.entry post with
      | none => s
      | some e =>
        if !s.th.unchecked.contains (post, elem) then s
        else if mismatch then s.failCheck e elem
        else
          let s1 := { s with th := (s.th.passCheck post elem).retire }
          if (storeKey e.instr).isSome then s1.afterFire (fireUnit post elem) else s1)

/-! ### Parity (R339, R340) -/

/-- Element `x` of an entry's result can be formed again by a squash: what stands fast, or has escaped, cannot (R338; log entry
44). -/
def Entry.refires (e : Entry) (x : Nat) : Bool := !e.standsFast && !((vamoKey e.instr).isSome && e.isDone x)

/-- A parity event on element `x` of a register: squash from its producer where that stands in the window, fired the element since
any `vrest` and can fire it again, else abort (R340, R343). `pc` is the reader's. -/
def State.parityAt (s : State) (pc : Word) (x : Nat) (producer : Option Nat) : State :=
  let t := s.th
  let (h, i) := t.place.getD (0, 0)
  let key := RasKey.laneSlice h i (x % 16)
  let s1 := s.rasTileEvent key 3 h i
  let own := producer.filter fun p => (t.entry p).any fun f => f.refires x && !f.back.contains x
  match own with
  | some p => { s1 with th := s1.th.squash p }.rasRecord (t.rasOf 3 1 (s1.rasCount key) (x % 16) pc x)
  | none => (s1.rasRecord (t.rasOf 4 2 (s1.rasCount key) (x % 16) pc x)).abortCtx t.ctx

/-- The entry posted as `w` produces element `x` of its results. -/
def Thread.produces (t : Thread) (w x : Nat) : Bool := (t.entry w).any fun f =>
  let under := fun (k : KReg) => t.kElem w k x != some false
  decide (x < f.span) && (match vkey f.instr with
    | some (0x35, 5, _) => decide (x < f.prog)
    | some (ma, mi, o) => !masksElements ma mi || under o.k
    | none => match loadKey f.instr with
      | some (_, o) => under o.k
      | none => match vamoKey f.instr with
        | some (_, _, o) => under o.k
        | none => true)

/-- The post number of the entry of the window that produced element `x` of a register, as an entry posted as `post` reads it. -/
def Thread.producerV (t : Thread) (post : Nat) (r : VReg) (x : Nat) : Option Nat :=
  ((t.partOr.vreg r).writersBy post).find? fun w => t.produces w x

def Thread.producerK (t : Thread) (post : Nat) (k : KReg) (x : Nat) : Option Nat :=
  ((t.partOr.kreg k).writersBy post).find? fun w => t.produces w x

/-- The product of the window that has last written a z tile, as an entry posted as `post` finds it, holds its shadow (R204,
R340): the newest writer that has performed something is a `tmma` or `tmms` with a step since any `vrest`. -/
def Thread.shadowed (t : Thread) (post z : Nat) : Bool :=
  let wrote := t.window.filter fun w => decide (w.post ≤ post) && (tileUse w.instr).2.contains (.z z) && (w.prog != 0 || w.complete)
  match wrote.getLast? with
  | none => false
  | some w => (match w.instr with
    | .tmma _ | .tmms _ => w.acc != [BitVec.ofNat 64 w.prog]
    | _ => false)

/-- A parity error of a tile register met by a read at `pc`, for an entry posted as `post`: a z tile is restored from a product's
shadow and the product performed again, anything else aborts the context (R204, R340). `at_` is the step or row, for the record.
-/
def State.parityTileIn (s : State) (pc : Word) (post reg x at_ : Nat) : State :=
  if 14 ≤ reg then s
  else if reg < 8 ∧ s.th.shadowed post reg then
    let (h, i) := s.th.place.getD (0, 0)
    let key := RasKey.laneSlice h i (x % 16)
    let s1 := s.rasTileEvent key 3 h i
    s1.rasRecord (s.th.rasOf 3 1 (s1.rasCount key) (x % 16) pc at_)
  else s.parityAt pc x none

/-- A parity error of a vector, mask or tile register met by a read at `pc`, for an entry posted as `post`. -/
def State.parityIn (s : State) (pc : Word) (post : Nat) (u : Upset) : State :=
  match u with
  | .parityV r x => s.parityAt pc x (s.th.producerV post (BitVec.ofNat 5 r) x)
  | .parityK m x => if m = 0 then s else s.parityAt pc x (s.th.producerK post (BitVec.ofNat 3 m) x)
  | .parityTile reg x => s.parityTileIn pc post reg x x
  | _ => s

/-- A parity error of a register met by an entry that reads it. -/
def State.parityReg (s : State) (e : Entry) (u : Upset) : State :=
  let reads : Bool := match u with
    | .parityV r _ => (s.th.readsOf e).any fun v => v.toNat = r
    | .parityK m _ => e.use.kr.any fun k => k.toNat = m
    | _ => false
  if reads then s.parityIn e.pc e.post u else s

/-- A parity error in a register that the fabric or `vsave` reads for a thread, or in a tile register that `vsave` reads (R340). -/
def State.parityRead (s : State) (tid : Nat) (u : Upset) : State :=
  s.onThread tid fun s => if s.th.part.isSome then s.parityIn s.th.pc (s.th.posts + 1) u else s

/-- An error in a scalar register file, an instruction cache or a loop buffer that a thread uses (R339): of one bit, it is
corrected and recorded; of two, it ends the context as R340 does. -/
def State.coreError (s : State) (tid : Nat) (twice : Bool) : State :=
  s.onThread tid fun s =>
    let t := s.th
    if twice then (s.rasRecord (t.rasOf 4 2 1 0xFF t.pc 0xFFFFFFFF)).abortCtx t.ctx
    else s.rasRecord (t.rasOf 3 0 1 0xFF t.pc 0xFFFFFFFF)

/-- The checked element that is recomputed as unit `u` of an entry fires: the unit, for a block its element in the checked lane,
for `vmvxs` and `vextract` the element they read (R336). -/
def Thread.checkedUnit (t : Thread) (e : Entry) (u : Nat) : Option Nat :=
  let block : Bool := match vkey e.instr with
    | some (ma, mi, _) => ma == 0x33 && mi == 3
    | none => (storeKey e.instr).isSome
  let x := if block then u / 16 * 16 + e.seq.toNat % 16 else match vkey e.instr with
    | some (0x37, mi, o) => if (mi = 3 ∨ mi = 6) ∧ u = 0 then moveIndex e mi o else u
    | _ => u
  let active : Bool := match vkey e.instr with
    | some (ma, mi, o) => (ma == 0x37 && mi == 5) || t.kElem e.post o.k x == some true
    | none => match storeKey e.instr with
      | some (_, o) => t.kElem e.post o.k x == some true
      | none => false
  if t.checks e x && active then some x else none

/-- An element fires; a checked one is under check until its recomputation completes (R336). One that would escape as it fires
waits for the check first (R337). -/
def fireChecked (post u : Nat) : Act Unit := do
  let s ← get
  match s.th.entry post with
  | none => pure ()
  | some e =>
    let check := fun (s : State) (x : Nat) => { s with th := { s.th with unchecked := s.th.unchecked ++ [(post, x)] } }
    if ← fireUnit post u then
      match s.th.checkedUnit e u with
      | some x =>
        if (storeKey e.instr).isSome then
          set (if s.th.unchecked.contains (post, x) then s else check s x)
        else modify fun s => if s.th.frozen ∨ (s.th.entry post).isNone then s else check s x
      | none => pure ()
      modify fun s => { s with th := s.th.retire }
    else pure ()

/-- ELEMENT_FIRE (R16): the element of the named entry fires if it is ready, or its read meets a parity error. -/
def execElementFire (tid seq elem : Nat) (u : Upset) (s : State) : Outcome State Fault Refusal :=
  actOn tid (do
    let s ← get
    match (s.th.seqPost seq).bind s.th.entry with
    | none => pure ()
    | some e =>
      let run : Bool := match e.instr with
        | .frun _ _ => true
        | _ => false
      if !(s.th.works || (s.th.part.isSome && e.sent.contains elem)) || e.complete || isTileInstr e.instr then pure ()
      else match u with
        | .clean => if run then pure () else fireChecked e.post elem
        | u => set (s.parityReg e u)) s

/-- The Ox unit meets an upset in a step or row (R204, R340): a mismatch of the check row changes nothing but the record, since the
instruction is performed again from its shadow. -/
def State.tileUpset (s : State) (e : Entry) (u : Upset) : State :=
  let t := s.th
  let (h, i) := t.place.getD (0, 0)
  match u with
  | .checkRow =>
    match e.instr with
    | .tmma _ | .tmms _ =>
      let s1 := s.rasTileEvent (.ox h i) 3 h i
      s1.rasRecord (t.rasOf 2 1 (s1.rasCount (.ox h i)) 0xFF e.pc e.prog)
    | _ => s
  | .parityTile reg x =>
    if (tileUse e.instr).1.contains (tileReg (BitVec.ofNat 4 reg)) then s.parityTileIn e.pc e.post reg x e.prog else s
  | u => s.parityReg e u

/-- TILE_STEP (R188): the next step or row of the named tile instruction. -/
def execTileStep (tid seq : Nat) (u : Upset) (s : State) : Outcome State Fault Refusal :=
  actOn tid (do
    let s ← get
    match (s.th.seqPost seq).bind s.th.entry with
    | none => pure ()
    | some e =>
      if !s.th.works || e.complete || !isTileInstr e.instr then pure ()
      else match u with
        | .clean =>
          let _ ← fireTile e.post
          modify fun s => { s with th := s.th.retire }
        | u => set (s.tileUpset e u)) s

/-! ### Queued writes (R208, R211) -/

/-- A queued write waits for the earlier ones of its way that go before it (R92, R155, R212). -/
def Write.waitsFor (w : Write) (q : List Write) : Bool := q.any fun x => x.before w

/-- WRITE_APPLIED_AT_HOME (R208): write `k` of a queue reaches its home, unless an earlier write of the way there is to one of its
bytes (R92, R155, R212). Tile number 16 × hall + tile. -/
def execWriteAppliedAtHome (src : QueueName) (k : Nat) (s : State) : Outcome State Fault Refusal :=
  .next (match src with
    | .hall h =>
      let q := (s.hall h).buffer
      match q[k]? with
      | none => s
      | some w =>
        if w.waitsFor (q.take k) then s
        else
          (s.setHall h { s.hall h with buffer := q.eraseIdx k }).applyQueued w
    | .tile n =>
      let h := n / 16
      let i := n % 16
      let q := (s.tile h i).stores
      match q[k]? with
      | none => s
      | some w =>
        if w.waitsFor (q.take k) || w.waitsFor (s.hall h).buffer then s
        else
          (s.setTile h i { s.tile h i with stores := q.eraseIdx k }).applyQueued w)

/-! ### The fabric and the collective unit (R233, R244) -/

/-- The thread whose run the fabric of a hall goes on with. -/
def State.fabricThread (s : State) (hall : Nat) : Option Thread := ((s.hall hall).fabric.owner).bind s.thread

/-- An action of the owner of a hall's fabric. -/
def onFabric (hall : Nat) (a : Act Unit) (s : State) : Outcome State Fault Refusal :=
  match s.fabricThread hall with
  | none => .next s
  | some t => if t.run = .running ∧ t.part.isSome then actOn t.tid a s else .next s

/-- FABRIC_NODE_FIRE (R233): a node fires once each of its inputs holds a token; an iteration whose nodes have all fired ends. -/
def execFabricNodeFire (hall node : Nat) (s : State) : Outcome State Fault Refusal :=
  onFabric hall (do
    let _ ← fireNode true node
    let _ ← closeRun
    modify fun s => { s with th := s.th.retire }) s

/-- The group of a binding (R244). -/
def State.groupOf (s : State) (b : BitVec 64) : Option CollGroup :=
  s.hiend.groups.find? fun g => g.grp = bindGrp b && g.port = bindPort b && g.ctxs.contains s.th.ctx

/-- COLLECTIVE_COMBINE (R244): the other members' elements, in ascending rank, are combined with this device's own. -/
def execCollectiveCombine (hall bnd : Nat) (vals : List (BitVec 32)) (s : State) : Outcome State Fault Refusal :=
  onFabric hall (do
    let s ← get
    match s.collWaiting bnd with
    | none => pure ()
    | some (r, b, v) =>
      match s.groupOf b with
      | none => pure ()
      | some g =>
        if vals.length + 1 ≠ g.members ∨ (s.th.entry r.post).any fun e => s.th.awaitsCheck 64 e none then pure ()
        else
          let et := producerType s.th s.fabric 18 (48 + bnd)
          set (s.collReturn r bnd (combineAll et (bindCop b) (vals.take g.rank ++ [v] ++ vals.drop g.rank)))
          let _ ← closeRun
          modify fun s => { s with th := s.th.retire }) s

/-- COLLECTIVE_TIMEOUT (R244): an element that was not combined returns as the canonical NaN or all ones. -/
def execCollectiveTimeout (hall bnd : Nat) (s : State) : Outcome State Fault Refusal :=
  onFabric hall (do
    let s ← get
    match s.collWaiting bnd with
    | none => pure ()
    | some (r, _, _) =>
      let s1 := s.collReturn r bnd (noValue (producerType s.th s.fabric 18 (48 + bnd)))
      set { s1 with th := { s1.th with remind := true } }
      let _ ← closeRun
      modify fun s => { s with th := s.th.retire }) s

end Sys2Proof.Machine
end

