-- ==== Sys2Proof/Machine/Fetch.lean ====
section
/-! DEFINITION. Entering a line (spec/03 R46–R50), reading its bytes, and placing an instruction where the next step fetches
it. -/

namespace Sys2Proof.Machine

open Host (Outcome)

/-- The checks of an entered line (R46, R49): LINE, then TARGET. -/
def checkEntry (l : Line) (pc cameFrom : Word) : Option (Byte × Word × Word) :=
  if l.malformed then some (cLINE, pc, lineOf pc)
  else if pc.getLsbD 0 ∨ slotOf pc = 0 ∨ slotOf pc > l.heads then some (cTARGET, pc, cameFrom)
  else none

/-- A line's bytes as one snapshot (R50). -/
def lineOfBytes (a : Word) (bs : List Byte) : Line := { addr := a, bytes := BitVec.ofNat 512 (leNat bs) }

/-- The line is in use or prefetched, so that the entry reads nothing (R50, R91). -/
def Thread.held (t : Thread) : Option Line :=
  let a := lineOf t.pc
  match t.line with
  | some l => if l.addr = a then some l else t.prefetched.find? fun p => p.addr = a
  | none => t.prefetched.find? fun p => p.addr = a

/-- Read a located piece of a line. A line at another device comes from its memory, checked by its owner (R299, R313), or is waited
for. -/
def fetchBytes (l : Loc) (n : Nat) : Act (List Byte) := do
  match l with
  | .here pa => loadHere pa n
  | .away dev pa =>
    let s ← get
    match s.remoteRead dev pa n with
    | .silent => awaitAccess
    | .fault c => refusedWith c s.th.pc
    | .bytes bs =>
      gotAccess
      pure bs

/-- Read the next naturally aligned 8-byte unit of a line, lowest address first (DESIGN CHOICE, log entry 4: R50 leaves their order
open); the line with its last unit. -/
def fetchUnit (a : Word) (r : LineRead) : Act (Option Line) := do
  let pa := r.pa + r.bytes.length
  let bs ← fetchBytes (match r.dev with
    | none => .here pa
    | some d => .away d pa) 8
  let all := r.bytes ++ bs
  if all.length < 64 then
    modify fun s => { s with th := { s.th with lineIn := some { r with bytes := all } } }
    pure none
  else
    modify fun s => { s with th := { s.th with lineIn := none } }
    pure (some (lineOfBytes a all))

/-- Read the line at the pc for fetch, by one translation of it (R42, R50, R275, R299): at once, or unit after unit, between which
another agent may write; nothing while units are to come. R50 leaves any mix of the units possible: they are read lowest address
first, one a step (DESIGN CHOICE, log entry 4). -/
def fetchLine : Act (Option Line) := do
  let s ← get
  let a := lineOf s.th.pc
  match s.th.lineIn with
  | some r => fetchUnit a r
  | none =>
    match s.locate a .fetch with
    | .error c => refusedWith c s.th.pc
    | .ok (l, e) =>
      set (s.cacheTlb s.th.hall? e)
      if s.policy.whole then
        let bs ← fetchBytes l 64
        pure (some (lineOfBytes a bs))
      else fetchUnit a (match l with
        | .here pa => { dev := none, pa := pa, bytes := [] }
        | .away dev pa => { dev := some dev, pa := pa, bytes := [] })

/-- A fault of an entry is taken with `trappc` = the entry address (R46, R49, R275). -/
def State.entryTrap (s : State) (cause : Byte) (val : Word) : State := s.trapOrWait cause val

/-- The checks on a line, and the snapshot that later heads of the line use. -/
def State.useLine (s : State) (l : Line) : State :=
  match checkEntry l s.th.pc s.th.cameFrom with
  | some (c, _, v) => s.entryTrap c v
  | none => { s with th := { s.th with line := some l, entering := false } }

/-- Perform the entry that is pending (R46–R50). -/
def enterLine (s : State) : Outcome State Fault Refusal :=
  match s.th.held with
  | some l => .next (s.useLine l)
  | none =>
    match fetchLine s with
    | .ok (some l, s') => .next (s'.useLine l)
    | .ok (none, s') => .next s'
    | .error (.trap c _, s') => .next (s'.entryTrap c s'.th.pc)
    | .error (.wait, s') => .next { s' with stalled := true }
    | .error (.abort pa, s') => .next (s'.dabort pa)

/-- The bytes of a line with one head whose instruction is `bytes` (head first, then the tail). -/
def oneHeadLine (bytes : List Byte) : List Byte :=
  let tail := bytes.drop 2
  [1, 0] ++ bytesAt bytes 0 2 ++ List.replicate (60 - tail.length) 0 ++ tail

/-- A tile thread at its start (R75) on tile (0, 0) with grant 64, holding its own partition. -/
def Thread.placed (tid : Nat) : Thread :=
  { Thread.powerOn 0 with
    tid := tid, who := .tile 0 0 0, pl := 0, grant := 64, part := some Part.start, x := (Vector.replicate 64 (0 : Word)) }

/-- The thread that the placed instruction runs on: the present one if it is a tile thread, else one at its start (R75). -/
def Thread.forPlacing (t : Thread) : Thread := if t.isCore then { Thread.placed t.tid with vowner := (Thread.placed t.tid).selfOwner } else t

/-- The tile of a thread is its context's, and the thread holds its z tiles (R76, R186). -/
def State.settleTile (s : State) (t : Thread) : State :=
  match t.who with
  | .core _ => s
  | .tile h i k =>
    let x := s.tile h i
    s.setTile h i { x with
      owner := some t.ctx,
      z := Vector.ofFn fun (n : Fin 8) => if n.val % max t.tcount 1 = k then { x.z[n.val] with holder := some t.tid } else x.z[n.val] }

/-- The thread stands in front of a line it has just entered that holds one head (log entry 5). -/
def State.placeInstr (s : State) (bytes : List Byte) : State :=
  let t := s.th.forPlacing
  let a := lineOf t.pc
  let t1 := { t with run := .running, pc := a + 2, entering := false, lineIn := none, irq := [], await := none, pendPre := none, fabPend := none,
                     stripC := none,
                     window := (t.window.filter fun e => !e.holdsFront).map fun e => { e with told := true },
                     line := some (lineOfBytes a (oneHeadLine bytes)) }
  let s1 := if s.th.isCore then s.settleTile t1 else s
  { s1 with agenda := [], stalled := false, power := .on, th := t1 }

/-- The instruction bytes of a numbered word (the first word at bit 0): the head, then as many tail bytes as its `tl` says,
bits above `nbits` zero. -/
def wordBytes (nbits w : Nat) : List Byte :=
  let v := w % 2 ^ nbits
  leBytes (2 + tailBytes (v / 2 ^ 6 % 8)) v

end Sys2Proof.Machine
end

