-- ==== Sys2Proof/Machine/Link.lean ====
section
/-! DEFINITION. What comes over the links: element trains and idempotent accesses of other devices (spec/12 R221, spec/18 R299–R301,
R313), the requests, replies and timers of exactly-once operations (R302–R309), restarts of an owner (R308, R309), network messages
(spec/09 R182–R184, spec/16 R290), and link errors (spec/22 R341, R343). -/

namespace Sys2Proof.Machine

open Host (Outcome)

/-! ### Redirection into the bounce ring (R290) -/

/-- The context whose allocated gallery bytes an address lies in, where no thread of it is resident on that tile. -/
def State.absentOwner (s : State) (pa : Nat) : Option (BitVec 32) :=
  if paKind pa ≠ .gallery then none
  else
    let p := slicePlace pa
    match s.allocs.reverse.find? fun (b, n, _) => b ≤ pa ∧ pa < b + n with
    | none => none
    | some (_, _, c) => if s.threads.any fun u => u.ctx = c && u.runsOn p.1 p.2 then none else some c

/-- A receive is redirected: its payload goes to the ring's payload area and an entry says where it belongs (R290). The
destination and landing word of a receive over Hiend are the physical addresses it came with, and those of a network receive
virtual ones (DESIGN CHOICE, log entry 47). -/
def State.redirect (s : State) (b : Bounce) (dst : Nat) (c : BitVec 32) (lword : Nat) (bs : List Byte) : State :=
  let s1 := s.apply b.payload bs
  let s2 := s1.apply (b.base + 32 * b.used) (leBytes 8 dst ++ leBytes 4 bs.length ++ leBytes 4 c.toNat ++ leBytes 8 lword ++ leBytes 8 b.payload)
  { s2 with bounce := some { b with used := b.used + 1, payload := b.payload + bs.length } }

/-- The ring has room for `n` entries. -/
def State.bounceRoom (s : State) (n : Nat) : Bool := match s.bounce with
  | none => true
  | some b => decide (b.used + n ≤ b.size)

/-- One piece of a receive reaches memory, or the ring where its slice's context is absent and a ring is provided (R290). -/
def State.receive (s : State) (pa dst lword : Nat) (bs : List Byte) : State :=
  match s.absentOwner pa, s.bounce with
  | some c, some b => s.redirect b dst c lword bs
  | _, _ => s.applyPlain pa bs

/-- The receive goes to the ring. -/
def State.goesToRing (s : State) (pa : Nat) : Bool := s.bounce.isSome && (s.absentOwner pa).isSome

/-! ### Element trains (R221) -/

/-- An element that this device must refuse: outside the ranges granted to the RVID (R313), a device register or a hole of the map
(R5), or part of an uncorrectable unit (R341). -/
def State.refuseIn (s : State) (rvid : BitVec 24) (pa n : Nat) (rd wr : Bool) : Option Byte :=
  match s.hiend.owner.refuses rvid pa n rd wr with
  | some c => some c
  | none =>
    if paKind pa = .reserved ∨ paKind pa = .reg ∨ s.sliceRetired pa then some cPROT
    else if (rd && s.touchesBad pa n) || (wr && s.partlyBad pa n) then some cDABORT
    else none

/-- The lowest refused element of a train. -/
def State.refusedElem (s : State) (rvid : BitVec 24) : List (Nat × List Byte) → Nat → Option (Byte × Nat)
  | [], _ => none
  | (pa, bs) :: r, i =>
    match s.refuseIn rvid pa bs.length false true with
    | some c => some (c, i)
    | none => s.refusedElem rvid r (i + 1)

/-- The landing word that a train's units go to stands in an uncorrectable unit: the train is refused whole (R341; log entry 47). -/
def State.wordRefused (s : State) (t : Train) : Option (Byte × Nat) := match t.units with
  | some (pa, _) => if s.touchesBad pa 16 then some (cDABORT, 0) else none
  | none => none

/-- A port answers (R221, R305). -/
def State.answer (s : State) (rvid : BitVec 24) (serial : BitVec 32) (a : Reply) : State :=
  { s with hiend := { s.hiend with replies := s.hiend.replies ++ [(rvid, serial, a)] } }

/-- TRAIN_RECEIVE (R221, R173): a train is held until its tail arrives with a matching count, applied whole, then the units it
carries arrive, and then it is acknowledged; a duplicate is discarded. -/
def execTrainReceive (t : Train) (s : State) : Outcome State Fault Refusal :=
  let others := s.hiend.partials.filter fun p => !(p.src = t.src && p.tag = t.tag)
  .next (if s.hiend.tags.contains (t.src, t.tag) then s
    else if t.elems.length ≠ t.count then { s with hiend := { s.hiend with partials := others ++ [t] } }
    else
      let s1 := { s with hiend := { s.hiend with partials := others } }
      match (s1.refusedElem t.rvid t.elems 0).orElse fun _ => s1.wordRefused t with
      | some (c, i) => s1.answer t.rvid (BitVec.ofNat 32 t.tag) (.nackFault c i)
      | none =>
        let away := t.elems.filter fun x => s1.goesToRing x.1
        if !s1.bounceRoom away.length then s1
        else
          let lword := (t.units.map (·.1)).getD 0
          let s2 := t.elems.foldl (fun s (pa, bs) => s.receive pa pa lword bs) s1
          let s3 := match t.units with
            | some (pa, n) =>
              let k := n - (away.map fun (x : Nat × List Byte) => x.2.length).sum
              if away ≠ [] ∧ k = 0 then s2 else s2.arrive pa k
            | none => s2
          { s3 with hiend := { s3.hiend with tags := s3.hiend.tags ++ [(t.src, t.tag)] } }.answer t.rvid (BitVec.ofNat 32 t.tag) .ack)

/-- ACK_TAG_EXPIRY (R221): the port forgets an acknowledged tag. -/
def execAckTagExpiry (src : BitVec 14) (tag : Nat) (s : State) : Outcome State Fault Refusal :=
  .next { s with hiend := { s.hiend with tags := s.hiend.tags.filter (· ≠ (src, tag)) } }

/-- REMOTE_ACCESS_IN (R299, R313): an idempotent access of another device is checked and served at the home; a store into the
slice of an absent context goes to the bounce ring, and gets no answer while that is full (R290). -/
def execRemoteAccessIn (m : AccessIn) (s : State) : Outcome State Fault Refusal :=
  let words := fun (pa n : Nat) => (List.range ((n + 7) / 8)).map fun i => leWord (memRead s.mem (pa + 8 * i) (min 8 (n - 8 * i)))
  .next (match m with
    | .load rvid pa n =>
      match s.refuseIn rvid pa n true false with
      | some c => s.answer rvid 0 (.nackFault c 0)
      | none => s.answer rvid 0 (.results (words pa n))
    | .fetch rvid pa =>
      match s.refuseIn rvid pa 64 true false with
      | some c => s.answer rvid 0 (.nackFault c 0)
      | none => s.answer rvid 0 (.results (words pa 64))
    | .store rvid pa bs =>
      match s.refuseIn rvid pa bs.length false true with
      | some c => s.answer rvid 0 (.nackFault c 0)
      | none =>
        if s.goesToRing pa && !s.bounceRoom 1 then s
        else (s.receive pa pa 0 bs).answer rvid 0 .ack)

/-! ### Idempotent requests that wait (R301) -/

/-- The thread's fetch of a line waits for another device. -/
def State.fetchAway (s : State) : Bool :=
  s.th.entering && s.th.held.isNone && (match s.locate (lineOf s.th.pc) .fetch with
    | .ok (.away _ _, _) => true
    | _ => false)

/-- Entries with idempotent requests in flight. -/
def Thread.idempotentOut (t : Thread) : List Nat := (t.window.filter fun e => e.sent != [] && (vamoKey e.instr).isNone).map (·.post)

/-- The thread has an idempotent request in flight. -/
def State.awaitsRemote (s : State) : Bool :=
  (s.th.run == .running && ((match s.th.await with
    | some (.access _) => true
    | _ => false) || s.fetchAway)) || s.th.idempotentOut != []

/-- Requests of an entry in flight are sent again: trains of stores whole, other elements one by one. -/
def resend (post : Nat) : Act Unit := do
  let s ← get
  match s.th.entry post with
  | none => pure ()
  | some e =>
    if e.formed != [] then
      let (s1, f) := s.sendTrains post
      set s1
      match f with
      | some (c, a) => discard (faultElem post c a)
      | none => pure ()
    else discard (fireUnits post (if isTileInstr e.instr then [0] else e.sent))

def resendAll : List Nat → Act Unit
  | [] => pure ()
  | p :: r => do
    resend p
    resendAll r

/-- IDEMPOTENT_RETRANSMIT (R301): requests without a response are sent again, and are answered if the device answers. -/
def execIdempotentRetransmit (tid : Nat) (s : State) : Outcome State Fault Refusal :=
  actOn tid (do
    let s ← get
    if s.awaitsRemote then
      set { s with hiend := { s.hiend with retries := s.hiend.retries.filter (· ≠ tid) ++ [tid] } }
      resendAll s.th.idempotentOut
      modify fun s => { s with stalled := false, th := s.th.retire }
    else pure ()) s

/-- IDEMPOTENT_TIMEOUT (R301, R342): the limit passes without a response: DABORT, of which Benzia OS is told (R261). -/
def execIdempotentTimeout (tid : Nat) (s : State) : Outcome State Fault Refusal :=
  .next (s.onThread tid fun s => if s.awaitsRemote then s.abortTold s.th.ctx else s)

/-! ### Numbered requests and their replies (R303–R307) -/

/-- NONIDEMPOTENT_RETRANSMIT (R306): the same serial and elements with the current W. -/
def execNonidempotentRetransmit (ctx : Nat) (serial : BitVec 32) (s : State) : Outcome State Fault Refusal :=
  let c : BitVec 32 := BitVec.ofNat 32 ctx
  .next (match s.ctx c with
    | none => s
    | some x =>
      match x.out.find? fun (o : OutSerial) => o.serial = serial && o.st = .awaiting && !x.frozen with
      | none => s
      | some o =>
        let s1 := s.writeOut x o 1
        { ({ s1 with policy := { s1.policy with remote := true } }.sendSerial c serial) with policy := s.policy })

/-- NONIDEMPOTENT_TIMEOUT (R306): no reply for 2 s; the serial completes as indeterminate. -/
def execNonidempotentTimeout (ctx : Nat) (serial : BitVec 32) (s : State) : Outcome State Fault Refusal :=
  let c : BitVec 32 := BitVec.ofNat 32 ctx
  .next (match (s.ctx c).bind fun x => x.out.find? fun (o : OutSerial) => o.serial = serial && o.st = .awaiting with
    | none => s
    | some o => s.indeterminate c o)

/-- Change the owner state of this device or of another one. -/
def State.modOwner (s : State) (dev : BitVec 14) (f : Owner → Owner) : State :=
  if dev = s.hiend.id then { s with hiend := { s.hiend with owner := f s.hiend.owner } }
  else { s with peers := s.peers.map fun p => if p.id = dev then { p with owner := f p.owner } else p }

/-- The owner at a device. -/
def State.ownerOn (s : State) (dev : BitVec 14) : Option Owner :=
  if dev = s.hiend.id then some s.hiend.owner else (s.peer dev).map (·.owner)

/-- The lowest element of a request that lies in a device register or a hole, or in an uncorrectable unit, of this device. -/
def State.badElem (s : State) (r : Request) : List ReqElem → Nat → Option (Byte × Nat)
  | [], _ => none
  | x :: l, i =>
    if paKind x.addr = .reserved ∨ paKind x.addr = .reg ∨ s.sliceRetired x.addr then some (cPROT, i)
    else if s.touchesBad x.addr (reqSize r) then some (cDABORT, i)
    else s.badElem r l (i + 1)

/-- A request at this device (R305): elements that its memory cannot serve are refused as R313 refuses others. The owner applies a
train in one step, so that no other access falls between its elements (DEDUCED, log entry 28). -/
def State.requestHere (s : State) (r : Request) : State :=
  let (o, m, a) := s.hiend.owner.request s.mem r
  let known := s.hiend.owner.cache.any fun e => e.rvid = r.rvid && e.serial = r.serial
  let applied : Bool := !known && (match a with
    | some (.results _) => true
    | some .ack => true
    | _ => false)
  match applied, s.badElem r r.elems 0, a with
  | true, some (c, i), _ =>
    let f := Reply.nackFault c i
    let o1 := { o with cache := o.cache.map fun e => if e.rvid = r.rvid ∧ e.serial = r.serial then { e with reply := some f } else e }
    { s with hiend := { s.hiend with owner := o1 } }.answer r.rvid r.serial f
  | _, _, some a =>
    let s1 := { s with hiend := { s.hiend with owner := o }, mem := m }
    (s1.spoilHome (if applied then r.elems.flatMap fun x => s.wordsMet s.threads x.addr (reqSize r) else [])).answer r.rvid r.serial a
  | _, _, none => { s with hiend := { s.hiend with owner := o }, mem := m }

/-- OWNER_REQUEST (R305): a numbered request reaches its owner, this device or another one. -/
def execOwnerRequest (dev : BitVec 14) (r : Request) (s : State) : Outcome State Fault Refusal :=
  .next (if dev = s.hiend.id then s.requestHere r
    else match s.peer dev with
      | none => s
      | some p =>
        if !p.up then s
        else
          let (o, m, a) := p.owner.request p.mem r
          let s1 := s.setPeer { p with owner := o, mem := m }
          match a with
          | some a => s1.answer r.rvid r.serial a
          | none => s1)

/-- OWNER_ACK_PACKET (R305). -/
def execOwnerAckPacket (dev : BitVec 14) (rvid : BitVec 24) (wm : BitVec 32) (s : State) : Outcome State Fault Refusal :=
  .next (s.modOwner dev fun o => o.ackPacket rvid wm)

/-- PARTIAL_TRAIN_DISCARD (R305): a partial train is dropped whole. -/
def execPartialTrainDiscard (rvid : BitVec 24) (serial : BitVec 32) (s : State) : Outcome State Fault Refusal :=
  let f := fun (o : Owner) => { o with partials := o.partials.filter fun p => !(p.rvid = rvid && p.serial = serial) }
  .next { s with
    hiend := { s.hiend with owner := f s.hiend.owner,
                            partials := s.hiend.partials.filter fun p => !(p.rvid = rvid && p.tag = serial.toNat) }
    peers := s.peers.map fun p => { p with owner := f p.owner } }

/-- REMOTE_REPLY (R304, R309, R313): a reply or NACK reaches the requester. -/
def execRemoteReply (ctx : Nat) (serial : BitVec 32) (r : Reply) (s : State) : Outcome State Fault Refusal :=
  .next (s.deliver (BitVec.ofNat 32 ctx) serial r)

/-- WATERMARK_REPORT (R304, R312): the requester tells an owner its W, also while the context is frozen. -/
def execWatermarkReport (ctx : Nat) (dev : BitVec 14) (s : State) : Outcome State Fault Refusal :=
  .next (match s.ctx (BitVec.ofNat 32 ctx) with
    | none => s
    | some c => s.reportW c.ctxid dev)

/-- Free an RVID's entries and quarantine it (R307). -/
def Owner.quarantine (o : Owner) (rvid : BitVec 24) : Owner :=
  { o with cache := o.cache.filter fun e => e.rvid ≠ rvid, quarant := o.quarant.filter (· ≠ rvid) ++ [rvid] }

/-- The owner holds an entry of the RVID above its floor (R307). -/
def Owner.holdsAbove (o : Owner) (rvid : BitVec 24) : Bool :=
  o.cache.any fun e => e.rvid = rvid && (match assocGet o.floors rvid with
    | some f => !atOrBelow f e.serial
    | none => true)

/-- RVID_SILENCE_TIMEOUT (R307): no packet for 10 s while an entry is held above the floor. -/
def execRvidSilenceTimeout (dev : BitVec 14) (rvid : BitVec 24) (s : State) : Outcome State Fault Refusal :=
  .next (s.modOwner dev fun o => if o.holdsAbove rvid then o.quarantine rvid else o)

/-- QUARANTINE_END (R307): the quarantine ends and the floor is dropped. -/
def execQuarantineEnd (dev : BitVec 14) (rvid : BitVec 24) (s : State) : Outcome State Fault Refusal :=
  .next (s.modOwner dev fun o => if o.quarant.contains rvid then
      { o with quarant := o.quarant.filter (· ≠ rvid), floors := o.floors.filter fun f => f.1 ≠ rvid }
    else o)

/-- RVID_RELEASE (R307): the fabric manager releases an RVID. -/
def execRvidRelease (dev : BitVec 14) (rvid : BitVec 24) (s : State) : Outcome State Fault Refusal :=
  .next (s.modOwner dev fun o => o.quarantine rvid)

/-! ### Restarts (R308, R309) -/

/-- The device starts again with what outlives power: flash, ports' names, checkpoints and drives; the boot ROM is next, and what
is due after it stays due (R308). `mem` and `owner` are what the restart keeps. -/
def State.restarted (s : State) (mem : Memory) (badUnit : List Nat) (owner : Owner) : State :=
  { State.reset with
    agenda := .event .boot :: s.agenda, fresh := s.fresh, policy := s.policy, mem := mem, badUnit := badUnit, words := s.words, spaces := s.spaces, peers := s.peers,
    hiend := { Hiend.fresh with id := s.hiend.id, owner := owner },
    svc := { Service.fresh with flash := s.svc.flash, counter := s.svc.counter, ckpts := s.svc.ckpts } }

/-- The HBM bytes of a memory. -/
def hbmOnly (m : Memory) : Memory := m.filter fun c => paKind c.1 = .hbm

/-- WARM_RESET (R308): HBM, the result cache and the incarnation survive. -/
def execWarmReset (dev : BitVec 14) (s : State) : Outcome State Fault Refusal :=
  .next (if dev = s.hiend.id then
      s.restarted (hbmOnly s.mem) (s.badUnit.filter fun u => paKind (32 * u) = .hbm) { s.hiend.owner with partials := [] }
    else { s with peers := s.peers.map fun p => if p.id = dev then { p with up := true, owner := { p.owner with partials := [] } } else p })

/-- A cold restart's owner (R309): the next incarnation and nothing else. -/
def Owner.colder (o : Owner) : Owner := { Owner.fresh with inc := o.inc + 1, grants := o.grants, room := o.room }

/-- COLD_RESTART (R309). -/
def execColdRestart (dev : BitVec 14) (keepHbm : Bool) (s : State) : Outcome State Fault Refusal :=
  .next (if dev = s.hiend.id then
      s.restarted (if keepHbm then hbmOnly s.mem else []) (if keepHbm then s.badUnit.filter fun u => paKind (32 * u) = .hbm else [])
        s.hiend.owner.colder
    else { s with peers := s.peers.map fun p => if p.id = dev then
        { p with up := true, owner := p.owner.colder, mem := if keepHbm then hbmOnly p.mem else [] }
      else p })

/-! ### Network messages (R182–R184) -/

/-- The port answers a peer. -/
def State.netReply (s : State) (a : NetReply) : State := { s with netOut := s.netOut ++ [a] }

/-- The queue pair of a message, and whether its context answers at all: a frozen one says RNR (R353), and an unknown one, or one
in the error state, takes no message (R183; DEDUCED, log entry 53). -/
def State.netPair (s : State) (m : NetMsg) : Except NetReply QueuePair :=
  match s.qps.find? fun q => q.qpn = m.qpn with
  | none => .error .nakInvalid
  | some q => if (s.ctx q.ctx).any (·.frozen) then .error .rnr else if q.err then .error .nakInvalid else .ok q

/-- The registered region that a message names (R184). -/
def State.netRegion (s : State) (q : QueuePair) (m : NetMsg) (wr : Bool) : Option Region :=
  s.regions.find? fun r => r.ctx = q.ctx && r.rkey = m.rkey && decide (r.base.toNat ≤ m.addr.toNat) &&
    decide (m.addr.toNat + m.len ≤ r.base.toNat + r.len) && (if wr then r.write else r.read)

/-- The pieces of a range by 64-byte lines, with their places here; the cause where one does not lie in memory of this device. -/
def State.netPieces (s : State) (c : BitVec 32) (a : Word) (acc : Access) : Nat → Nat → Except Byte (List (Nat × Word × Nat))
  | 0, _ => .ok []
  | fuel + 1, n =>
    if n = 0 then .ok []
    else
      let k := min n (64 - a.toNat % 64)
      match s.resolve c 1 true a acc with
      | .error e => .error e
      | .ok (.away _ _) => .error cPROT
      | .ok (.here pa) =>
        if paKind pa = .reg then .error cPROT
        else (s.netPieces c (a + BitVec.ofNat 64 k) acc fuel (n - k)).map fun l => (pa, a, k) :: l

/-- Why bytes do not land: a fault, or no room in the bounce ring. -/
inductive LandStop where
  | fault (cause : Byte)
  | full
  deriving DecidableEq, Repr

/-- Bytes land at an address of a context, directly or through the bounce ring: how many bytes went to the ring; or why they
cannot land (R290). -/
def State.land (s : State) (c : BitVec 32) (a lword : Word) (bs : List Byte) : Except LandStop (State × Nat) :=
  match s.netPieces c a .write (bs.length + 1) bs.length with
  | .error e => .error (.fault e)
  | .ok l =>
    let away := l.filter fun x => s.goesToRing x.1
    if l.any (fun (pa, _, k) => !s.goesToRing pa && s.partlyBad pa k) then .error (.fault cDABORT)
    else if !s.bounceRoom away.length then .error .full
    else
      let s1 := l.foldl (fun s (pa, va, k) => s.receive pa va.toNat lword.toNat (bytesAt bs (va - a).toNat k)) s
      .ok (s1, (away.map fun x => x.2.2).sum)

/-- The oldest posted receive of a queue pair (R182). -/
def State.nextRecv (s : State) (q : QueuePair) : Option Xfer := q.recvs.head?.bind fun i => s.xfers.find? fun x => x.id = i

/-- A receive is complete: immediate data, then `result`, `status` and the units (R173, R182), but for those of bytes that went to
the ring; none where nothing was applied directly (R290). -/
def State.endRecv (s : State) (q : QueuePair) (x : Xfer) (got : Nat) (imm : Option (BitVec 32)) (away : Nat) (direct : Bool) : State :=
  let s1 := match imm with
    | some v => s.writeBlock x 32 (leBytes 4 v.toNat)
    | none => s
  let s2 := s1.modPair q.qpn fun p => { p with recvs := p.recvs.drop 1 }
  s2.endXferIf { x with sent := away } 0 (got % 2 ^ 32 + (if imm.isSome then 2 ^ 32 else 0)) direct

/-- NET_RDMA_WRITE_IN (R184): checked against the regions and applied, or refused; the bytes applied directly arrive at the
region's landing word. With immediate data it also consumes a receive. -/
def execNetRdmaWriteIn (m : NetMsg) (s : State) : Outcome State Fault Refusal :=
  .next (match s.netPair m with
    | .error a => s.netReply a
    | .ok q =>
      match s.netRegion q m true with
      | none => s.netReply .nakAccess
      | some r =>
        if m.data.length ≠ m.len then s.netReply .nakInvalid
        else if m.imm.isSome ∧ (s.nextRecv q).isNone then s.netReply .rnr
        else match s.land q.ctx m.addr r.lword m.data with
          | .error (.fault _) => s.netReply .nakAccess
          | .error .full => s.netReply .rnr
          | .ok (s1, away) =>
            let s2 := if away < m.len then s1.arriveVa q.ctx r.lword (m.len - away) else s1
            let s3 := match m.imm, s2.nextRecv q with
              | some v, some x => s2.endRecv q x m.len (some v) 0 (away == 0)
              | _, _ => s2
            s3.netReply .ack)

/-- NET_RDMA_READ_IN (R184): checked and served. -/
def execNetRdmaReadIn (m : NetMsg) (s : State) : Outcome State Fault Refusal :=
  .next (match s.netPair m with
    | .error a => s.netReply a
    | .ok q =>
      match s.netRegion q m false with
      | none => s.netReply .nakAccess
      | some _ =>
        match s.netPieces q.ctx m.addr .read (m.len + 1) m.len with
        | .error _ => s.netReply .nakAccess
        | .ok l =>
          if l.any fun (pa, _, k) => s.touchesBad pa k then s.netReply .nakAccess
          else s.netReply (.data (l.flatMap fun (pa, _, k) => memRead s.mem pa k)))

/-- NET_SEND_IN (R184): the oldest posted receive takes the message; a longer message ends it and the queue pair (R183), and a
fault of its buffer ends it with the cause (R173). -/
def execNetSendIn (m : NetMsg) (s : State) : Outcome State Fault Refusal :=
  .next (match s.netPair m with
    | .error a => s.netReply a
    | .ok q =>
      match s.nextRecv q with
      | none => s.netReply .rnr
      | some x =>
        if x.units < m.data.length then
          ({ s with fresh := s.fresh + 1 }.failNet x (Config.freeWord s.fresh).toNat 0).netReply .nakInvalid
        else match s.land q.ctx (x.addr 0) x.lword m.data with
          | .error (.fault c) => ((s.modPair q.qpn fun p => { p with recvs := p.recvs.drop 1 }).endNet x c.toNat 0).netReply .nakAccess
          | .error .full => s.netReply .rnr
          | .ok (s1, away) => (s1.endRecv q x m.data.length m.imm away (decide (away < m.data.length) || m.data == [])).netReply .ack)

/-- NET_ATOMIC_IN (R182): NAK invalid request. -/
def execNetAtomicIn (_ : NetMsg) (s : State) : Outcome State Fault Refusal := .next (s.netReply .nakInvalid)

/-! ### Link errors (R341, R343) -/

/-- LINK_CRC_RETRY (R341): the flit is sent again and the event recorded; `past` says that the port's retries passed the rate of
R343, and the third such event disables it. -/
def execLinkCrcRetry (port : Nat) (past : Bool) (s : State) : Outcome State Fault Refusal :=
  .next (
    let s1 := if past then s.rasBump (.port port) else s
    let n := s1.rasCount (.port port)
    let s2 := s1.rasRecord { cls := 8, action := 0, count := n, port := port }
    if past ∧ 3 ≤ n ∧ !s2.hiend.disabled.contains port then
      { s2 with hiend := { s2.hiend with disabled := s2.hiend.disabled ++ [port] } }.rasRecord { cls := 9, action := 6, count := n, port := port }
    else s2)

end Sys2Proof.Machine
end

