-- ==== Sys2Proof/Machine/Scalar.lean ====
section
/-! DEFINITION. Integer instructions of the scalar front end (spec/05 R77–R82) and control transfer (R83–R85). -/

namespace Sys2Proof.Machine

open Host (Outcome)

/-- The outcome of a scalar instruction: `xd` is written and control passes to the next head (R77). -/
def scalarResult (s : State) (d : XReg) (v : Word) : Outcome State Fault Refusal := .next ((s.setX d v).advance)

/-- 1 or 0. -/
def boolWord (b : Bool) : Word := if b then 1 else 0

/-- ADD: a + b modulo 2^64 (R79). -/
def execAdd (d a b : XReg) (s : State) : Outcome State Fault Refusal :=
  scalarResult s d (s.getX a + s.getX b)

/-- SUB: a − b modulo 2^64 (R79). -/
def execSub (d a b : XReg) (s : State) : Outcome State Fault Refusal :=
  scalarResult s d (s.getX a - s.getX b)

/-- AND (R79). -/
def execAnd (d a b : XReg) (s : State) : Outcome State Fault Refusal :=
  scalarResult s d (s.getX a &&& s.getX b)

/-- OR (R79). -/
def execOr (d a b : XReg) (s : State) : Outcome State Fault Refusal :=
  scalarResult s d (s.getX a ||| s.getX b)

/-- XOR (R79). -/
def execXor (d a b : XReg) (s : State) : Outcome State Fault Refusal :=
  scalarResult s d (s.getX a ^^^ s.getX b)

/-- SLL: left by b AND 63 (R79). -/
def execSll (d a b : XReg) (s : State) : Outcome State Fault Refusal :=
  scalarResult s d (s.getX a <<< ((s.getX b).toNat % 64))

/-- SRL: right with zeros (R79). -/
def execSrl (d a b : XReg) (s : State) : Outcome State Fault Refusal :=
  scalarResult s d (s.getX a >>> ((s.getX b).toNat % 64))

/-- SRA: right with copies of bit 63 (R79). -/
def execSra (d a b : XReg) (s : State) : Outcome State Fault Refusal :=
  scalarResult s d ((s.getX a).sshiftRight ((s.getX b).toNat % 64))

/-- SLT: 1 if a < b signed (R79). -/
def execSlt (d a b : XReg) (s : State) : Outcome State Fault Refusal :=
  scalarResult s d (boolWord ((s.getX a).slt (s.getX b)))

/-- SLT_N: 1 if a < b unsigned (R79). -/
def execSltN (d a b : XReg) (s : State) : Outcome State Fault Refusal :=
  scalarResult s d (boolWord ((s.getX a).ult (s.getX b)))

/-- MUL: low 64 bits of the product (R79). -/
def execMul (d a b : XReg) (s : State) : Outcome State Fault Refusal :=
  scalarResult s d (s.getX a * s.getX b)

/-- MULH: high 64 bits of the signed product (R79). -/
def execMulh (d a b : XReg) (s : State) : Outcome State Fault Refusal :=
  scalarResult s d (BitVec.ofNat 64 (mulhRes 64 false (s.getX a).toNat (s.getX b).toNat))

/-- MULH_N: high 64 bits of the unsigned product (R79). -/
def execMulhN (d a b : XReg) (s : State) : Outcome State Fault Refusal :=
  scalarResult s d (BitVec.ofNat 64 (mulhRes 64 true (s.getX a).toNat (s.getX b).toNat))

/-- DIV: signed quotient by R19 (R79). -/
def execDiv (d a b : XReg) (s : State) : Outcome State Fault Refusal :=
  scalarResult s d (BitVec.ofNat 64 (divRes 64 false (s.getX a).toNat (s.getX b).toNat))

/-- DIV_N: unsigned quotient by R19 (R79). -/
def execDivN (d a b : XReg) (s : State) : Outcome State Fault Refusal :=
  scalarResult s d (BitVec.ofNat 64 (divRes 64 true (s.getX a).toNat (s.getX b).toNat))

/-- REM: signed remainder by R19 (R79). -/
def execRem (d a b : XReg) (s : State) : Outcome State Fault Refusal :=
  scalarResult s d (BitVec.ofNat 64 (remRes 64 false (s.getX a).toNat (s.getX b).toNat))

/-- REM_N: unsigned remainder by R19 (R79). -/
def execRemN (d a b : XReg) (s : State) : Outcome State Fault Refusal :=
  scalarResult s d (BitVec.ofNat 64 (remRes 64 true (s.getX a).toNat (s.getX b).toNat))

/-- MIN: signed minimum (R79). -/
def execMin (d a b : XReg) (s : State) : Outcome State Fault Refusal :=
  scalarResult s d (if (s.getX a).slt (s.getX b) then s.getX a else s.getX b)

/-- MAX: signed maximum (R79). -/
def execMax (d a b : XReg) (s : State) : Outcome State Fault Refusal :=
  scalarResult s d (if (s.getX a).slt (s.getX b) then s.getX b else s.getX a)

/-- MIN_N: unsigned minimum (R79). -/
def execMinN (d a b : XReg) (s : State) : Outcome State Fault Refusal :=
  scalarResult s d (if (s.getX a).ult (s.getX b) then s.getX a else s.getX b)

/-- MAX_N: unsigned maximum (R79). -/
def execMaxN (d a b : XReg) (s : State) : Outcome State Fault Refusal :=
  scalarResult s d (if (s.getX a).ult (s.getX b) then s.getX b else s.getX a)

/-- ANDN (R79). -/
def execAndn (d a b : XReg) (s : State) : Outcome State Fault Refusal :=
  scalarResult s d (s.getX a &&& ~~~(s.getX b))

/-- ORN (R79). -/
def execOrn (d a b : XReg) (s : State) : Outcome State Fault Refusal :=
  scalarResult s d (s.getX a ||| ~~~(s.getX b))

/-- CLZ: leading zero bits, 64 for 0 (R79). -/
def execClz (d a : XReg) (s : State) : Outcome State Fault Refusal :=
  scalarResult s d (BitVec.ofNat 64 (leadingZeros 64 (s.getX a).toNat))

/-- CTZ: trailing zero bits, 64 for 0 (R79). -/
def execCtz (d a : XReg) (s : State) : Outcome State Fault Refusal :=
  scalarResult s d (BitVec.ofNat 64 (trailingZeros 64 (s.getX a).toNat))

/-- CPOP: one bits (R79). -/
def execCpop (d a : XReg) (s : State) : Outcome State Fault Refusal :=
  scalarResult s d (BitVec.ofNat 64 (popCount 64 (s.getX a).toNat))

/-- SEXT_8 (R79). -/
def execSext8 (d a : XReg) (s : State) : Outcome State Fault Refusal :=
  scalarResult s d (sextTo64 8 (s.getX a))

/-- SEXT_16 (R79). -/
def execSext16 (d a : XReg) (s : State) : Outcome State Fault Refusal :=
  scalarResult s d (sextTo64 16 (s.getX a))

/-- SEXT_32 (R79). -/
def execSext32 (d a : XReg) (s : State) : Outcome State Fault Refusal :=
  scalarResult s d (sextTo64 32 (s.getX a))

/-- ZEXT_32 (R79). -/
def execZext32 (d a : XReg) (s : State) : Outcome State Fault Refusal :=
  scalarResult s d (zextTo64 32 (s.getX a))

/-- ADDI: x[s1] + sext(imm24) (R80). -/
def execAddi (d a : XReg) (imm : BitVec 24) (s : State) : Outcome State Fault Refusal :=
  scalarResult s d (s.getX a + imm.signExtend 64)

/-- ANDI: imm24 zero-extended (R80). -/
def execAndi (d a : XReg) (imm : BitVec 24) (s : State) : Outcome State Fault Refusal :=
  scalarResult s d (s.getX a &&& imm.setWidth 64)

/-- ORI: imm24 zero-extended (R80). -/
def execOri (d a : XReg) (imm : BitVec 24) (s : State) : Outcome State Fault Refusal :=
  scalarResult s d (s.getX a ||| imm.setWidth 64)

/-- XORI: imm24 zero-extended (R80). -/
def execXori (d a : XReg) (imm : BitVec 24) (s : State) : Outcome State Fault Refusal :=
  scalarResult s d (s.getX a ^^^ imm.setWidth 64)

/-- SLLI: by imm24 AND 63 (R80). -/
def execSlli (d a : XReg) (imm : BitVec 24) (s : State) : Outcome State Fault Refusal :=
  scalarResult s d (s.getX a <<< (imm.toNat % 64))

/-- SRLI: by imm24 AND 63 (R80). -/
def execSrli (d a : XReg) (imm : BitVec 24) (s : State) : Outcome State Fault Refusal :=
  scalarResult s d (s.getX a >>> (imm.toNat % 64))

/-- SRAI: by imm24 AND 63 (R80). -/
def execSrai (d a : XReg) (imm : BitVec 24) (s : State) : Outcome State Fault Refusal :=
  scalarResult s d ((s.getX a).sshiftRight (imm.toNat % 64))

/-- SLTI: 1 if x[s1] < sext(imm24) signed (R80). -/
def execSlti (d a : XReg) (imm : BitVec 24) (s : State) : Outcome State Fault Refusal :=
  scalarResult s d (boolWord ((s.getX a).slt (imm.signExtend 64)))

/-- LI: a 64-bit constant (R81). -/
def execLi (d : XReg) (imm : Word) (s : State) : Outcome State Fault Refusal := scalarResult s d imm

/-- ADR: pc + sext(imm32) in bytes (R82). -/
def execAdr (d : XReg) (imm : BitVec 32) (s : State) : Outcome State Fault Refusal :=
  scalarResult s d (s.th.pc + imm.signExtend 64)

/-! ### Control transfer -/

/-- The target of an offset in halfwords from the pc (R48). -/
def State.branchTarget (s : State) (off : Word) : Word := s.th.pc + 2 * off

/-- JAL: the link register takes next_head(pc), then control enters the target (R83). -/
def execJal (l : XReg) (off : BitVec 32) (s : State) : Outcome State Fault Refusal :=
  .next ((s.setX l s.th.nextPc).enter (s.branchTarget (off.signExtend 64)))

/-- JALR: the target is read before the link register is written; bit 0 is not cleared (R84). -/
def execJalr (l a : XReg) (off : BitVec 24) (s : State) : Outcome State Fault Refusal :=
  .next ((s.setX l s.th.nextPc).enter (s.getX a + off.signExtend 64))

/-- A conditional branch (R85). -/
def branchIf (s : State) (c : Bool) (off : BitVec 17) : Outcome State Fault Refusal :=
  .next (if c then s.enter (s.branchTarget (off.signExtend 64)) else s.advance)

/-- BEQ (R85). -/
def execBeq (a b : XReg) (off : BitVec 17) (s : State) : Outcome State Fault Refusal :=
  branchIf s (s.getX a == s.getX b) off

/-- BNE (R85). -/
def execBne (a b : XReg) (off : BitVec 17) (s : State) : Outcome State Fault Refusal :=
  branchIf s (s.getX a != s.getX b) off

/-- BLT (R85). -/
def execBlt (a b : XReg) (off : BitVec 17) (s : State) : Outcome State Fault Refusal :=
  branchIf s ((s.getX a).slt (s.getX b)) off

/-- BGE (R85). -/
def execBge (a b : XReg) (off : BitVec 17) (s : State) : Outcome State Fault Refusal :=
  branchIf s (!(s.getX a).slt (s.getX b)) off

/-- BLT_N (R85). -/
def execBltN (a b : XReg) (off : BitVec 17) (s : State) : Outcome State Fault Refusal :=
  branchIf s ((s.getX a).ult (s.getX b)) off

/-- BGE_N (R85). -/
def execBgeN (a b : XReg) (off : BitVec 17) (s : State) : Outcome State Fault Refusal :=
  branchIf s (!(s.getX a).ult (s.getX b)) off

end Sys2Proof.Machine
end

