-- ==== Sys2Proof/Machine/ScalarFp.lean ====
section
/-! DEFINITION. Scalar floating point (spec/05 R96–R100). -/

namespace Sys2Proof.Machine

open Host (Outcome)

/-- The format that `aux8` names (R97). -/
def fpFmt (t : BitVec 8) : FFmt := fmtOf ((t.setWidth 3).setWidth 4)

/-- The result is written zero-extended, its flags are ORed in, and control passes on (R25, R96). -/
def fpResult (s : State) (d : XReg) (r : Nat × FFlags) : Outcome State Fault Refusal :=
  .next (((s.orFlags r.2 0).setX d (BitVec.ofNat 64 r.1)).advance)

/-- The low bits of a source register in a format (R96). -/
def State.fpArg (s : State) (t : BitVec 8) (r : XReg) : Nat := (s.getX r).toNat % 2 ^ (fpFmt t).width

/-- FADD (R97). -/
def execFadd (d a b : XReg) (t : BitVec 8) (s : State) : Outcome State Fault Refusal :=
  fpResult s d (fAdd (fpFmt t) s.th.frm (s.fpArg t a) (s.fpArg t b))

/-- FSUB (R97). -/
def execFsub (d a b : XReg) (t : BitVec 8) (s : State) : Outcome State Fault Refusal :=
  fpResult s d (fSub (fpFmt t) s.th.frm (s.fpArg t a) (s.fpArg t b))

/-- FMUL (R97). -/
def execFmul (d a b : XReg) (t : BitVec 8) (s : State) : Outcome State Fault Refusal :=
  fpResult s d (fMul (fpFmt t) s.th.frm (s.fpArg t a) (s.fpArg t b))

/-- FDIV (R97). -/
def execFdiv (d a b : XReg) (t : BitVec 8) (s : State) : Outcome State Fault Refusal :=
  fpResult s d (fDiv (fpFmt t) s.th.frm (s.fpArg t a) (s.fpArg t b))

/-- FSQRT (R97). -/
def execFsqrt (d a : XReg) (t : BitVec 8) (s : State) : Outcome State Fault Refusal :=
  fpResult s d (fSqrt (fpFmt t) s.th.frm (s.fpArg t a))

/-- FMIN (R98). -/
def execFmin (d a b : XReg) (t : BitVec 8) (s : State) : Outcome State Fault Refusal :=
  fpResult s d (fMinMax (fpFmt t) false (s.fpArg t a) (s.fpArg t b))

/-- FMAX (R98). -/
def execFmax (d a b : XReg) (t : BitVec 8) (s : State) : Outcome State Fault Refusal :=
  fpResult s d (fMinMax (fpFmt t) true (s.fpArg t a) (s.fpArg t b))

/-- FMA: a × b + c with one rounding (R97). -/
def execFma (d a b c : XReg) (t : BitVec 8) (s : State) : Outcome State Fault Refusal :=
  fpResult s d (fFma (fpFmt t) s.th.frm false false (s.fpArg t a) (s.fpArg t b) (s.fpArg t c))

/-- Source and destination type codes of `fcvt`, and their unsigned bits (R100). -/
def cvtSrc (t : BitVec 8) : EType := (t.extractLsb' 4 3).setWidth 4
def cvtDst (t : BitVec 8) : EType := (t.extractLsb' 0 3).setWidth 4

/-- The value and flags of `fcvt` (R100). -/
def fcvtValue (t : BitVec 8) (rm : RMode) (x : Word) : Word × FFlags :=
  let sc := cvtSrc t
  let dc := cvtDst t
  let v := if isIntT sc then intVal (asInt (widthOf sc) (t.getLsbD 7) x.toNat) else unpack (fmtOf sc) (x.toNat % 2 ^ widthOf sc)
  if isIntT dc then
    let p := fToInt (widthOf dc) (t.getLsbD 3) rm v
    (if t.getLsbD 3 then BitVec.ofNat 64 p.1 else sextTo64 (widthOf dc) (BitVec.ofNat 64 p.1), p.2)
  else
    let p := packVal (fmtOf dc) rm v
    (BitVec.ofNat 64 p.1, p.2)

/-- FCVT (R100). -/
def execFcvt (d a : XReg) (t : BitVec 8) (s : State) : Outcome State Fault Refusal :=
  let r := fcvtValue t s.th.frm (s.getX a)
  .next (((s.orFlags r.2 0).setX d r.1).advance)

/-- A comparison writes 1 or 0 (R99). -/
def fpRelation (s : State) (d : XReg) (r : Bool × FFlags) : Outcome State Fault Refusal :=
  fpResult s d (if r.1 then 1 else 0, r.2)

/-- FCMP_EQ (R99). -/
def execFcmpEq (d a b : XReg) (t : BitVec 8) (s : State) : Outcome State Fault Refusal :=
  fpRelation s d (fCompare (fpFmt t) 0 (s.fpArg t a) (s.fpArg t b))

/-- FCMP_LT (R99). -/
def execFcmpLt (d a b : XReg) (t : BitVec 8) (s : State) : Outcome State Fault Refusal :=
  fpRelation s d (fCompare (fpFmt t) 1 (s.fpArg t a) (s.fpArg t b))

/-- FCMP_LE (R99). -/
def execFcmpLe (d a b : XReg) (t : BitVec 8) (s : State) : Outcome State Fault Refusal :=
  fpRelation s d (fCompare (fpFmt t) 2 (s.fpArg t a) (s.fpArg t b))

/-- FCLASS (R99). -/
def execFclass (d a : XReg) (t : BitVec 8) (s : State) : Outcome State Fault Refusal :=
  fpResult s d (fClassMask (fpFmt t) (s.fpArg t a), 0)

end Sys2Proof.Machine
end

