-- ==== Sys2Proof/Machine/Service.lean ====
section
/-! DEFINITION. Boot and flash (spec/23 R347, R348), attestation (R349), live update (R350, R351), checkpoint and migration (R352, R353),
power and throttling (R355), and the service registers as the device's own steps write them (R346). -/

namespace Sys2Proof.Machine

open Host (Outcome)

/-! ### Boot (R348) -/

/-- The bundle of a slot; an empty slot fails its `magic`. -/
def Service.slotAt (v : Service) (b : Bool) : Option Bundle := v.flash[if b then 1 else 0]?

def slotValid (counter : BitVec 32) (b : Option Bundle) : Bool := b.any (bundleValid counter)

/-- Slot B is booted: the only valid one, or the one with the higher `ver` (R348). -/
def Service.choosesB (v : Service) : Bool :=
  slotValid v.counter (v.slotAt true) &&
  (!slotValid v.counter (v.slotAt false) || (match v.slotAt false, v.slotAt true with
    | some a, some b => a.ver.ult b.ver
    | _, _ => false))

/-- Why no slot boots (R348). -/
def Service.recoveryCause (v : Service) : Byte :=
  let signed := [v.slotAt false, v.slotAt true].filterMap fun b => b.bind fun x => if bundleSigned x then some x else none
  if signed = [] then 1 else if signed.any (·.bad) then 3 else 2

/-- The compute dies are released from reset, where the module was in recovery (R348). -/
def State.released (s : State) : State :=
  if s.svc.recovery then
    { s with th := Thread.powerOn 0, others := (List.range 15).map fun n => Thread.powerOn (n + 1), stalled := false }
  else s

/-- Outside recovery the endpoint serves more than its recovery mailbox (R348). -/
def State.serves (s : State) (t : State) : Outcome State Fault Refusal := .next (if s.svc.recovery then s else t)

/-- The fields of a bundle are those of its header's bytes, where `bad` stands apart (R347). -/
def Bundle.fromHeader (x : Bundle) : Bool :=
  let rec_ := fun (i : Nat) => bytesAt x.header (16 + 48 * i) 48
  x.header.length == 160 && bytesAt x.header 12 1 == [0] && x.sig.length == 64 && x.magic == BitVec.ofNat 32 (fieldAt x.header 0 4) &&
  x.ver == BitVec.ofNat 32 (fieldAt x.header 4 4) && x.minver == BitVec.ofNat 32 (fieldAt x.header 8 4) &&
  x.key == BitVec.ofNat 16 (fieldAt x.header 14 2) && x.comps.length == 3 &&
  (indexed x.comps).all fun (i, ty, body, dig) =>
    ty == fieldAt (rec_ i) 0 4 && decide (body.length ≤ fieldAt (rec_ i) 8 8) && dig == bytesAt (rec_ i) 16 32

/-- A bundle is written through the recovery mailbox into a slot (R348); the boot ROM selects anew at the next boot (log entry
51). -/
def State.recoveryWrite (s : State) (b : Bool) (x : Bundle) : State :=
  if !s.svc.recovery || !x.fromHeader then s
  else
    let fl := s.svc.flash ++ List.replicate (2 - s.svc.flash.length) { x with magic := 0 }
    { s with svc := { s.svc with flash := fl.set (if b then 1 else 0) x } }

/-- BOOT (R348): the boot ROM boots the better valid slot, or the module enters recovery, where no die is released. -/
def execBoot (s : State) : Outcome State Fault Refusal :=
  let v := s.svc
  let a := slotValid v.counter (v.slotAt false)
  let b := slotValid v.counter (v.slotAt true)
  .next (if !a && !b then
      let stop := fun (t : Thread) => { t with run := .exited }
      { s with power := .on, th := stop s.th, others := s.others.map stop,
               svc := { v with recovery := true, rcause := v.recoveryCause, running := none, fallback := true } }
    else
      let slot := v.choosesB
      match v.slotAt slot with
      | none => s
      | some x =>
        let w := { v with recovery := false, rcause := 0, slot := slot, fallback := !(a && b), ver := x.ver, running := some x,
                          schedFw := bundleComp x 1 }
        { s.released with power := .on, svc := w })

/-- The core is at M and belongs to those that leave firmware after boot (R273): it is free for node runs (log entry 20). -/
def Thread.leavesBoot (t : Thread) : Thread := match t.who with
  | .core n => if 1 ≤ n ∧ n < 14 ∧ t.pl = 3 ∧ t.run = .running then { t with run := .exited } else t
  | .tile _ _ _ => t

/-- BOOT_COMPLETE (R348): the anti-rollback counter rises to the running bundle's `minver`. -/
def execBootComplete (s : State) : Outcome State Fault Refusal :=
  let raised := match s.svc.running with
    | some b => if s.svc.counter.ult b.minver then b.minver else s.svc.counter
    | none => s.svc.counter
  s.serves { s with th := s.th.leavesBoot, others := s.others.map Thread.leavesBoot, svc := { s.svc with counter := raised } }

/-! ### Service registers and live update (R346, R350, R351) -/

/-- REGISTER_WRITE (R346): a write by Benzia OS. -/
def execRegisterWrite (pa : Nat) (v : Word) (s : State) : Outcome State Fault Refusal :=
  s.serves (s.svcWrite 1 pa v)

/-- UPDREQ_WRITE (R350). -/
def execUpdreqWrite (v : Word) (s : State) : Outcome State Fault Refusal := s.serves (s.updreq v)

/-- UPDREQ_READ (R350): the read that returns `rej` clears it. -/
def execUpdreqRead (s : State) : Outcome State Fault Refusal := s.serves { s with svc := svcReadEffect s.svc 0x00FF00001008 }

/-- HBEAT (R350): the scheduler's heartbeat. -/
def execHbeat (s : State) : Outcome State Fault Refusal := s.serves (s.beat (s.svc.hbeat + 1))

/-- UPDATE_HEARTBEAT_TIMEOUT (R351): the new component is stopped, its slot is bad, and the old one goes on. -/
def execUpdateHeartbeatTimeout (s : State) : Outcome State Fault Refusal :=
  .next (if s.svc.upd = 1 ∧ s.sched.paused then
      let other := if s.svc.slot then 0 else 1
      { s with svc := { s.svc with upd := 4, updBundle := none, flash := s.svc.flash.modify other fun b => { b with bad := true } },
               sched := { s.sched with paused := false } }
    else s)

/-! ### Attestation (R349) -/

/-- The responder answers; in recovery it does not (R348). -/
def State.spdmReply (s : State) (a : SpdmReply) : Outcome State Fault Refusal :=
  s.serves { s with svc := { s.svc with spdm := s.svc.spdm ++ [a] } }

/-- The configuration that measurement 5 covers: `featen0` of the contexts, the spare-tile map (the tile of each hall that its
spare has replaced), `pwrcap`. -/
def State.configBytes (s : State) : List Byte :=
  s.ctxs.map (fun c => BitVec.ofNat 8 c.featen.toNat) ++
  (List.range 32).map (fun h => match (s.hall h).spare with
    | none => 0xFF
    | some i => BitVec.ofNat 8 i) ++ leBytes 2 s.svc.pwrcap.toNat

/-- The measured item of an index. -/
def State.measured (s : State) (i : Nat) : List Byte :=
  let comp := fun (n : Nat) => (s.svc.running.map fun b => bundleComp b n).getD []
  match i with
  | 1 => Config.bootRom
  | 2 => comp 0
  | 3 => s.svc.schedFw
  | 4 => comp 2
  | _ => s.configBytes

/-- GET_VERSION (R349): SPDM 1.3. -/
def execGetVersion (s : State) : Outcome State Fault Refusal := s.spdmReply (.version 0x13)

/-- GET_CAPABILITIES (R349): no sessions. -/
def execGetCapabilities (s : State) : Outcome State Fault Refusal := s.spdmReply (.capabilities false)

/-- NEGOTIATE_ALGORITHMS (R349): SM2 and SM3-256, or ERROR for a requester that offers neither. -/
def execNegotiateAlgorithms (sm2 sm3 : Bool) (s : State) : Outcome State Fault Refusal :=
  s.spdmReply (if sm2 || sm3 then .algorithms else .error)

/-- GET_DIGESTS (R349): the digest of the chain in slot 0. -/
def execGetDigests (s : State) : Outcome State Fault Refusal := s.spdmReply (.digests (Config.sm3 Config.certChain))

/-- GET_CERTIFICATE (R349): only slot 0 holds a chain. -/
def execGetCertificate (slot : Nat) (s : State) : Outcome State Fault Refusal :=
  s.spdmReply (if slot = 0 then .certificate Config.certChain else .error)

/-- CHALLENGE (R349): signed with the device identity key. -/
def execChallenge (slot : Nat) (nonce : List Byte) (s : State) : Outcome State Fault Refusal :=
  s.spdmReply (if slot = 0 then .challenge (Config.sm2Sign (Config.sm3 Config.certChain ++ nonce)) else .error)

/-- Measurements with their signature over the indices and digests (R349; log entry 54). -/
def signedMeasurements (l : List (Nat × List Byte)) : SpdmReply :=
  .measurements l (Config.sm2Sign (l.flatMap fun (i, d) => BitVec.ofNat 8 i :: d))

/-- GET_MEASUREMENTS (R349): one index, or all five for index 255. -/
def execGetMeasurements (index : Nat) (s : State) : Outcome State Fault Refusal :=
  let m := fun (i : Nat) => (i, Config.sm3 (s.measured i))
  s.spdmReply (if 1 ≤ index ∧ index ≤ 5 then signedMeasurements [m index]
    else if index = 255 then signedMeasurements ([1, 2, 3, 4, 5].map m) else .error)

/-- SPDM_UNSUPPORTED (R349). -/
def execSpdmUnsupported (_ : Byte) (s : State) : Outcome State Fault Refusal := s.spdmReply .unsupportedRequest

/-! ### Checkpoint and migration (R352, R353) -/

/-- The bytes that the digest of a checkpoint covers. -/
def imageBytes (mem : Memory) (tiles : List ((Nat × Nat) × Tile)) : List Byte :=
  mem.flatMap (fun (a, b) => leBytes 6 a ++ [b]) ++
  tiles.flatMap fun (_, x) => (List.range 4).flatMap fun n => leBytes 1 (x.wAt n).tag.toNat ++
    (x.wAt n).data.flatMap fun (k, v) => leBytes 4 k ++ leBytes 2 v.toNat

/-- The tile threads of some contexts, or of all, that still stand on a tile. -/
def State.resident (s : State) (mine : BitVec 32 → Bool) : List Thread :=
  s.threads.filter fun t => !t.isCore && mine t.ctx && (t.run == .running || t.suspended)

/-- Copies of some contexts. -/
def State.copiesOf (s : State) (mine : BitVec 32 → Bool) : List Xfer :=
  s.xfers.filter fun x => (x.kind == .cpy || x.kind == .cpy2d) && mine x.ctx

/-- Copies of switched-out threads drain, or leave remainders where a device does not answer (R289, R352). -/
def State.drainCopies (s : State) (mine : BitVec 32 → Bool) : State :=
  (s.copiesOf mine).foldl (fun s x =>
    let s1 := s.completeCopy x
    if s1.xfers.any fun y => y.id = x.id then s1.cutCopy x.id x.moved else s1) s

/-- Threads are pre-empted and their partitions saved, and copies drain; the flag says whether that could be done: not while an
instruction is exempted, a request is carried (R259, R310), something of a window is in flight (R287), or a copy neither ends nor
leaves a remainder. -/
def State.freeze (s : State) (mine : BitVec 32 → Bool) : State × Bool :=
  let l := s.resident mine
  let (s1, ready) := s.mayQuiesce l
  if !ready || s.threads.any (fun t => t.isCore && mine t.ctx && t.run == .running && t.mustCarry) then (s1, false)
  else
    let s2 := (l.foldl (fun s t => s.quiesceThread t.tid) s1.drainAll).drainCopies mine
    (s2, (s2.copiesOf mine) == [])

/-- A bank's 32 KiB in the area of HBM, rows in ascending order: element j of row k at (64k + j) × 2 under l16, at 64k + j under
l8 (R185; log entry 55). -/
def wBytes (w : CodeTile) : List Byte := (List.range (64 * kmaxOf w.tag)).flatMap fun i => leBytes (512 / kmaxOf w.tag) (w.get i)

/-- Firmware copies the weight banks of the tiles into their area of HBM (R352; log entry 55): bank n of tile t at 128 KiB × t +
32 KiB × n, t counting the tiles hall by hall. -/
def State.copyBanks (s : State) : State :=
  s.tiles.foldl (fun s ((h, i), x) => (List.range 4).foldl (fun s n =>
    s.apply (Config.bankArea + 131072 * (16 * h + i) + 32768 * n) (wBytes (x.wAt n))) s) s

/-- CHECKPOINT (R352): threads are saved, copies drain, the w banks are copied, and HBM and the gallery are written out with a
digest and a signature; other transfers go on after a restore. -/
def execCheckpoint (s : State) : Outcome State Fault Refusal :=
  let (s0, ready) := s.freeze fun _ => true
  .next (if s.svc.recovery then s else if !ready then s0
    else
      let s1 := s0.copyBanks
      let d := Config.sm3 (imageBytes s1.mem s1.tiles)
      let c : Ckpt := { mem := s1.mem, sched := s1.sched, tiles := s1.tiles, ctxs := s1.ctxs, threads := s1.threads.filter fun t => !t.isCore,
                        xfers := s1.xfers, allocs := s1.allocs, qps := s1.qps, regions := s1.regions, media := s1.media, digest := d, sig := Config.sm2Sign d }
      { s1 with svc := { s1.svc with ckpts := s1.svc.ckpts ++ [c] } })

/-- A checkpoint's digest and signature hold (R352). -/
def Ckpt.valid (c : Ckpt) : Bool := Config.sm3 (imageBytes c.mem c.tiles) == c.digest && Config.sm2Sign c.digest == c.sig

/-- The w banks of a saved tile, on a tile that holds nothing else; the saved threads hold their z tiles again as they resume. -/
def Tile.reloaded (x : Tile) : Tile := { Tile.fresh with w := x.w, q := x.q, owner := x.owner, retired := x.retired, marked := x.marked }

/-- CHECKPOINT_RESTORE (R352): a verified image is reloaded, and its threads resume as from a pre-emption. -/
def execCheckpointRestore (n : Nat) (s : State) : Outcome State Fault Refusal :=
  .next (match s.svc.ckpts[n]? with
    | none => s
    | some c =>
      if !c.valid || s.svc.recovery then s
      else match s.threads.filter fun t => t.isCore with
        | [] => s
        | t :: r =>
          { s with th := t, others := r ++ c.threads, stalled := false, mem := c.mem, badUnit := [], sched := c.sched, ctxs := c.ctxs,
                   tiles := c.tiles.map fun (k, x) => (k, x.reloaded), halls := s.halls.map fun (h, x) => (h, { Hall.fresh with spare := x.spare }),
                   xfers := c.xfers, allocs := c.allocs, qps := c.qps, regions := c.regions, media := c.media })

/-- The physical ranges that a table reaches: the tables themselves and the pages of this device (R278). -/
def mapped (m : Memory) : List Nat → Nat → List (Nat × Nat)
  | [], _ => []
  | sh :: r, table =>
    let places := ((m.filter fun c => decide (table ≤ c.1) && decide (c.1 < table + 2 ^ 14)).map fun c => c.1 / 8).eraseDups
    (table, 2 ^ 14) :: places.flatMap fun i =>
      let e := leWord (memRead m (8 * i) 8)
      if !e.getLsbD 0 then []
      else if e.getLsbD 1 then (if e.getLsbD 49 then [] else [(entryBase e, 2 ^ sh)])
      else mapped m r (entryBase e)

/-- What streaming sends of some contexts (R312, R353); all of it lies in memory that they map, in their records, or in their
gallery slices. -/
def State.processOf (s : State) (mine : BitVec 32 → Bool) : Process :=
  let cs := s.ctxs.filter fun c => mine c.ctxid
  let ranges := cs.flatMap (fun c => (c.record, 256) :: mapped s.mem [47, 36, 25, 14] c.ptroot) ++
    s.allocs.filterMap fun (b, n, c) => if mine c then some (b, n) else none
  { ctxs := cs, threads := s.threads.filter fun t => mine t.ctx && t.suspended,
    tiles := s.tiles.filter fun x => x.2.owner.any mine,
    mem := s.mem.filter fun c => ranges.any fun (b, n) => decide (b ≤ c.1) && decide (c.1 < b + n),
    qps := s.qps.filter fun q => mine q.ctx, regions := s.regions.filter fun r => mine r.ctx,
    xfers := s.xfers.filter fun x => mine x.ctx, media := s.media.filter fun x => mine x.ctx,
    launches := s.sched.launches.filter fun l => mine l.ctx,
    queues := s.sched.queues.flatMap fun (q, x) => x.packets.filterMap fun i =>
      if (s.launch i).any fun l => mine l.ctx then some (q, i) else none,
    gens := s.sched.gens.filter fun g => mine g.ctx,
    pool := s.sched.pool.filter fun p => (s.gen p.1).any fun g => mine g.ctx,
    allocs := s.allocs.filter fun a => mine a.2.2, old := cs.any (·.rc) }

/-- LIVE_MIGRATION (R312, R353): refused where a chosen image is no candidate on the target (R324); once every scalar and
returning remote operation has its reply, the contexts' threads, control threads and connections are frozen and their state
leaves; their serials go on at the target. -/
def execLiveMigration (ctxs : List Nat) (dev : BitVec 14) (s : State) : Outcome State Fault Refusal :=
  let mine := fun (c : BitVec 32) => ctxs.contains c.toNat
  .next (if s.svc.recovery || !ctxs.all fun c => Config.candidate dev (BitVec.ofNat 32 c) then s
    else
      let (s1, ready) := s.freeze mine
      if !ready then s1
      else
        let stop := fun (t : Thread) => if t.isCore ∧ (t.launch ≠ 0 ∨ t.pl = 0) ∧ mine t.ctx ∧ t.run = .running then
          { t with run := .suspended false } else t
        let held := fun (c : Ctx) => if mine c.ctxid then { c with frozen := true } else c
        let s2 := { s1 with th := stop s1.th, others := s1.others.map stop, ctxs := s1.ctxs.map held }
        { s2 with svc := { s2.svc with migrated := s2.svc.migrated ++ [s2.processOf mine] } })

/-- The target of a migration has sent its first packet: the source sends nothing more for the context, which is gone (R312). -/
def State.handedOver (s : State) (ctx : BitVec 32) : State :=
  if (s.ctx ctx).any (·.frozen) then
    let free := fun (t : Thread) => if t.isCore ∧ t.ctx = ctx ∧ t.suspended then t.halt else t
    { s with
      ctxs := s.ctxs.filter fun c => c.ctxid ≠ ctx, th := free s.th,
      others := (s.others.filter fun t => !(t.ctx = ctx && t.suspended && !t.isCore)).map free,
      xfers := s.xfers.filter fun x => x.ctx ≠ ctx, media := s.media.filter fun x => x.ctx ≠ ctx,
      qps := s.qps.filter fun q => q.ctx ≠ ctx, regions := s.regions.filter fun r => r.ctx ≠ ctx,
      sched := { s.sched with
        launches := s.sched.launches.filter fun l => l.ctx ≠ ctx, gens := s.sched.gens.filter fun g => g.ctx ≠ ctx,
        pool := s.sched.pool.filter fun p => (s.gen p.1).all fun g => g.ctx ≠ ctx,
        queues := s.sched.queues.map fun (q, x) => (q, { x with packets := x.packets.filter fun i => (s.launch i).all fun l => l.ctx ≠ ctx }) } }
  else s

/-- How a process's numbers are changed where it arrives: a constant is added, and a control thread takes a core's number. -/
structure Renumber where
  cores : List (Nat × Nat)
  up    : Nat
  deriving DecidableEq, Repr

def Renumber.tid (r : Renumber) (n : Nat) : Nat := (assocGet r.cores n).getD (n + r.up)

def Renumber.node (r : Renumber) (x : Option (Nat × Nat)) : Option (Nat × Nat) := x.map fun (g, n) => (g + r.up, n)

def Renumber.out (r : Renumber) (o : OutSerial) : OutSerial :=
  { o with tid := r.tid o.tid, gen := o.gen.map fun (g, a, n) => (g + r.up, a, n) }

/-- A thread of a process where it arrives: a control thread in a core that ran nothing, a tile thread suspended on its tile. -/
def Renumber.thread (r : Renumber) (cores : List Thread) (old : Bool) (t : Thread) : Thread :=
  let u := { t with tid := r.tid t.tid, launch := if t.launch = 0 then 0 else t.launch + r.up, spaceOf := none, rc := t.rc || old }
  match cores.find? fun c => t.isCore && c.tid = u.tid with
  | some c => { u.goOn with who := c.who, irq := c.irq, mregs := c.mregs }
  | none => u

/-- A process resumes on the device it has come to, as from a pre-emption, with `mmmode.rc` set where an object of `mmrev` 1 is
among its images (R326, R353). Its control threads go on in cores that run nothing, and it does not come while these are too few;
threads, launches, generations and transfers take numbers that are free here (log entry 56). -/
def State.migrateIn (s : State) (p : Process) : State :=
  let control := p.threads.filter (·.isCore)
  let idle := s.threads.filter fun t => match t.who with
    | .core n => decide (n < 14) && t.run == .exited
    | .tile _ _ _ => false
  if s.svc.recovery || decide (idle.length < control.length) then s
  else
    let r : Renumber := { cores := (control.map (·.tid)).zip (idle.map (·.tid)),
                          up := 1 + (s.threads.map (·.tid)).foldl max s.sched.nextId }
    let new := p.threads.map (r.thread idle p.old)
    let here := fun (t : Thread) => (new.find? fun u => u.isCore && u.tid = t.tid).getD t
    let ctxs := p.ctxs.map fun c => { c with frozen := false, rc := c.rc || p.old, out := c.out.map r.out,
                                             records := c.records.map fun x => { x with out := r.out x.out } }
    let launches := p.launches.map fun l => { l with id := l.id + r.up, node := r.node l.node }
    let gens := p.gens.map fun g => { g with id := g.id + r.up, tid := r.tid g.tid }
    let xfers := p.xfers.map fun x => { x with id := x.id + r.up, tid := r.tid x.tid, node := r.node x.node }
    let queues := p.queues.foldl (fun (q : Sparse Queue) (n, i) =>
      let x := sget Queue.empty q n
      sset Queue.empty q n { x with packets := x.packets ++ [i + r.up] }) s.sched.queues
    let top := (launches.map (·.id) ++ gens.map (·.id) ++ xfers.map (·.id) ++ new.map (·.tid)).foldl max r.up
    let s1 := { s with
      th := here s.th, others := s.others.map here ++ new.filter fun t => !t.isCore, ctxs := s.ctxs ++ ctxs,
      mem := p.mem.foldl (fun m (a, b) => memWrite m a [b]) s.mem, allocs := s.allocs ++ p.allocs,
      qps := s.qps ++ p.qps.map fun q => { q with recvs := q.recvs.map (· + r.up) }, regions := s.regions ++ p.regions,
      xfers := s.xfers ++ xfers, media := s.media ++ p.media,
      sched := { s.sched with launches := s.sched.launches ++ launches, gens := s.sched.gens ++ gens, queues := queues,
                              pool := s.sched.pool ++ p.pool.map fun (g, n) => (g + r.up, n), nextId := top + 1 } }
    p.tiles.foldl (fun s ((h, i), x) => s.setTile h i { x.reloaded with retired := (s.tile h i).retired, marked := (s.tile h i).marked }) s1

/-! ### Power and throttling (R355) -/

/-- The compute dies lose power; every context is lost, and HBM keeps what it holds (R355). -/
def State.shutDown (s : State) : State :=
  { s.restarted (hbmOnly s.mem) (s.badUnit.filter fun u => paKind (32 * u) = .hbm) s.hiend.owner with power := .diesOff }

/-- THROTTLE_UPDATE (R355): the level rises while a cause holds and falls once both are clear; by how much is open. At 115 °C the
compute dies lose power at once. -/
def execThrottleUpdate (watts tj : Nat) (s : State) : Outcome State Fault Refusal :=
  let p : Bool := decide (s.svc.pwrcap.toNat < watts)
  let t : Bool := decide (105 < tj)
  let k := 1 + Config.throttleStep s.fresh
  let lvl := if p || t then min 15 (s.svc.lvl + k) else s.svc.lvl - k
  .next (if 115 ≤ tj then s.shutDown
    else { s with svc := { s.svc with lvl := lvl, tj := BitVec.ofNat 8 tj, pcap := p, tcap := t }, fresh := s.fresh + 1 })

/-- THERMAL_SHUTDOWN (R355): the hottest sensor reaches 115 °C between two updates of the level; the event is that moment. -/
def execThermalShutdown (s : State) : Outcome State Fault Refusal := .next s.shutDown

/-- POWER_FAILURE (R355): every context and all volatile state are lost. -/
def execPowerFailure (s : State) : Outcome State Fault Refusal :=
  .next { s.restarted [] [] s.hiend.owner.colder with power := .off }

end Sys2Proof.Machine
end

