-- ==== Sys2Proof/Machine/Vector.lean ====
section
/-! DEFINITION. The vector, mask and tile instructions: each checks, is posted into the window, and passes to the next head; one
whose result goes to an x register waits for it (spec/06, spec/07, spec/09, spec/10). -/

namespace Sys2Proof.Machine

open Host (Outcome)

/-- A format V instruction (R107, R127): posted in program order; committed at post, or with its scalar result. -/
def vecAct (i : Instr) (major minor : Nat) (o : VOp) : Act Unit :=
  if toX major minor o then postAndWait i (postVec i major minor o)
  else do
    postVec i major minor o
    advanceAct

/-- A tile instruction or a merge commits at post (R187, R250). -/
def tileAct (post : Act Unit) : Act Unit := do
  post
  advanceAct

/-- VADD_INT (R111). -/
def execVaddInt (o : VOp) (s : State) : Outcome State Fault Refusal := runAct (vecAct (.vaddInt o) 0x30 0 o) s

/-- VSUB_INT (R111). -/
def execVsubInt (o : VOp) (s : State) : Outcome State Fault Refusal := runAct (vecAct (.vsubInt o) 0x30 1 o) s

/-- VMUL_INT (R111). -/
def execVmulInt (o : VOp) (s : State) : Outcome State Fault Refusal := runAct (vecAct (.vmulInt o) 0x30 2 o) s

/-- VMULH (R111). -/
def execVmulh (o : VOp) (s : State) : Outcome State Fault Refusal := runAct (vecAct (.vmulh o) 0x30 3 o) s

/-- VMULH_N (R111). -/
def execVmulhN (o : VOp) (s : State) : Outcome State Fault Refusal := runAct (vecAct (.vmulhN o) 0x30 4 o) s

/-- VDIV_INT (R111). -/
def execVdivInt (o : VOp) (s : State) : Outcome State Fault Refusal := runAct (vecAct (.vdivInt o) 0x30 5 o) s

/-- VDIV_N (R111). -/
def execVdivN (o : VOp) (s : State) : Outcome State Fault Refusal := runAct (vecAct (.vdivN o) 0x30 6 o) s

/-- VREM (R111). -/
def execVrem (o : VOp) (s : State) : Outcome State Fault Refusal := runAct (vecAct (.vrem o) 0x30 7 o) s

/-- VREM_N (R111). -/
def execVremN (o : VOp) (s : State) : Outcome State Fault Refusal := runAct (vecAct (.vremN o) 0x30 8 o) s

/-- VMIN_INT (R111). -/
def execVminInt (o : VOp) (s : State) : Outcome State Fault Refusal := runAct (vecAct (.vminInt o) 0x30 9 o) s

/-- VMIN_N (R111). -/
def execVminN (o : VOp) (s : State) : Outcome State Fault Refusal := runAct (vecAct (.vminN o) 0x30 10 o) s

/-- VMAX_INT (R111). -/
def execVmaxInt (o : VOp) (s : State) : Outcome State Fault Refusal := runAct (vecAct (.vmaxInt o) 0x30 11 o) s

/-- VMAX_N (R111). -/
def execVmaxN (o : VOp) (s : State) : Outcome State Fault Refusal := runAct (vecAct (.vmaxN o) 0x30 12 o) s

/-- VAND (R111). -/
def execVand (o : VOp) (s : State) : Outcome State Fault Refusal := runAct (vecAct (.vand o) 0x30 13 o) s

/-- VOR (R111). -/
def execVor (o : VOp) (s : State) : Outcome State Fault Refusal := runAct (vecAct (.vor o) 0x30 14 o) s

/-- VXOR (R111). -/
def execVxor (o : VOp) (s : State) : Outcome State Fault Refusal := runAct (vecAct (.vxor o) 0x30 15 o) s

/-- VSLL (R111). -/
def execVsll (o : VOp) (s : State) : Outcome State Fault Refusal := runAct (vecAct (.vsll o) 0x30 16 o) s

/-- VSRL (R111). -/
def execVsrl (o : VOp) (s : State) : Outcome State Fault Refusal := runAct (vecAct (.vsrl o) 0x30 17 o) s

/-- VSRA (R111). -/
def execVsra (o : VOp) (s : State) : Outcome State Fault Refusal := runAct (vecAct (.vsra o) 0x30 18 o) s

/-- VADDSAT (R111). -/
def execVaddsat (o : VOp) (s : State) : Outcome State Fault Refusal := runAct (vecAct (.vaddsat o) 0x30 19 o) s

/-- VADDSAT_N (R111). -/
def execVaddsatN (o : VOp) (s : State) : Outcome State Fault Refusal := runAct (vecAct (.vaddsatN o) 0x30 20 o) s

/-- VSUBSAT (R111). -/
def execVsubsat (o : VOp) (s : State) : Outcome State Fault Refusal := runAct (vecAct (.vsubsat o) 0x30 21 o) s

/-- VSUBSAT_N (R111). -/
def execVsubsatN (o : VOp) (s : State) : Outcome State Fault Refusal := runAct (vecAct (.vsubsatN o) 0x30 22 o) s

/-- VABS_INT (R111). -/
def execVabsInt (o : VOp) (s : State) : Outcome State Fault Refusal := runAct (vecAct (.vabsInt o) 0x30 23 o) s

/-- VNEG_INT (R111). -/
def execVnegInt (o : VOp) (s : State) : Outcome State Fault Refusal := runAct (vecAct (.vnegInt o) 0x30 24 o) s

/-- VMACC (R111). -/
def execVmacc (o : VOp) (s : State) : Outcome State Fault Refusal := runAct (vecAct (.vmacc o) 0x30 25 o) s

/-- VCLZ (R111). -/
def execVclz (o : VOp) (s : State) : Outcome State Fault Refusal := runAct (vecAct (.vclz o) 0x30 26 o) s

/-- VCPOP (R111). -/
def execVcpop (o : VOp) (s : State) : Outcome State Fault Refusal := runAct (vecAct (.vcpop o) 0x30 27 o) s

/-- VADD_FP (R112). -/
def execVaddFp (o : VOp) (s : State) : Outcome State Fault Refusal := runAct (vecAct (.vaddFp o) 0x31 0 o) s

/-- VSUB_FP (R112). -/
def execVsubFp (o : VOp) (s : State) : Outcome State Fault Refusal := runAct (vecAct (.vsubFp o) 0x31 1 o) s

/-- VMUL_FP (R112). -/
def execVmulFp (o : VOp) (s : State) : Outcome State Fault Refusal := runAct (vecAct (.vmulFp o) 0x31 2 o) s

/-- VDIV_FP (R112). -/
def execVdivFp (o : VOp) (s : State) : Outcome State Fault Refusal := runAct (vecAct (.vdivFp o) 0x31 3 o) s

/-- VSQRT (R112). -/
def execVsqrt (o : VOp) (s : State) : Outcome State Fault Refusal := runAct (vecAct (.vsqrt o) 0x31 4 o) s

/-- VMIN_FP (R112). -/
def execVminFp (o : VOp) (s : State) : Outcome State Fault Refusal := runAct (vecAct (.vminFp o) 0x31 5 o) s

/-- VMAX_FP (R112). -/
def execVmaxFp (o : VOp) (s : State) : Outcome State Fault Refusal := runAct (vecAct (.vmaxFp o) 0x31 6 o) s

/-- VFMA (R113). -/
def execVfma (o : VOp) (s : State) : Outcome State Fault Refusal := runAct (vecAct (.vfma o) 0x31 7 o) s

/-- VFMS (R113). -/
def execVfms (o : VOp) (s : State) : Outcome State Fault Refusal := runAct (vecAct (.vfms o) 0x31 8 o) s

/-- VFNMA (R113). -/
def execVfnma (o : VOp) (s : State) : Outcome State Fault Refusal := runAct (vecAct (.vfnma o) 0x31 9 o) s

/-- VRSQRTE (R115). -/
def execVrsqrte (o : VOp) (s : State) : Outcome State Fault Refusal := runAct (vecAct (.vrsqrte o) 0x31 10 o) s

/-- VRCPE (R115). -/
def execVrcpe (o : VOp) (s : State) : Outcome State Fault Refusal := runAct (vecAct (.vrcpe o) 0x31 11 o) s

/-- VABS_FP (R114). -/
def execVabsFp (o : VOp) (s : State) : Outcome State Fault Refusal := runAct (vecAct (.vabsFp o) 0x31 12 o) s

/-- VNEG_FP (R114). -/
def execVnegFp (o : VOp) (s : State) : Outcome State Fault Refusal := runAct (vecAct (.vnegFp o) 0x31 13 o) s

/-- VSGNJ (R114). -/
def execVsgnj (o : VOp) (s : State) : Outcome State Fault Refusal := runAct (vecAct (.vsgnj o) 0x31 14 o) s

/-- VCLASS (R114). -/
def execVclass (o : VOp) (s : State) : Outcome State Fault Refusal := runAct (vecAct (.vclass o) 0x31 15 o) s

/-- VROUND (R114). -/
def execVround (o : VOp) (s : State) : Outcome State Fault Refusal := runAct (vecAct (.vround o) 0x31 16 o) s

/-- VEQ (R117). -/
def execVeq (o : VOp) (s : State) : Outcome State Fault Refusal := runAct (vecAct (.veq o) 0x32 0 o) s

/-- VNE (R117). -/
def execVne (o : VOp) (s : State) : Outcome State Fault Refusal := runAct (vecAct (.vne o) 0x32 1 o) s

/-- VLT (R117). -/
def execVlt (o : VOp) (s : State) : Outcome State Fault Refusal := runAct (vecAct (.vlt o) 0x32 2 o) s

/-- VLE (R117). -/
def execVle (o : VOp) (s : State) : Outcome State Fault Refusal := runAct (vecAct (.vle o) 0x32 3 o) s

/-- VGT (R117). -/
def execVgt (o : VOp) (s : State) : Outcome State Fault Refusal := runAct (vecAct (.vgt o) 0x32 4 o) s

/-- VGE (R117). -/
def execVge (o : VOp) (s : State) : Outcome State Fault Refusal := runAct (vecAct (.vge o) 0x32 5 o) s

/-- VLT_N (R117). -/
def execVltN (o : VOp) (s : State) : Outcome State Fault Refusal := runAct (vecAct (.vltN o) 0x32 6 o) s

/-- VLE_N (R117). -/
def execVleN (o : VOp) (s : State) : Outcome State Fault Refusal := runAct (vecAct (.vleN o) 0x32 7 o) s

/-- VGT_N (R117). -/
def execVgtN (o : VOp) (s : State) : Outcome State Fault Refusal := runAct (vecAct (.vgtN o) 0x32 8 o) s

/-- VGE_N (R117). -/
def execVgeN (o : VOp) (s : State) : Outcome State Fault Refusal := runAct (vecAct (.vgeN o) 0x32 9 o) s

/-- VNZ (R117). -/
def execVnz (o : VOp) (s : State) : Outcome State Fault Refusal := runAct (vecAct (.vnz o) 0x32 10 o) s

/-- VNAN (R117). -/
def execVnan (o : VOp) (s : State) : Outcome State Fault Refusal := runAct (vecAct (.vnan o) 0x32 11 o) s

/-- VCVT (R119). -/
def execVcvt (o : VOp) (s : State) : Outcome State Fault Refusal := runAct (vecAct (.vcvt o) 0x33 0 o) s

/-- VCVT_SAT (R119). -/
def execVcvtSat (o : VOp) (s : State) : Outcome State Fault Refusal := runAct (vecAct (.vcvtSat o) 0x33 1 o) s

/-- VRETAG (R122). -/
def execVretag (o : VOp) (s : State) : Outcome State Fault Refusal := runAct (vecAct (.vretag o) 0x33 2 o) s

/-- VQUANT (R121). -/
def execVquant (o : VOp) (s : State) : Outcome State Fault Refusal := runAct (vecAct (.vquant o) 0x33 3 o) s

/-- VREDSUM_ORD (R138). -/
def execVredsumOrd (o : VOp) (s : State) : Outcome State Fault Refusal := runAct (vecAct (.vredsumOrd o) 0x34 0 o) s

/-- VREDSUM_TREE (R138). -/
def execVredsumTree (o : VOp) (s : State) : Outcome State Fault Refusal := runAct (vecAct (.vredsumTree o) 0x34 1 o) s

/-- VREDMAX (R138). -/
def execVredmax (o : VOp) (s : State) : Outcome State Fault Refusal := runAct (vecAct (.vredmax o) 0x34 2 o) s

/-- VREDMIN (R138). -/
def execVredmin (o : VOp) (s : State) : Outcome State Fault Refusal := runAct (vecAct (.vredmin o) 0x34 3 o) s

/-- VREDAND (R138). -/
def execVredand (o : VOp) (s : State) : Outcome State Fault Refusal := runAct (vecAct (.vredand o) 0x34 4 o) s

/-- VREDOR (R138). -/
def execVredor (o : VOp) (s : State) : Outcome State Fault Refusal := runAct (vecAct (.vredor o) 0x34 5 o) s

/-- VREDXOR (R138). -/
def execVredxor (o : VOp) (s : State) : Outcome State Fault Refusal := runAct (vecAct (.vredxor o) 0x34 6 o) s

/-- VSLIDEUP (R132). -/
def execVslideup (o : VOp) (s : State) : Outcome State Fault Refusal := runAct (vecAct (.vslideup o) 0x35 0 o) s

/-- VSLIDEDOWN (R132). -/
def execVslidedown (o : VOp) (s : State) : Outcome State Fault Refusal := runAct (vecAct (.vslidedown o) 0x35 1 o) s

/-- VSLIDE1UP (R132). -/
def execVslide1up (o : VOp) (s : State) : Outcome State Fault Refusal := runAct (vecAct (.vslide1up o) 0x35 2 o) s

/-- VSLIDE1DOWN (R132). -/
def execVslide1down (o : VOp) (s : State) : Outcome State Fault Refusal := runAct (vecAct (.vslide1down o) 0x35 3 o) s

/-- VGATHER (R133). -/
def execVgather (o : VOp) (s : State) : Outcome State Fault Refusal := runAct (vecAct (.vgather o) 0x35 4 o) s

/-- VCOMPRESS (R134). -/
def execVcompress (o : VOp) (s : State) : Outcome State Fault Refusal := runAct (vecAct (.vcompress o) 0x35 5 o) s

/-- VEXPAND (R135). -/
def execVexpand (o : VOp) (s : State) : Outcome State Fault Refusal := runAct (vecAct (.vexpand o) 0x35 6 o) s

/-- VREV (R136). -/
def execVrev (o : VOp) (s : State) : Outcome State Fault Refusal := runAct (vecAct (.vrev o) 0x35 7 o) s

/-- KAND (R128). -/
def execKand (o : VOp) (s : State) : Outcome State Fault Refusal := runAct (vecAct (.kand o) 0x36 0 o) s

/-- KOR (R128). -/
def execKor (o : VOp) (s : State) : Outcome State Fault Refusal := runAct (vecAct (.kor o) 0x36 1 o) s

/-- KXOR (R128). -/
def execKxor (o : VOp) (s : State) : Outcome State Fault Refusal := runAct (vecAct (.kxor o) 0x36 2 o) s

/-- KNOT (R128). -/
def execKnot (o : VOp) (s : State) : Outcome State Fault Refusal := runAct (vecAct (.knot o) 0x36 3 o) s

/-- KANDN (R128). -/
def execKandn (o : VOp) (s : State) : Outcome State Fault Refusal := runAct (vecAct (.kandn o) 0x36 4 o) s

/-- KBRKB (R129). -/
def execKbrkb (o : VOp) (s : State) : Outcome State Fault Refusal := runAct (vecAct (.kbrkb o) 0x36 5 o) s

/-- KBRKA (R129). -/
def execKbrka (o : VOp) (s : State) : Outcome State Fault Refusal := runAct (vecAct (.kbrka o) 0x36 6 o) s

/-- KBRKF (R129). -/
def execKbrkf (o : VOp) (s : State) : Outcome State Fault Refusal := runAct (vecAct (.kbrkf o) 0x36 7 o) s

/-- KFIRST (R130). -/
def execKfirst (o : VOp) (s : State) : Outcome State Fault Refusal := runAct (vecAct (.kfirst o) 0x36 8 o) s

/-- KCOUNT (R130). -/
def execKcount (o : VOp) (s : State) : Outcome State Fault Refusal := runAct (vecAct (.kcount o) 0x36 9 o) s

/-- KIOTA (R131). -/
def execKiota (o : VOp) (s : State) : Outcome State Fault Refusal := runAct (vecAct (.kiota o) 0x36 10 o) s

/-- VID (R131). -/
def execVid (o : VOp) (s : State) : Outcome State Fault Refusal := runAct (vecAct (.vid o) 0x36 11 o) s

/-- VMV (R137). -/
def execVmv (o : VOp) (s : State) : Outcome State Fault Refusal := runAct (vecAct (.vmv o) 0x37 0 o) s

/-- VSPLAT (R137). -/
def execVsplat (o : VOp) (s : State) : Outcome State Fault Refusal := runAct (vecAct (.vsplat o) 0x37 1 o) s

/-- VSPLATI (R137). -/
def execVsplati (o : VOp) (s : State) : Outcome State Fault Refusal := runAct (vecAct (.vsplati o) 0x37 2 o) s

/-- VMVXS (R137). -/
def execVmvxs (o : VOp) (s : State) : Outcome State Fault Refusal := runAct (vecAct (.vmvxs o) 0x37 3 o) s

/-- VMVSX (R137). -/
def execVmvsx (o : VOp) (s : State) : Outcome State Fault Refusal := runAct (vecAct (.vmvsx o) 0x37 4 o) s

/-- VMERGE (R137). -/
def execVmerge (o : VOp) (s : State) : Outcome State Fault Refusal := runAct (vecAct (.vmerge o) 0x37 5 o) s

/-- VEXTRACT (R137). -/
def execVextract (o : VOp) (s : State) : Outcome State Fault Refusal := runAct (vecAct (.vextract o) 0x37 6 o) s

/-- VLADD (R124). -/
def execVladd (o : VOp) (s : State) : Outcome State Fault Refusal := runAct (vecAct (.vladd o) 0x38 0 o) s

/-- VLSUB (R124). -/
def execVlsub (o : VOp) (s : State) : Outcome State Fault Refusal := runAct (vecAct (.vlsub o) 0x38 1 o) s

/-- VLPOW (R125). -/
def execVlpow (o : VOp) (s : State) : Outcome State Fault Refusal := runAct (vecAct (.vlpow o) 0x38 2 o) s

/-- VLRECIP (R126). -/
def execVlrecip (o : VOp) (s : State) : Outcome State Fault Refusal := runAct (vecAct (.vlrecip o) 0x38 3 o) s

/-- VLD (R159). -/
def execVld (o : VMOp) (s : State) : Outcome State Fault Refusal := runAct (postLoad (.vld o) 0 o) s

/-- VLDS (R159). -/
def execVlds (o : VMOp) (s : State) : Outcome State Fault Refusal := runAct (postLoad (.vlds o) 1 o) s

/-- VLDX (R159). -/
def execVldx (o : VMOp) (s : State) : Outcome State Fault Refusal := runAct (postLoad (.vldx o) 2 o) s

/-- VLDXO (R159). -/
def execVldxo (o : VMOp) (s : State) : Outcome State Fault Refusal := runAct (postLoad (.vldxo o) 3 o) s

/-- VLDC (R164). -/
def execVldc (o : VMOp) (s : State) : Outcome State Fault Refusal := runAct (postLoad (.vldc o) 4 o) s

/-- VST (R160). -/
def execVst (o : VMOp) (s : State) : Outcome State Fault Refusal := runAct (postStore (.vst o) 0 o) s

/-- VSTS (R160). -/
def execVsts (o : VMOp) (s : State) : Outcome State Fault Refusal := runAct (postStore (.vsts o) 1 o) s

/-- VSTX (R160). -/
def execVstx (o : VMOp) (s : State) : Outcome State Fault Refusal := runAct (postStore (.vstx o) 2 o) s

/-- VSTXO (R160). -/
def execVstxo (o : VMOp) (s : State) : Outcome State Fault Refusal := runAct (postStore (.vstxo o) 3 o) s

/-- VSTC (R164). -/
def execVstc (o : VMOp) (s : State) : Outcome State Fault Refusal := runAct (postStore (.vstc o) 4 o) s

/-- VAMO_ADD (R168). -/
def execVamoAdd (m : BitVec 3) (o : VMOp) (s : State) : Outcome State Fault Refusal := runAct (postVamo (.vamoAdd m o) m.toNat o) s

/-- VAMO_MIN (R168). -/
def execVamoMin (m : BitVec 3) (o : VMOp) (s : State) : Outcome State Fault Refusal := runAct (postVamo (.vamoMin m o) m.toNat o) s

/-- VAMO_MAX (R168). -/
def execVamoMax (m : BitVec 3) (o : VMOp) (s : State) : Outcome State Fault Refusal := runAct (postVamo (.vamoMax m o) m.toNat o) s

/-- VAMO_MIN_N (R168). -/
def execVamoMinN (m : BitVec 3) (o : VMOp) (s : State) : Outcome State Fault Refusal := runAct (postVamo (.vamoMinN m o) m.toNat o) s

/-- VAMO_MAX_N (R168). -/
def execVamoMaxN (m : BitVec 3) (o : VMOp) (s : State) : Outcome State Fault Refusal := runAct (postVamo (.vamoMaxN m o) m.toNat o) s

/-- VAMO_AND (R168). -/
def execVamoAnd (m : BitVec 3) (o : VMOp) (s : State) : Outcome State Fault Refusal := runAct (postVamo (.vamoAnd m o) m.toNat o) s

/-- VAMO_OR (R168). -/
def execVamoOr (m : BitVec 3) (o : VMOp) (s : State) : Outcome State Fault Refusal := runAct (postVamo (.vamoOr m o) m.toNat o) s

/-- VAMO_XOR (R168). -/
def execVamoXor (m : BitVec 3) (o : VMOp) (s : State) : Outcome State Fault Refusal := runAct (postVamo (.vamoXor m o) m.toNat o) s

/-- VAMO_SWAP (R168). -/
def execVamoSwap (m : BitVec 3) (o : VMOp) (s : State) : Outcome State Fault Refusal := runAct (postVamo (.vamoSwap m o) m.toNat o) s

/-- VAMO_FADD (R168). -/
def execVamoFadd (m : BitVec 3) (o : VMOp) (s : State) : Outcome State Fault Refusal := runAct (postVamo (.vamoFadd m o) m.toNat o) s

/-- TMMA (R188, R192). -/
def execTmma (o : MXOp) (s : State) : Outcome State Fault Refusal := runAct (tileAct (postMX (.tmma o) o)) s

/-- TMMS (R190, R192). -/
def execTmms (o : MXOp) (s : State) : Outcome State Fault Refusal := runAct (tileAct (postMX (.tmms o) o)) s

/-- VOPA (R193). -/
def execVopa (o : VOp) (s : State) : Outcome State Fault Refusal := runAct (tileAct (postVopa (.vopa o) o)) s

/-- TZERO (R194). -/
def execTzero (z : BitVec 3) (s : State) : Outcome State Fault Refusal := runAct (tileAct (postTzero (.tzero z) z)) s

/-- TMOVR (R194). -/
def execTmovr (vd : VReg) (z : BitVec 3) (r : XReg) (s : State) : Outcome State Fault Refusal :=
  runAct (tileAct (postTmovr (.tmovr vd z r) vd z r)) s

/-- TMVR (R194). -/
def execTmvr (z : BitVec 3) (vs : VReg) (r : XReg) (s : State) : Outcome State Fault Refusal :=
  runAct (tileAct (postTmvr (.tmvr z vs r) z vs r)) s

/-- TLD (R196, R198): after `tld.ff` the front end holds everything until its row count is written. -/
def execTld (o : TMOp) (s : State) : Outcome State Fault Refusal :=
  runAct (tileAct (postTld (.tld o) o)) s

/-- TST (R197). -/
def execTst (o : TMOp) (s : State) : Outcome State Fault Refusal := runAct (tileAct (postTst (.tst o) o)) s

/-- FRUN (R239). -/
def execFrun (d n : XReg) (s : State) : Outcome State Fault Refusal := runAct (postRun (.frun d n) d n) s

/-- FCFG (R234). -/
def execFcfg (a : XReg) (s : State) : Outcome State Fault Refusal := runAct (configure (s.getX a)) s

/-- FCFG_RELEASE (R234). -/
def execFcfgRelease (s : State) : Outcome State Fault Refusal := runAct releaseFabric s

/-- SOPEN (R248): ILL for the length comes before ALIGN (R60). -/
def execSopen (c : BitVec 2) (base len : XReg) (k64 : Bool) (s : State) : Outcome State Fault Refusal :=
  runAct (do
    cursorCheck [c]
    let s ← get
    if 2 ^ 31 ≤ (s.getX len).toNat then illegal else pure ()
    needAlign (s.getX base) (if k64 then 8 else 4)
    let u : Cursor := { base := s.getX base, len := (s.getX len).toNat, pos := 0, isOpen := true, k64 := k64, win := [] }
    set { s with th := s.th.setCursor c u }
    advanceAct) s

/-- SCLOSE (R248). -/
def execSclose (c : BitVec 2) (s : State) : Outcome State Fault Refusal :=
  runAct (do
    cursorCheck [c]
    modify fun s => { s with th := s.th.setCursor c { s.th.cursor c with isOpen := false } }
    advanceAct) s

/-- The cursor passes every key below x[s1] (R249); the fuel bounds the keys left. -/
def seekOn (c : BitVec 2) (target : Nat) : Nat → Act Unit
  | 0 => pure ()
  | n + 1 => do
    let u := (← get).th.cursor c
    if u.len ≤ u.pos then pure ()
    else
      match ← readKey c with
      | .silent => awaitAccess
      | .fault f a => trapWith f a
      | .key k =>
        gotAccess
        if k < target then
          passKey c
          seekOn c target n
        else pure ()

/-- SSEEK (R249). -/
def execSseek (d : XReg) (c : BitVec 2) (key : XReg) (s : State) : Outcome State Fault Refusal :=
  runAct (do
    cursorCheck [c]
    let s ← get
    let u := s.th.cursor c
    if u.isOpen then pure () else illegal
    seekOn c (s.getX key).toNat (u.len - u.pos + 1)
    let s1 ← get
    retX d (BitVec.ofNat 64 (s1.th.cursor c).pos)) s

/-- SMATCH (R250). -/
def execSmatch (d : XReg) (va vb : VReg) (ca cb : BitVec 2) (s : State) : Outcome State Fault Refusal :=
  runAct (tileAct (postMatch (.smatch d va vb ca cb) va vb ca cb)) s

/-- TWAIT (R101): every earlier tile instruction of the thread is finished. -/
def execTwait (s : State) : Outcome State Fault Refusal :=
  runAct (do
    notOnCore
    needWindow
    if (← get).th.window.any fun e => !e.complete && isTileInstr e.instr then endWith .wait else pure ()
    modify State.drainOwn
    advanceAct) s

/-- FWAIT (R101): the thread's last run has completed. -/
def execFwait (s : State) : Outcome State Fault Refusal :=
  runAct (do
    notOnCore
    needFeature 0
    needWindow
    if (← get).fabric.runs.any fun r => r.tid = s.th.tid then endWith .wait else pure ()
    advanceAct) s

end Sys2Proof.Machine
end

