-- ==== Sys2Proof/Machine/Dispatch.lean ====
section
/-! DEFINITION. The dispatcher: one arm for each constructor of Instr. -/

namespace Sys2Proof.Machine

open Host (Outcome)

/-- The meaning of an instruction or step. -/
def exec (i : Instr) (s : State) : Host.Outcome State Fault Refusal :=
  match i with
  | .udf t f => Sys2Proof.Machine.execUdf t f s
  | .add d a b => Sys2Proof.Machine.execAdd d a b s
  | .sub d a b => Sys2Proof.Machine.execSub d a b s
  | .and d a b => Sys2Proof.Machine.execAnd d a b s
  | .or d a b => Sys2Proof.Machine.execOr d a b s
  | .xor d a b => Sys2Proof.Machine.execXor d a b s
  | .sll d a b => Sys2Proof.Machine.execSll d a b s
  | .srl d a b => Sys2Proof.Machine.execSrl d a b s
  | .sra d a b => Sys2Proof.Machine.execSra d a b s
  | .slt d a b => Sys2Proof.Machine.execSlt d a b s
  | .sltN d a b => Sys2Proof.Machine.execSltN d a b s
  | .mul d a b => Sys2Proof.Machine.execMul d a b s
  | .mulh d a b => Sys2Proof.Machine.execMulh d a b s
  | .mulhN d a b => Sys2Proof.Machine.execMulhN d a b s
  | .div d a b => Sys2Proof.Machine.execDiv d a b s
  | .divN d a b => Sys2Proof.Machine.execDivN d a b s
  | .rem d a b => Sys2Proof.Machine.execRem d a b s
  | .remN d a b => Sys2Proof.Machine.execRemN d a b s
  | .min d a b => Sys2Proof.Machine.execMin d a b s
  | .max d a b => Sys2Proof.Machine.execMax d a b s
  | .minN d a b => Sys2Proof.Machine.execMinN d a b s
  | .maxN d a b => Sys2Proof.Machine.execMaxN d a b s
  | .andn d a b => Sys2Proof.Machine.execAndn d a b s
  | .orn d a b => Sys2Proof.Machine.execOrn d a b s
  | .clz d a => Sys2Proof.Machine.execClz d a s
  | .ctz d a => Sys2Proof.Machine.execCtz d a s
  | .cpop d a => Sys2Proof.Machine.execCpop d a s
  | .sext8 d a => Sys2Proof.Machine.execSext8 d a s
  | .sext16 d a => Sys2Proof.Machine.execSext16 d a s
  | .sext32 d a => Sys2Proof.Machine.execSext32 d a s
  | .zext32 d a => Sys2Proof.Machine.execZext32 d a s
  | .addi d a imm => Sys2Proof.Machine.execAddi d a imm s
  | .andi d a imm => Sys2Proof.Machine.execAndi d a imm s
  | .ori d a imm => Sys2Proof.Machine.execOri d a imm s
  | .xori d a imm => Sys2Proof.Machine.execXori d a imm s
  | .slli d a imm => Sys2Proof.Machine.execSlli d a imm s
  | .srli d a imm => Sys2Proof.Machine.execSrli d a imm s
  | .srai d a imm => Sys2Proof.Machine.execSrai d a imm s
  | .slti d a imm => Sys2Proof.Machine.execSlti d a imm s
  | .li d imm => Sys2Proof.Machine.execLi d imm s
  | .adr d imm => Sys2Proof.Machine.execAdr d imm s
  | .jal l off => Sys2Proof.Machine.execJal l off s
  | .jalr l a off => Sys2Proof.Machine.execJalr l a off s
  | .beq a b off => Sys2Proof.Machine.execBeq a b off s
  | .bne a b off => Sys2Proof.Machine.execBne a b off s
  | .blt a b off => Sys2Proof.Machine.execBlt a b off s
  | .bge a b off => Sys2Proof.Machine.execBge a b off s
  | .bltN a b off => Sys2Proof.Machine.execBltN a b off s
  | .bgeN a b off => Sys2Proof.Machine.execBgeN a b off s
  | .strip c o => Sys2Proof.Machine.execStrip c o s
  | .setvl d a vt => Sys2Proof.Machine.execSetvl d a vt s
  | .claim d req c => Sys2Proof.Machine.execClaim d req c s
  | .crd d n => Sys2Proof.Machine.execCrd d n s
  | .cwr n a => Sys2Proof.Machine.execCwr n a s
  | .trap code => Sys2Proof.Machine.execTrap code s
  | .tlbinvPage a => Sys2Proof.Machine.execTlbinvPage a s
  | .tlbinvCtx a => Sys2Proof.Machine.execTlbinvCtx a s
  | .vsave a => Sys2Proof.Machine.execVsave a s
  | .vrest a => Sys2Proof.Machine.execVrest a s
  | .ld d b off ty acq => Sys2Proof.Machine.execLd d b off ty acq s
  | .st v b off ty rel => Sys2Proof.Machine.execSt v b off ty rel s
  | .amoSwap d a b o => Sys2Proof.Machine.execAmoSwap d a b o s
  | .amoAdd d a b o => Sys2Proof.Machine.execAmoAdd d a b o s
  | .amoAnd d a b o => Sys2Proof.Machine.execAmoAnd d a b o s
  | .amoOr d a b o => Sys2Proof.Machine.execAmoOr d a b o s
  | .amoXor d a b o => Sys2Proof.Machine.execAmoXor d a b o s
  | .amoMin d a b o => Sys2Proof.Machine.execAmoMin d a b o s
  | .amoMax d a b o => Sys2Proof.Machine.execAmoMax d a b o s
  | .amoMinN d a b o => Sys2Proof.Machine.execAmoMinN d a b o s
  | .amoMaxN d a b o => Sys2Proof.Machine.execAmoMaxN d a b o s
  | .amoCas d a e n o => Sys2Proof.Machine.execAmoCas d a e n o s
  | .bind obj base len sc => Sys2Proof.Machine.execBind obj base len sc s
  | .unbind obj sc => Sys2Proof.Machine.execUnbind obj sc s
  | .acq d obj min sc => Sys2Proof.Machine.execAcq d obj min sc s
  | .rel obj sc => Sys2Proof.Machine.execRel obj sc s
  | .fence sc => Sys2Proof.Machine.execFence sc s
  | .fadd d a b t => Sys2Proof.Machine.execFadd d a b t s
  | .fsub d a b t => Sys2Proof.Machine.execFsub d a b t s
  | .fmul d a b t => Sys2Proof.Machine.execFmul d a b t s
  | .fdiv d a b t => Sys2Proof.Machine.execFdiv d a b t s
  | .fsqrt d a t => Sys2Proof.Machine.execFsqrt d a t s
  | .fmin d a b t => Sys2Proof.Machine.execFmin d a b t s
  | .fmax d a b t => Sys2Proof.Machine.execFmax d a b t s
  | .fma d a b c t => Sys2Proof.Machine.execFma d a b c t s
  | .fcvt d a t => Sys2Proof.Machine.execFcvt d a t s
  | .fcmpEq d a b t => Sys2Proof.Machine.execFcmpEq d a b t s
  | .fcmpLt d a b t => Sys2Proof.Machine.execFcmpLt d a b t s
  | .fcmpLe d a b t => Sys2Proof.Machine.execFcmpLe d a b t s
  | .fclass d a t => Sys2Proof.Machine.execFclass d a t s
  | .larm l t => Sys2Proof.Machine.execLarm l t s
  | .lwait d l g => Sys2Proof.Machine.execLwait d l g s
  | .lread d l => Sys2Proof.Machine.execLread d l s
  | .linit l g => Sys2Proof.Machine.execLinit l g s
  | .cpy d p l => Sys2Proof.Machine.execCpy d p l s
  | .cpy2d d p l => Sys2Proof.Machine.execCpy2d d p l s
  | .sxfer d p l => Sys2Proof.Machine.execSxfer d p l s
  | .mdec d p l => Sys2Proof.Machine.execMdec d p l s
  | .nxfer d p l => Sys2Proof.Machine.execNxfer d p l s
  | .lpost d p q => Sys2Proof.Machine.execLpost d p q s
  | .glaunch d g => Sys2Proof.Machine.execGlaunch d g s
  | .gwait d g gen => Sys2Proof.Machine.execGwait d g gen s
  | .getid d => Sys2Proof.Machine.execGetid d s
  | .fcfg a => Sys2Proof.Machine.execFcfg a s
  | .frun d n => Sys2Proof.Machine.execFrun d n s
  | .sopen c base len k64 => Sys2Proof.Machine.execSopen c base len k64 s
  | .smatch d va vb ca cb => Sys2Proof.Machine.execSmatch d va vb ca cb s
  | .sseek d c key => Sys2Proof.Machine.execSseek d c key s
  | .sclose c => Sys2Proof.Machine.execSclose c s
  | .vaddInt o => Sys2Proof.Machine.execVaddInt o s
  | .vsubInt o => Sys2Proof.Machine.execVsubInt o s
  | .vmulInt o => Sys2Proof.Machine.execVmulInt o s
  | .vmulh o => Sys2Proof.Machine.execVmulh o s
  | .vmulhN o => Sys2Proof.Machine.execVmulhN o s
  | .vdivInt o => Sys2Proof.Machine.execVdivInt o s
  | .vdivN o => Sys2Proof.Machine.execVdivN o s
  | .vrem o => Sys2Proof.Machine.execVrem o s
  | .vremN o => Sys2Proof.Machine.execVremN o s
  | .vminInt o => Sys2Proof.Machine.execVminInt o s
  | .vminN o => Sys2Proof.Machine.execVminN o s
  | .vmaxInt o => Sys2Proof.Machine.execVmaxInt o s
  | .vmaxN o => Sys2Proof.Machine.execVmaxN o s
  | .vand o => Sys2Proof.Machine.execVand o s
  | .vor o => Sys2Proof.Machine.execVor o s
  | .vxor o => Sys2Proof.Machine.execVxor o s
  | .vsll o => Sys2Proof.Machine.execVsll o s
  | .vsrl o => Sys2Proof.Machine.execVsrl o s
  | .vsra o => Sys2Proof.Machine.execVsra o s
  | .vaddsat o => Sys2Proof.Machine.execVaddsat o s
  | .vaddsatN o => Sys2Proof.Machine.execVaddsatN o s
  | .vsubsat o => Sys2Proof.Machine.execVsubsat o s
  | .vsubsatN o => Sys2Proof.Machine.execVsubsatN o s
  | .vabsInt o => Sys2Proof.Machine.execVabsInt o s
  | .vnegInt o => Sys2Proof.Machine.execVnegInt o s
  | .vmacc o => Sys2Proof.Machine.execVmacc o s
  | .vclz o => Sys2Proof.Machine.execVclz o s
  | .vcpop o => Sys2Proof.Machine.execVcpop o s
  | .vaddFp o => Sys2Proof.Machine.execVaddFp o s
  | .vsubFp o => Sys2Proof.Machine.execVsubFp o s
  | .vmulFp o => Sys2Proof.Machine.execVmulFp o s
  | .vdivFp o => Sys2Proof.Machine.execVdivFp o s
  | .vsqrt o => Sys2Proof.Machine.execVsqrt o s
  | .vminFp o => Sys2Proof.Machine.execVminFp o s
  | .vmaxFp o => Sys2Proof.Machine.execVmaxFp o s
  | .vfma o => Sys2Proof.Machine.execVfma o s
  | .vfms o => Sys2Proof.Machine.execVfms o s
  | .vfnma o => Sys2Proof.Machine.execVfnma o s
  | .vrsqrte o => Sys2Proof.Machine.execVrsqrte o s
  | .vrcpe o => Sys2Proof.Machine.execVrcpe o s
  | .vabsFp o => Sys2Proof.Machine.execVabsFp o s
  | .vnegFp o => Sys2Proof.Machine.execVnegFp o s
  | .vsgnj o => Sys2Proof.Machine.execVsgnj o s
  | .vclass o => Sys2Proof.Machine.execVclass o s
  | .vround o => Sys2Proof.Machine.execVround o s
  | .veq o => Sys2Proof.Machine.execVeq o s
  | .vne o => Sys2Proof.Machine.execVne o s
  | .vlt o => Sys2Proof.Machine.execVlt o s
  | .vle o => Sys2Proof.Machine.execVle o s
  | .vgt o => Sys2Proof.Machine.execVgt o s
  | .vge o => Sys2Proof.Machine.execVge o s
  | .vltN o => Sys2Proof.Machine.execVltN o s
  | .vleN o => Sys2Proof.Machine.execVleN o s
  | .vgtN o => Sys2Proof.Machine.execVgtN o s
  | .vgeN o => Sys2Proof.Machine.execVgeN o s
  | .vnz o => Sys2Proof.Machine.execVnz o s
  | .vnan o => Sys2Proof.Machine.execVnan o s
  | .vcvt o => Sys2Proof.Machine.execVcvt o s
  | .vcvtSat o => Sys2Proof.Machine.execVcvtSat o s
  | .vretag o => Sys2Proof.Machine.execVretag o s
  | .vquant o => Sys2Proof.Machine.execVquant o s
  | .vredsumOrd o => Sys2Proof.Machine.execVredsumOrd o s
  | .vredsumTree o => Sys2Proof.Machine.execVredsumTree o s
  | .vredmax o => Sys2Proof.Machine.execVredmax o s
  | .vredmin o => Sys2Proof.Machine.execVredmin o s
  | .vredand o => Sys2Proof.Machine.execVredand o s
  | .vredor o => Sys2Proof.Machine.execVredor o s
  | .vredxor o => Sys2Proof.Machine.execVredxor o s
  | .vslideup o => Sys2Proof.Machine.execVslideup o s
  | .vslidedown o => Sys2Proof.Machine.execVslidedown o s
  | .vslide1up o => Sys2Proof.Machine.execVslide1up o s
  | .vslide1down o => Sys2Proof.Machine.execVslide1down o s
  | .vgather o => Sys2Proof.Machine.execVgather o s
  | .vcompress o => Sys2Proof.Machine.execVcompress o s
  | .vexpand o => Sys2Proof.Machine.execVexpand o s
  | .vrev o => Sys2Proof.Machine.execVrev o s
  | .kand o => Sys2Proof.Machine.execKand o s
  | .kor o => Sys2Proof.Machine.execKor o s
  | .kxor o => Sys2Proof.Machine.execKxor o s
  | .knot o => Sys2Proof.Machine.execKnot o s
  | .kandn o => Sys2Proof.Machine.execKandn o s
  | .kbrkb o => Sys2Proof.Machine.execKbrkb o s
  | .kbrka o => Sys2Proof.Machine.execKbrka o s
  | .kbrkf o => Sys2Proof.Machine.execKbrkf o s
  | .kfirst o => Sys2Proof.Machine.execKfirst o s
  | .kcount o => Sys2Proof.Machine.execKcount o s
  | .kiota o => Sys2Proof.Machine.execKiota o s
  | .vid o => Sys2Proof.Machine.execVid o s
  | .vmv o => Sys2Proof.Machine.execVmv o s
  | .vsplat o => Sys2Proof.Machine.execVsplat o s
  | .vsplati o => Sys2Proof.Machine.execVsplati o s
  | .vmvxs o => Sys2Proof.Machine.execVmvxs o s
  | .vmvsx o => Sys2Proof.Machine.execVmvsx o s
  | .vmerge o => Sys2Proof.Machine.execVmerge o s
  | .vextract o => Sys2Proof.Machine.execVextract o s
  | .vladd o => Sys2Proof.Machine.execVladd o s
  | .vlsub o => Sys2Proof.Machine.execVlsub o s
  | .vlpow o => Sys2Proof.Machine.execVlpow o s
  | .vlrecip o => Sys2Proof.Machine.execVlrecip o s
  | .vld o => Sys2Proof.Machine.execVld o s
  | .vlds o => Sys2Proof.Machine.execVlds o s
  | .vldx o => Sys2Proof.Machine.execVldx o s
  | .vldxo o => Sys2Proof.Machine.execVldxo o s
  | .vldc o => Sys2Proof.Machine.execVldc o s
  | .vst o => Sys2Proof.Machine.execVst o s
  | .vsts o => Sys2Proof.Machine.execVsts o s
  | .vstx o => Sys2Proof.Machine.execVstx o s
  | .vstxo o => Sys2Proof.Machine.execVstxo o s
  | .vstc o => Sys2Proof.Machine.execVstc o s
  | .vamoAdd mode o => Sys2Proof.Machine.execVamoAdd mode o s
  | .vamoMin mode o => Sys2Proof.Machine.execVamoMin mode o s
  | .vamoMax mode o => Sys2Proof.Machine.execVamoMax mode o s
  | .vamoMinN mode o => Sys2Proof.Machine.execVamoMinN mode o s
  | .vamoMaxN mode o => Sys2Proof.Machine.execVamoMaxN mode o s
  | .vamoAnd mode o => Sys2Proof.Machine.execVamoAnd mode o s
  | .vamoOr mode o => Sys2Proof.Machine.execVamoOr mode o s
  | .vamoXor mode o => Sys2Proof.Machine.execVamoXor mode o s
  | .vamoSwap mode o => Sys2Proof.Machine.execVamoSwap mode o s
  | .vamoFadd mode o => Sys2Proof.Machine.execVamoFadd mode o s
  | .tmma o => Sys2Proof.Machine.execTmma o s
  | .tmms o => Sys2Proof.Machine.execTmms o s
  | .vopa o => Sys2Proof.Machine.execVopa o s
  | .tzero z => Sys2Proof.Machine.execTzero z s
  | .tmovr vd z r => Sys2Proof.Machine.execTmovr vd z r s
  | .tmvr z vs r => Sys2Proof.Machine.execTmvr z vs r s
  | .tld o => Sys2Proof.Machine.execTld o s
  | .tst o => Sys2Proof.Machine.execTst o s
  | .reservedEncoding head tail => Sys2Proof.Machine.execReservedEncoding head tail s
  | .elementFire tid seq elem u => Sys2Proof.Machine.execElementFire tid seq elem u s
  | .tileStep tid seq u => Sys2Proof.Machine.execTileStep tid seq u s
  | .writeAppliedAtHome src k => Sys2Proof.Machine.execWriteAppliedAtHome src k s
  | .transferComplete xfer inp => Sys2Proof.Machine.execTransferComplete xfer inp s
  | .graphInstanceStart gen node => Sys2Proof.Machine.execGraphInstanceStart gen node s
  | .graphGenerationFinish gen => Sys2Proof.Machine.execGraphGenerationFinish gen s
  | .ganderCheck tid seq elem mismatch => Sys2Proof.Machine.execGanderCheck tid seq elem mismatch s
  | .hallQuiesce hall => Sys2Proof.Machine.execHallQuiesce hall s
  | .ztileDrop tile z => Sys2Proof.Machine.execZtileDrop tile z s
  | .preempt tid => Sys2Proof.Machine.execPreempt tid s
  | .preemptTimeout tid => Sys2Proof.Machine.execPreemptTimeout tid s
  | .threadResume tid => Sys2Proof.Machine.execThreadResume tid s
  | .copyDrainTimeout xfer bytes => Sys2Proof.Machine.execCopyDrainTimeout xfer bytes s
  | .landingArrival pa units => Sys2Proof.Machine.execLandingArrival pa units s
  | .fabricNodeFire hall node => Sys2Proof.Machine.execFabricNodeFire hall node s
  | .collectiveCombine hall bnd vals => Sys2Proof.Machine.execCollectiveCombine hall bnd vals s
  | .collectiveTimeout hall bnd => Sys2Proof.Machine.execCollectiveTimeout hall bnd s
  | .trainReceive t => Sys2Proof.Machine.execTrainReceive t s
  | .ackTagExpiry src tag => Sys2Proof.Machine.execAckTagExpiry src tag s
  | .idempotentRetransmit tid => Sys2Proof.Machine.execIdempotentRetransmit tid s
  | .idempotentTimeout tid => Sys2Proof.Machine.execIdempotentTimeout tid s
  | .nonidempotentRetransmit ctx serial => Sys2Proof.Machine.execNonidempotentRetransmit ctx serial s
  | .nonidempotentTimeout ctx serial => Sys2Proof.Machine.execNonidempotentTimeout ctx serial s
  | .ownerRequest dev r => Sys2Proof.Machine.execOwnerRequest dev r s
  | .ownerAckPacket dev rvid wm => Sys2Proof.Machine.execOwnerAckPacket dev rvid wm s
  | .partialTrainDiscard rvid serial => Sys2Proof.Machine.execPartialTrainDiscard rvid serial s
  | .remoteReply ctx serial r => Sys2Proof.Machine.execRemoteReply ctx serial r s
  | .watermarkReport ctx dev => Sys2Proof.Machine.execWatermarkReport ctx dev s
  | .rvidSilenceTimeout dev rvid => Sys2Proof.Machine.execRvidSilenceTimeout dev rvid s
  | .quarantineEnd dev rvid => Sys2Proof.Machine.execQuarantineEnd dev rvid s
  | .rvidRelease dev rvid => Sys2Proof.Machine.execRvidRelease dev rvid s
  | .warmReset dev => Sys2Proof.Machine.execWarmReset dev s
  | .coldRestart dev keepHbm => Sys2Proof.Machine.execColdRestart dev keepHbm s
  | .liveMigration ctxs dev => Sys2Proof.Machine.execLiveMigration ctxs dev s
  | .netRdmaWriteIn m => Sys2Proof.Machine.execNetRdmaWriteIn m s
  | .netRdmaReadIn m => Sys2Proof.Machine.execNetRdmaReadIn m s
  | .netSendIn m => Sys2Proof.Machine.execNetSendIn m s
  | .netAtomicIn m => Sys2Proof.Machine.execNetAtomicIn m s
  | .throttleUpdate watts tj => Sys2Proof.Machine.execThrottleUpdate watts tj s
  | .updreqWrite v => Sys2Proof.Machine.execUpdreqWrite v s
  | .registerWrite pa v => Sys2Proof.Machine.execRegisterWrite pa v s
  | .checkpointRestore n => Sys2Proof.Machine.execCheckpointRestore n s
  | .negotiateAlgorithms sm2 sm3 => Sys2Proof.Machine.execNegotiateAlgorithms sm2 sm3 s
  | .getCertificate slot => Sys2Proof.Machine.execGetCertificate slot s
  | .challenge slot nonce => Sys2Proof.Machine.execChallenge slot nonce s
  | .getMeasurements index => Sys2Proof.Machine.execGetMeasurements index s
  | .spdmUnsupported code => Sys2Proof.Machine.execSpdmUnsupported code s
  | .remoteAccessIn m => Sys2Proof.Machine.execRemoteAccessIn m s
  | .linkCrcRetry port past => Sys2Proof.Machine.execLinkCrcRetry port past s
  | .galleryAllocation ctx hall tile off len => Sys2Proof.Machine.execGalleryAllocation ctx hall tile off len s
  | .nop => Sys2Proof.Machine.execNop s
  | .yield => Sys2Proof.Machine.execYield s
  | .exit => Sys2Proof.Machine.execExit s
  | .eret => Sys2Proof.Machine.execEret s
  | .wfi => Sys2Proof.Machine.execWfi s
  | .fenceI => Sys2Proof.Machine.execFenceI s
  | .twait => Sys2Proof.Machine.execTwait s
  | .fwait => Sys2Proof.Machine.execFwait s
  | .tlbinvAll => Sys2Proof.Machine.execTlbinvAll s
  | .fcfgRelease => Sys2Proof.Machine.execFcfgRelease s
  | .threadStart => Sys2Proof.Machine.execThreadStart s
  | .thermalShutdown => Sys2Proof.Machine.execThermalShutdown s
  | .boot => Sys2Proof.Machine.execBoot s
  | .bootComplete => Sys2Proof.Machine.execBootComplete s
  | .updreqRead => Sys2Proof.Machine.execUpdreqRead s
  | .hbeat => Sys2Proof.Machine.execHbeat s
  | .updateHeartbeatTimeout => Sys2Proof.Machine.execUpdateHeartbeatTimeout s
  | .checkpoint => Sys2Proof.Machine.execCheckpoint s
  | .getVersion => Sys2Proof.Machine.execGetVersion s
  | .getCapabilities => Sys2Proof.Machine.execGetCapabilities s
  | .getDigests => Sys2Proof.Machine.execGetDigests s
  | .powerFailure => Sys2Proof.Machine.execPowerFailure s

end Sys2Proof.Machine
end

