-- ==== Sys2Proof/Machine/Turn.lean ====
section
/-! DEFINITION. What the next turn of the machine is: an event, an agent's instruction, an entry into a line, an interrupt
(spec/16 R276), or the next agent. -/

namespace Sys2Proof.Machine

open Host (Outcome)

/-- The next turn: already done, or an instruction to execute on a state. -/
inductive Turned where
  | done (o : Outcome State Fault Refusal)
  | run (i : Instr) (s : State)

/-- ASYNC on a Benzia core with `ie` = 1: the record leaves the pending list and the trap is taken between instructions
(R275, R276). -/
def State.takeAsync (s : State) (record : Word) : State :=
  let s1 := { s with th := { s.th with irq := s.th.irq.drop 1 } }
  s1.trap cASYNC record

/-- An interrupt is due for the agent, which is between instructions: no scalar operation awaits its reply (R276, R310). -/
def Thread.asyncDue (t : Thread) : Option Word := if t.isCore && t.tregs.ie && !t.carrying then t.irq.head? else none

/-- The instruction at the pc (R57): an encoding that is not assigned stands for itself. -/
def Thread.fetched (t : Thread) : Instr :=
  match decode t.code with
  | .ok i => i
  | .error _ => .reservedEncoding t.code.head t.code.tail

/-- An entry for which REMIND is due: returning atomics completed as indeterminate (R309). -/
def Thread.remindDue (t : Thread) : Option Entry :=
  if t.frozen || t.carrying then none else t.window.find? fun e => e.indet != [] && !e.told

/-- REMIND at the boundary (R309): `trapval` is the address of the lowest indeterminate element; what awaited this delivery is
resolved. The trains formed go out at the freeze, once the trap is taken (R221). -/
def State.takeRemind (s : State) (e : Entry) : State :=
  let a := match vamoKey e.instr, e.indet with
    | some (_, mode, o), u :: _ => (vmAddr s.th e mode o u).getD 0
    | _, _ => 0
  let s1 := { s with th := s.th.modEntry e.post fun x => { x with told := true } }
  ((s1.delivered s1.th fun o => o.post == e.post).trapElem cREMIND (s1.th.wentOf e.post) a).sendAllFormed

/-- The fabric comes back to a resumed thread, or the thread waits in its line (R243). -/
def State.awaitFabric (s : State) (v : FabSave) : State :=
  match s.retakeFabric s.th v with
  | some s1 => s1
  | none => { s.queueFabric s.th with stalled := true }

/-- A turn of the agent whose turn it is. -/
def threadTurn (s : State) : Turned :=
  match s.th.asyncDue with
  | some r => .done (.next (s.takeAsync r))
  | none =>
    match s.th.remindDue with
    | some e =>
      if s.collectiveBusy s.th.tid || s.th.unchecked != [] then .done (.next { s with stalled := true })
      else .done (.next (s.takeRemind e))
    | none =>
      match s.th.fabPend with
      | some v => .done (.next (s.awaitFabric v))
      | none =>
        if s.th.stripC.isSome then .done (.next s.atStripYield)
        else if s.th.frontHeld then .done (.next { s with stalled := true })
        else if s.th.entering then .done (enterLine s)
        else match loadBefore s s.th.fetched with
          | some k => .done (runAct (performLoad k) s)
          | none => .run s.th.fetched s

/-- Another agent that can run has the turn; the agenda stays empty. With none, the state stays as it is. -/
def State.rotate (s : State) : State :=
  match s.others.find? fun t => t.run = .running with
  | some t => { s.select t.tid with stalled := false }
  | none => { s with stalled := false }

/-! ### What goes on by itself while the agent whose turn it is waits (log entry 4) -/

/-- The window of a thread fires what has become ready; a window that starts no work, what is in flight (R276, R310). -/
def State.autoWindow (s : State) (t : Thread) : Option (Outcome State Fault Refusal) :=
  if !(s.policy.fire && t.part.isSome && (t.works || t.window.any fun e => e.sent != [])) then none
  else
    let s0 := s.turnTo t.tid
    let moved : Bool := match settlePasses 65536 s0 with
      | .ok (b, s1) => b || s1.th.window.map (·.sent) != s0.th.window.map (·.sent)
      | .error _ => true
    if moved then some (actOn t.tid settleWindow s) else none

/-- A load that has been committed is performed. -/
def State.autoLoad (s : State) (t : Thread) : Option (Outcome State Fault Refusal) :=
  if t.loads != [] && t.run == .running then some (actOn t.tid (performLoad 0) s) else none

/-- A check that is under way passes. -/
def State.autoCheck (s : State) (t : Thread) : Option (Outcome State Fault Refusal) :=
  if !s.policy.fire then none
  else match t.unchecked with
    | [] => none
    | (p, u) :: _ => match t.entry p with
      | some e => some (execGanderCheck t.tid e.seq.toNat u false s)
      | none => none

/-- A copy, or a network operation that can only fail, completes. -/
def State.autoXfer (s : State) (x : Xfer) : Option (Outcome State Fault Refusal) :=
  match execTransferComplete x.id .plain s with
  | .next s' => if s'.xfers.length < s.xfers.length then some (.next s') else none
  | _ => none

/-- The scheduler serves a contender or asks a thread to give way. -/
def State.autoStart (s : State) : Option (Outcome State Fault Refusal) :=
  if s.sched.paused then none
  else
    let s1 := s.askVictim
    if s1.winner.isSome || s1.closeQueues.sched.paused || (s1.threads.map (·.pendPre)) != s.threads.map (·.pendPre) then some (execThreadStart s) else none

/-- A node of a graph enters the pool, or a generation ends. -/
def State.autoGraph (s : State) (g : Gen) : Option (Outcome State Fault Refusal) :=
  let s0 := s.skipFailed
  match s0.gen g.id with
  | none => none
  | some z =>
    match (List.range z.nodes.length).find? fun n => z.state n == .waiting && s0.eligible z n && decide (s0.sched.pool.length < 4096) with
    | some n => some (execGraphInstanceStart g.id n s)
    | none =>
      match execGraphGenerationFinish g.id s with
      | .next s' => if s'.sched.gens.length < s.sched.gens.length then some (.next s') else none
      | _ => none

/-- A suspended thread for which there is room resumes. -/
def State.autoResume (s : State) (t : Thread) : Option (Outcome State Fault Refusal) :=
  match t.place with
  | some (h, i) => if t.suspended && (s.comeback t h i).isSome then some (execThreadResume t.tid s) else none
  | none => none

/-- A request whose owner answers now is sent again. -/
def State.autoSerial (s : State) (c : Ctx) : Option (Outcome State Fault Refusal) :=
  (c.out.find? fun (o : OutSerial) => o.st = .awaiting && !c.frozen && (match (s.ask o.dev { o.req with wm := c.serialack }).2 with
    | some .nackBusy => false
    | some _ => true
    | none => false)).map fun o => .next (s.sendSerial c.ctxid o.serial)

/-- The next step that the machine takes by itself. -/
def autoEvent (s : State) : Option (Outcome State Fault Refusal) :=
  (s.threads.findSome? s.autoLoad).orElse fun _ =>
  (s.threads.findSome? s.autoWindow).orElse fun _ =>
  (s.threads.findSome? s.autoCheck).orElse fun _ =>
  (s.xfers.findSome? s.autoXfer).orElse fun _ =>
  (s.threads.findSome? s.autoResume).orElse fun _ =>
  s.autoStart.orElse fun _ =>
  (s.sched.gens.findSome? s.autoGraph).orElse fun _ =>
  s.ctxs.findSome? s.autoSerial

/-! ### Inputs (log entry 68) -/

/-- A 32-byte unit is uncorrectable until a write covers it (R341). -/
def State.loseUnit (s : State) (pa : Nat) : State :=
  if s.badUnit.contains (pa / 32) then s else { s with badUnit := s.badUnit ++ [pa / 32] }

/-- What an input does. -/
def runInput (x : Input) (s : State) : Outcome State Fault Refusal := match x with
  | .memoryError pa lost => .next ((if lost then s.loseUnit pa else s).memError pa lost)
  | .coreError tid twice => .next (s.coreError tid twice)
  | .parityRead tid u => .next (s.parityRead tid u)
  | .peerUp dev up => .next { s with peers := s.peers.map fun p => if p.id = dev then { p with up := up } else p }
  | .recoveryWrite b x => .next (s.recoveryWrite b x)
  | .endLaunch id => .next (s.endLaunch id)
  | .performLoad tid k => actOn tid (performLoad k) s
  | .moveBytes id n => .next (s.moveSome id n)
  | .migrateIn p => .next (s.migrateIn p)
  | .handedOver c => .next (s.handedOver c)
  | .rasCore n => .next { s with ras := { s.ras with core := n } }

/-- The turn the state decides (log entry 3). -/
def turn (s : State) : Turned :=
  match s.agenda with
  | .event i :: r => .run i { s with agenda := r }
  | .input x :: r => .done (runInput x { s with agenda := r })
  | .thread tid :: r => .done (.next { { s with agenda := r }.select tid with stalled := false })
  | [] =>
    if s.power ≠ .on then .done (.fault .noPower)
    else if s.stalled || s.th.run ≠ .running then .done ((autoEvent s).getD (.next s.rotate))
    else threadTurn s

/-- The outcome of an executed instruction, with what follows at once under the policy. -/
def afterExec (o : Outcome State Fault Refusal) : Outcome State Fault Refusal :=
  match o with
  | .next s => settle s
  | .fault f => .fault f
  | .refused r => .refused r

/-- A window that a trap has frozen sends what it has formed (R221, R276). -/
def State.sendFrozen (s : State) : State :=
  (s.threads.filter fun t => t.frozen && t.window.any fun e => e.formed != []).foldl (fun s t => s.onThread t.tid State.sendAllFormed) s

/-- Records that wait at the port are written as soon as their ring has room (R314). -/
def State.flushAll (s : State) : State := (s.ctxs.filter fun c => c.records != []).foldl (fun s c => s.flushRecords c.ctxid) s

/-- What follows a turn: a frozen window's formed elements go out, waiting records are written, and what an uncorrectable unit
ends stops (R221, R314, R342). -/
def State.afterStep (s : State) : State := s.sendFrozen.flushAll.abortDue.scrubStopped

/-- The outcome of a turn. -/
def afterTurn (o : Outcome State Fault Refusal) : Outcome State Fault Refusal :=
  match o with
  | .next s => .next s.afterStep
  | .fault f => .fault f
  | .refused r => .refused r

end Sys2Proof.Machine
end

