-- ==== Sys2Proof/Machine/Step.lean ====
section
/-! DEFINITION. One step of the machine, and the placing of an instruction where the next step fetches it. -/

namespace Sys2Proof.Machine

open Host (Outcome)

/-- One step: the next turn's event, entry, interrupt or instruction. -/
def step (s : State) : Outcome State Fault Refusal :=
  afterTurn (match turn s with
    | .done o => o
    | .run i s' => afterExec (exec i s'))

/-- `s` with the instruction whose bits are `w` placed where the next step fetches (log entry 5). -/
def State.withFetchWord (s : State) (nbits w : Nat) : State := s.placeInstr (wordBytes nbits w)

end Sys2Proof.Machine
end

