-- ==== Sys2Proof/Safety.lean ====
section
/-! DEFINITION. What counts as a legal state, and the words the statements use: when an agent is at rest, what a frame keeps, and how
memory is read. -/

namespace Sys2Proof.Safety

open Sys2Proof.Machine
open Host (Outcome)

/-! ### Legal states -/

/-- Level 2 is reserved, and a tile thread is never at M (R273). -/
def levelLegal (t : Thread) : Bool := t.pl != 2 && (t.isCore || t.pl != 3)

/-- Every memory keeps its canonical form: this device's, each other device's, and each checkpoint's. -/
def memoryLegal (s : State) : Bool :=
  s.mem.wf && (s.peers.all fun p => p.mem.wf) && (s.svc.ckpts.all fun c => c.mem.wf)

/-- The keys of a map rise strictly. -/
def keysRise {α : Type} : Sparse α → Bool
  | [] => true
  | [_] => true
  | (k, _) :: (k', v) :: r => decide (k < k') && keysRise ((k', v) :: r)

/-- Memory is in its canonical form, and the halls are listed in order. -/
def mapsLegal (s : State) : Prop := memoryLegal s = true ∧ keysRise s.halls = true

/-! ### Instructions -/

/-- The machine answers an instruction with the next state `t`. -/
def runs (i : Instr) (s t : State) : Prop := exec i s = .next t

/-- The state after a register is written and control has passed to the next head (R77). -/
def written (s : State) (d : XReg) (v : Word) : State := (s.setX d v).advance

/-- The state after a floating-point instruction: flags are ORed in, the result is written zero-extended, and control has passed
to the next head (R25, R96). -/
def fpWritten (s : State) (d : XReg) (r : Nat × FFlags) : State := written (s.orFlags r.2 0) d (BitVec.ofNat 64 r.1)

/-- The value of a register's low bits in the format that `aux8` names (R96, R97). -/
def fpVal (s : State) (t : BitVec 8) (r : XReg) : FVal := unpack (fpFmt t) (s.fpArg t r)

/-- A trap can be taken at once: no collective run of the thread and no check is under way (R241, R338). -/
def trapReady (s : State) : Prop := s.collectiveBusy s.th.tid = false ∧ s.th.unchecked = []

/-- The instruction at the pc traps: nothing of it is committed (R275, R276). -/
def traps (i : Instr) (s : State) (cause : Byte) (val : Word) : Prop := exec i s = .next (s.trap cause val)

/-- The agent has nothing under way: no instruction in its window, none pre-empted with its partition, no check, no wait, no numbered
request of its own. -/
def idle (s : State) : Prop :=
  s.th.window = [] ∧ s.th.windowAway = false ∧ s.th.unchecked = [] ∧ s.th.await = none ∧ s.openSerials true = false

/-- The agent's earlier accesses may be ordered (R216, R218): no numbered request of its own is open, nothing in its window must be
waited for and nothing is formed, and its window has not been given away. -/
def quiet (s : State) : Prop :=
  s.openSerials true = false ∧ (∀ e ∈ s.th.window, e.mustDrain s.th.frozen = false ∧ e.formed = []) ∧ s.th.windowAway = false

/-- The agent's own queued writes are at home, where `r` asks for it (R216). -/
def released (r : Bool) (s : State) : State := if r then s.drainOwn else s

/-- An address of the agent translates to memory of this device (R275, R277). -/
def located (s : State) (va : Word) (acc : Access) (pa : Nat) (e : Option TlbEnt) : Prop :=
  s.locate va acc = .ok (.here pa, e) ∧ paKind pa ≠ .reg

/-- The instruction takes the fault of an address: a trap with the address, or DABORT, which ends the context (R90, R275, R341). -/
def faults (i : Instr) (s : State) (cause : Byte) (va : Word) : Prop :=
  exec i s = .next (if cause = cDABORT then s.abortTold s.th.ctx else s.trap cause va)

/-- No queued write meets an uncorrectable unit in part, so that each one reaches its home (R208, R341). -/
def queuesWhole (s : State) : Prop :=
  (∀ x ∈ s.tiles, ∀ w ∈ x.2.stores, s.partlyBad w.pa w.bytes.length = false) ∧
  ∀ x ∈ s.halls, ∀ w ∈ x.2.buffer, s.partlyBad w.pa w.bytes.length = false

/-- `n` bytes as the agent reads them (R208), as a number, least significant byte first. -/
def wordAt (s : State) (pa n : Nat) : Nat := leNat (s.readBytes s.th.place pa n)

/-- A byte as the agent whose turn it is reads it (R208). -/
def byteAt (s : State) (pa : Nat) : Byte := s.readByte s.th.place pa

/-- The landing word at a physical address, as the agent reads it (R149). -/
def landing (s : State) (pa : Nat) : LWord := lwOf (s.readBytes s.th.place pa 16)

/-- A signed reading of the low `w` bits. -/
def signedOf (w v : Nat) : Int := if v % 2 ^ w < 2 ^ (w - 1) then (v % 2 ^ w : Nat) else (v % 2 ^ w : Nat) - 2 ^ w

/-- Sign extension of a 32-bit value, or a 64-bit value as it stands (R94). -/
def sext (w v : Nat) : Word := if w = 32 then (BitVec.ofNat 32 v).signExtend 64 else BitVec.ofNat 64 v

/-- Every page of a save area from `base` on translates to memory of this device (R90, R281). -/
def areaHere (s : State) (base : Word) (acc : Access) : Prop :=
  ∀ k ∈ areaPages base, ∃ pa e, s.locate (areaPage base k) acc = .ok (.here pa, e)

/-- A save area of a context lies at `pb` in memory of this device, and its translation does not stand in the area itself: it is the same
whatever the area holds. -/
def areaStands (s : State) (c : BitVec 32) (base : Word) (pb : Nat) : Prop :=
  ∀ (m : Memory) (f : Nat), (∀ a, ¬(pb ≤ a ∧ a < pb + areaSize) → memByte m a = memByte s.mem a) → ∀ off < areaSize,
    ∀ acc ∈ [Access.read, .write], ({ s with mem := m, fresh := f } : State).paOf c 1 (base + BitVec.ofNat 64 off) acc = some (pb + off)

/-- The state in which an access is made: its translation is cached (R280). -/
def reached (s : State) (e : Option TlbEnt) : State := s.cacheTlb s.th.hall? e

/-- The prefetched lines are gone (R91). -/
def acquired (s : State) : State := { s with th := { s.th with prefetched := [] } }

/-- The block length of a vtype (R36, R86). -/
def vblock (vt : BitVec 8) : Nat :=
  let et := (vt.extractLsb' 0 4).toNat
  let blk := (vt.extractLsb' 4 3).toNat
  if blk = 0 then (if 10 ≤ et ∧ et ≤ 12 then 16 else 1) else 2 ^ (blk + 3)

/-- `lim` elements rounded down to whole blocks, or `lim` where it is less than one (R86). -/
def wholeBlocks (lim blen : Nat) : Nat := if lim < blen then lim else lim - lim % blen

/-- The agent has the next turn, and no interrupt, fabric or yield point comes before its program (log entry 3). -/
def onTurn (s : State) : Prop :=
  s.agenda = [] ∧ s.power = .on ∧ s.stalled = false ∧ s.th.run = .running ∧ s.th.asyncDue = none ∧ s.th.remindDue = none ∧
  s.th.fabPend = none ∧ s.th.stripC = none ∧ s.th.frontHeld = false

/-- The instruction at the pc has the next turn. -/
def fetching (s : State) : Prop := onTurn s ∧ s.th.entering = false

/-! ### Posting (R59, R64, R65, R67, R73, R74, R140, R276) -/

/-- The thread as a post finds it: versions that may close are closed, and finished entries have left the window. -/
def atPost (s : State) : Thread := s.th.retire

/-- A vector, mask or tile instruction that writes these registers may be posted, and no earlier one waits for a version. -/
def postable (s : State) (vw : List VReg) (kw : List KReg) : Prop :=
  s.th.isCore = false ∧ s.th.frozen = false ∧ s.th.trimPending = false ∧ s.th.grant ≠ 0 ∧ s.th.vowner = s.th.selfOwner ∧ s.lender = none ∧
  (atPost s).window.length < 32 ∧ (∀ e ∈ (atPost s).window, e.held = none ∧ e.post ≤ s.th.posts) ∧
  (∀ r ∈ vw, (atPost s).twoOpenV (s.th.posts + 1) r = false) ∧ ∀ k ∈ kw, (atPost s).twoOpenK (s.th.posts + 1) k = false

/-- The sources carry the tags they must (R70): for a pair, both registers. -/
def tagged (s : State) (l : List (VReg × TagReq × Bool)) : Prop :=
  ∀ p ∈ l, p.2.1.ok (s.th.tagOf p.1) = true ∧ (p.2.2 = true → p.2.1.ok (s.th.tagOf (p.1 + 1)) = true)

/-- The entry `e` stands at the end of the window, and is counted; of the agent only the window, the counts, the partition and where
control stands have changed (R73, R336). -/
def postedAs (e : Entry) (s t : State) : Prop :=
  t.th = { atPost s with
    window := (atPost s).window ++ [e], seqn := s.th.seqn + 1, posts := s.th.posts + 1,
    part := t.th.part, pc := t.th.pc, entering := t.th.entering, cameFrom := t.th.cameFrom }

/-- The instruction at the pc stands at the end of the window with its snapshots, its versions open and the units listed done. -/
def posted (i : Instr) (s t : State) (xs : List Word) (done : List Nat) : Prop :=
  postedAs { s.th.newEntry i xs with done := done, held := none } s t

/-- v registers other than those listed are as the post found them, and the listed ones have a new version (R65, R69). -/
def opensV (s t : State) (regs : List VReg) (tag : EType) (absent zeroed : List Nat) : Prop :=
  ∀ r, t.th.partOr.vreg r = if r ∈ regs then ((atPost s).partOr.vreg r).openBy (s.th.posts + 1) tag absent zeroed else (atPost s).partOr.vreg r

/-- The same for mask registers. -/
def opensK (s t : State) (regs : List KReg) (absent zeroed : List Nat) : Prop :=
  ∀ r, t.th.partOr.kreg r = if r ∈ regs then ((atPost s).partOr.kreg r).openBy (s.th.posts + 1) absent zeroed else (atPost s).partOr.kreg r

/-- Elements below `n` whose mask bit is known to be false when the instruction is posted. -/
def offAtPost (s : State) (k : KReg) (n : Nat) : List Nat := (List.range n).filter fun e => (atPost s).kElem (s.th.posts + 1) k e = some false

/-- The elements below `n` that are not listed. -/
def others (n : Nat) (but : List Nat) : List Nat := (List.range n).filter fun e => e ∉ but

/-! ### Frames -/

/-- Only what a scalar instruction may change of its agent has changed: the x registers and where control stands. -/
def scalarOnly (s t : State) : Prop :=
  t.th = { s.th with x := t.th.x, pc := t.th.pc, entering := t.th.entering, cameFrom := t.th.cameFrom }

/-- Every x register but those listed keeps its value. -/
def keepsX (s t : State) (but : List XReg) : Prop := ∀ r, r ∉ but → t.getX r = s.getX r

/-- Control stands at the next head (R47). -/
def passed (s t : State) : Prop := t.th.pc = s.th.nextPc

/-- Of the agent only the x registers, where control stands and the prefetched lines have changed. -/
def accessOnly (s t : State) : Prop :=
  t.th = { s.th with
    x := t.th.x, pc := t.th.pc, entering := t.th.entering, cameFrom := t.th.cameFrom, prefetched := t.th.prefetched }

/-- Every byte of memory but `n` from `pa` on reads as before. -/
def keepsBytes (s t : State) (pa n : Nat) : Prop := ∀ a, ¬(pa ≤ a ∧ a < pa + n) → byteAt t a = byteAt s a

/-- Every byte of memory but `n` from `pa` on reads as before, and but the bytes of the landing words at `ws`, which a plain store or
atomic leaves open (R149); where there are none, exactly the `n` bytes may change. -/
def keepsBut (s t : State) (pa n : Nat) (ws : List Nat) : Prop :=
  ∀ a, ¬(pa ≤ a ∧ a < pa + n) → (∀ w ∈ ws, ¬(w ≤ a ∧ a < w + 16)) → byteAt t a = byteAt s a

/-! ### Firing an element -/

/-- The entry `e`, posted as number `p`, stands under the sequence number `q` in a window that works, and no entry waits for a version. -/
def inWindow (s : State) (q p : Nat) (e : Entry) : Prop :=
  s.th.works = true ∧ s.th.seqPost q = some p ∧ s.th.entry p = some e ∧ (∀ x ∈ s.th.window, x.held = none) ∧ e.complete = false

/-- Element `u` of the entry is still to come, and nothing holds its destination (R67). -/
def canFire (s : State) (q p u : Nat) (e : Entry) : Prop :=
  inWindow s q p e ∧ u < e.vl ∧ e.isDone u = false ∧ s.th.held? e u = false

/-- The same of an active element of a format V instruction (R65). -/
def active (s : State) (q p u : Nat) (e : Entry) (o : VOp) : Prop := canFire s q p u e ∧ s.th.kElem p o.k u = some true

/-- The newest versions of the destination, a pair for a 64-bit type, are the instruction's (R62, R66). -/
def intoV (s : State) (p : Nat) (r : VReg) (et : EType) : Prop :=
  ∀ v ∈ pairOf r (is64 et), (s.th.partOr.vreg v).new.writer = p ∧ keysRise (s.th.partOr.vreg v).new.data = true

/-- The newest version of a mask destination is the instruction's. -/
def intoK (s : State) (p : Nat) (o : VOp) : Prop :=
  (s.th.partOr.kreg (o.vd.setWidth 3)).new.writer = p ∧ keysRise (s.th.partOr.kreg (o.vd.setWidth 3)).new.bits = true

/-- The element's first source is `a`, and its second one, where it has one (R106), is `b`. -/
def sources (s : State) (p u a b : Nat) (e : Entry) (o : VOp) : Prop :=
  s.th.vElem p o.vs1 o.et u = some a ∧
  ∀ ma mi, vkey e.instr = some (ma, mi, o) → (vSpec ma mi).src2 = .none ∨ s.th.second e ma mi o o.et u = some b

/-- An active element `u` of the format V instruction that the sequence number `q` names, posted as number `p`, is ready: its sources
are `a` and `b`, and nothing holds its destination (R62, R66, R67). -/
def ready (s : State) (q p u : Nat) (e : Entry) (o : VOp) (a b : Nat) : Prop :=
  active s q p u e o ∧ intoV s p o.vd o.et ∧ sources s p u a b e o

/-- The same of an integer type. -/
def firing (s : State) (q p u : Nat) (e : Entry) (o : VOp) (a b : Nat) : Prop := isIntT o.et = true ∧ ready s q p u e o a b

/-- Element `u` of register `r` holds `v`, whose upper word of a 64-bit type stands in the pair's odd register (R62). -/
def holds (t : State) (r : VReg) (et : EType) (u v : Nat) : Prop :=
  (t.th.partOr.vreg r).new.elem u = some (BitVec.ofNat 32 v) ∧
  (is64 et = true → (t.th.partOr.vreg (r + 1)).new.elem u = some (BitVec.ofNat 32 (v / 2 ^ 32)))

/-- Of the machine only the agent has changed, and none of its x registers. -/
def windowOnly (s t : State) : Prop := keepsX s t [] ∧ t = { s with th := t.th }

/-- The flags of an element have been ORed in (R25, R29). -/
def flagged (s t : State) (f : FFlags) (l : LFlags) : Prop := t.th.fcsr = s.th.fcsr ||| f.setWidth 7 ∧ t.th.lsat = s.th.lsat ||| l

/-- The step completes, element `u` of the instruction's destination has received `v`, and no x register, no memory and nothing outside the
agent has changed (R62, R107). -/
def receives (s : State) (i : Instr) (o : VOp) (u v : Nat) : Prop := ∃ t, runs i s t ∧ holds t o.vd o.et u v ∧ windowOnly s t

/-- The same, with the flags that the element raises. -/
def receivesWith (s : State) (i : Instr) (o : VOp) (u v : Nat) (f : FFlags) (l : LFlags) : Prop :=
  ∃ t, runs i s t ∧ holds t o.vd o.et u v ∧ flagged s t f l ∧ windowOnly s t

/-- The same of a bit of a mask destination (R116). -/
def receivesBit (s : State) (i : Instr) (o : VOp) (u : Nat) (b : Bool) (f : FFlags) : Prop :=
  ∃ t, runs i s t ∧ (t.th.partOr.kreg (o.vd.setWidth 3)).new.elem u = some b ∧ flagged s t f 0 ∧ windowOnly s t

/-- A part of `n` bytes at an address lies at `pa` in memory of this device: an element is aligned, a block in one page (R158, R195). -/
def partHere (s : State) (bx : Bool) (acc : Access) (a : Word) (n pa : Nat) : Prop :=
  (∀ i < n, paKind (pa + i) ≠ .reg) ∧ s.touchesBad pa n = false ∧
  (if bx then blockLocs s a n acc = .ok [(.here pa, n)] else a.toNat % n = 0 ∧ ∃ c, s.locate a acc = .ok (.here pa, c))

/-- It is the turn of the tile instruction `e` in its tile's queue, and no check holds it (R187, R337). -/
def tileTurn (s : State) (q p : Nat) (e : Entry) : Prop :=
  inWindow s q p e ∧ s.th.place.isSome = true ∧ s.queueBlocks { tid := s.th.tid, post := p } e.instr (s.cleanQueue s.myTile) = false ∧
  s.th.awaitsCheck 64 e none = false ∧ ∀ n, zRead e.instr e.prog = some n → (s.myTile.zAt n).dropped = false

/-! ### Transfers -/

/-- A transfer that may complete, issued at M, where its addresses are taken as physical (DESIGN CHOICE, log entry 11): its block, its landing
word and the listed ranges lie apart in HBM, and no unit is uncorrectable. -/
def atM (s : State) (x : Xfer) (l : List (Nat × Nat)) : Prop :=
  s.mem.wf = true ∧ s.badUnit = [] ∧ (s.xfers.find? fun y => y.id = x.id) = some x ∧ (s.ctx x.ctx).any (·.frozen) = false ∧
  s.mustWaitFor x = false ∧ x.pl = 3 ∧ x.node = none ∧ x.sent = 0 ∧
  (let all := (x.block.toNat, blockSize x.kind) :: (x.lword.toNat, 16) :: l
   (∀ r ∈ all, r.1 + r.2 ≤ 0x006000000000) ∧ all.Pairwise fun a b => a.1 + a.2 ≤ b.1 ∨ b.1 + b.2 ≤ a.1)

/-- It has ended: `status` and `result` stand in its block, its units have arrived, and it has left the queue (R173). -/
def endedAs (s t : State) (x : Xfer) (status result : Nat) : Prop :=
  leNat (memRead t.mem (x.block.toNat + statusOffset x.kind) 4) = status ∧
  leNat (memRead t.mem (x.block.toNat + resultOffset x.kind) 8) = result ∧
  lwOf (memRead t.mem x.lword.toNat 16) = lwArrive (lwOf (memRead s.mem x.lword.toNat 16)) x.units ∧
  (∀ y ∈ t.xfers, y.id ≠ x.id) ∧ t.th = s.th

end Sys2Proof.Safety
end

