-- ==== Sys2Proof/Certificates/Slice0/Obligations.lean ====
section
/-! DEFINITION. The statements for the provers, from the numbered rules of spec/. -/

open Sys2Proof Sys2Proof.Machine Sys2Proof.Safety

/-! ### Scalar integer instructions and control transfer (spec/05) -/

/-- R79: the operations on two registers whose result is a wrapping, bitwise, shift, comparison or selection value.

R79, R18: products as exact integers, narrowed to 64 bits.

R79: `clz`, `ctz` and `cpop` by what their result says about the bits of the source.

R79, R80: extensions and the operations with an immediate.

R81, R82: a constant, and an address relative to the `adr` head.

R19: integer division never traps. A divisor of 0 gives all ones and leaves the dividend as the remainder; the most negative
dividend over −1 gives itself and 0; else the quotient is rounded toward zero. So for the scalar instructions and for an active element
of the vector ones, signed and unsigned, of every width and with every form of the second source. -/
def Obligations.IntegerResults : Prop :=
  (∀ (d a b : XReg) (s : State),
     let x := s.getX a
     let y := s.getX b
     runs (.add d a b) s (written s d (x + y)) ∧
     runs (.sub d a b) s (written s d (x - y)) ∧
     runs (.and d a b) s (written s d (x &&& y)) ∧
     runs (.or d a b) s (written s d (x ||| y)) ∧
     runs (.xor d a b) s (written s d (x ^^^ y)) ∧
     runs (.sll d a b) s (written s d (x <<< (y &&& 63).toNat)) ∧
     runs (.srl d a b) s (written s d (x >>> (y &&& 63).toNat)) ∧
     runs (.sra d a b) s (written s d (x.sshiftRight (y &&& 63).toNat)) ∧
     runs (.slt d a b) s (written s d (if x.toInt < y.toInt then 1 else 0)) ∧
     runs (.sltN d a b) s (written s d (if x.toNat < y.toNat then 1 else 0)) ∧
     runs (.min d a b) s (written s d (if x.toInt < y.toInt then x else y)) ∧
     runs (.max d a b) s (written s d (if x.toInt < y.toInt then y else x)) ∧
     runs (.minN d a b) s (written s d (if x.toNat < y.toNat then x else y)) ∧
     runs (.maxN d a b) s (written s d (if x.toNat < y.toNat then y else x)) ∧
     runs (.andn d a b) s (written s d (x &&& ~~~y)) ∧
     runs (.orn d a b) s (written s d (x ||| ~~~y))) ∧
  (∀ (d a b : XReg) (s : State),
     let x := s.getX a
     let y := s.getX b
     runs (.mul d a b) s (written s d (BitVec.ofInt 64 (x.toInt * y.toInt))) ∧
     runs (.mulh d a b) s (written s d (BitVec.ofInt 64 (x.toInt * y.toInt / 2 ^ 64))) ∧
     runs (.mulhN d a b) s (written s d (BitVec.ofNat 64 (x.toNat * y.toNat / 2 ^ 64)))) ∧
  (∀ (d a : XReg) (s : State),
     let x := s.getX a
     (∃ n : Nat, runs (.clz d a) s (written s d (BitVec.ofNat 64 n)) ∧ n ≤ 64 ∧ (∀ k, 64 - n ≤ k → x.getLsbD k = false) ∧
       (n < 64 → x.getLsbD (63 - n) = true)) ∧
     (∃ n : Nat, runs (.ctz d a) s (written s d (BitVec.ofNat 64 n)) ∧ n ≤ 64 ∧ (∀ k, k < n → x.getLsbD k = false) ∧
       (n < 64 → x.getLsbD n = true)) ∧
     runs (.cpop d a) s (written s d (BitVec.ofNat 64 ((List.range 64).filter fun k => x.getLsbD k).length))) ∧
  (∀ (d a : XReg) (i : BitVec 24) (s : State),
     let x := s.getX a
     runs (.sext8 d a) s (written s d ((x.setWidth 8).signExtend 64)) ∧
     runs (.sext16 d a) s (written s d ((x.setWidth 16).signExtend 64)) ∧
     runs (.sext32 d a) s (written s d ((x.setWidth 32).signExtend 64)) ∧
     runs (.zext32 d a) s (written s d ((x.setWidth 32).setWidth 64)) ∧
     runs (.addi d a i) s (written s d (x + i.signExtend 64)) ∧
     runs (.andi d a i) s (written s d (x &&& i.setWidth 64)) ∧
     runs (.ori d a i) s (written s d (x ||| i.setWidth 64)) ∧
     runs (.xori d a i) s (written s d (x ^^^ i.setWidth 64)) ∧
     runs (.slli d a i) s (written s d (x <<< (i &&& 63).toNat)) ∧
     runs (.srli d a i) s (written s d (x >>> (i &&& 63).toNat)) ∧
     runs (.srai d a i) s (written s d (x.sshiftRight (i &&& 63).toNat)) ∧
     runs (.slti d a i) s (written s d (if x.toInt < i.toInt then 1 else 0))) ∧
  (∀ (d : XReg) (imm : Word) (off : BitVec 32) (s : State),
     runs (.li d imm) s (written s d imm) ∧ runs (.adr d off) s (written s d (s.th.pc + off.signExtend 64))) ∧
  ((∀ (d a b : XReg) (s : State),
      let x := s.getX a
      let y := s.getX b
      let corner := x.toInt = -2 ^ 63 ∧ y.toInt = -1
      runs (.div d a b) s (written s d (if y = 0 then -1 else if corner then x else BitVec.ofInt 64 (x.toInt.tdiv y.toInt))) ∧
      runs (.divN d a b) s (written s d (if y = 0 then -1 else BitVec.ofNat 64 (x.toNat / y.toNat))) ∧
      runs (.rem d a b) s (written s d (if y = 0 then x else if corner then 0 else BitVec.ofInt 64 (x.toInt.tmod y.toInt))) ∧
      runs (.remN d a b) s (written s d (if y = 0 then x else BitVec.ofNat 64 (x.toNat % y.toNat)))) ∧
   (∀ (s : State) (q p u a b : Nat) (e : Entry) (o : VOp), firing s q p u e o a b →
      let w := widthOf o.et
      let x := signedOf w a
      let y := signedOf w b
      let corner := x = -2 ^ (w - 1) ∧ y = -1
      let wrap := fun (i : Int) => (i % 2 ^ w).toNat
      (e.instr = .vdivInt o → receives s (.elementFire s.th.tid q u .clean) o u
        (if b = 0 then 2 ^ w - 1 else if corner then a else wrap (x.tdiv y))) ∧
      (e.instr = .vdivN o → receives s (.elementFire s.th.tid q u .clean) o u (if b = 0 then 2 ^ w - 1 else a / b)) ∧
      (e.instr = .vrem o → receives s (.elementFire s.th.tid q u .clean) o u
        (if b = 0 then a else if corner then 0 else wrap (x.tmod y))) ∧
      (e.instr = .vremN o → receives s (.elementFire s.th.tid q u .clean) o u (if b = 0 then a else a % b))))

/-- R83, R84: jumps link to the next head and enter their target; `jalr` reads its source before it writes the link.

R85: a branch that is taken enters its target, else control passes to the next head; nothing else changes. -/
def Obligations.ControlTransfer : Prop :=
  (∀ (l a : XReg) (o : BitVec 32) (p : BitVec 24) (s : State),
     runs (.jal l o) s ((s.setX l s.th.nextPc).enter (s.th.pc + 2 * o.signExtend 64)) ∧
     runs (.jalr l a p) s ((s.setX l s.th.nextPc).enter (s.getX a + p.signExtend 64))) ∧
  (∀ (a b : XReg) (o : BitVec 17) (s : State),
     let x := s.getX a
     let y := s.getX b
     let go := fun (c : Prop) [Decidable c] => if c then s.enter (s.th.pc + 2 * o.signExtend 64) else s.advance
     runs (.beq a b o) s (go (x = y)) ∧
     runs (.bne a b o) s (go (x ≠ y)) ∧
     runs (.blt a b o) s (go (x.toInt < y.toInt)) ∧
     runs (.bge a b o) s (go (y.toInt ≤ x.toInt)) ∧
     runs (.bltN a b o) s (go (x.toNat < y.toNat)) ∧
     runs (.bgeN a b o) s (go (y.toNat ≤ x.toNat)))

/-- R79–R82: a scalar integer instruction changes no memory and nothing of its agent but one x register and where control
stands; nothing outside the agent changes (R77).

R25, R96: a scalar floating-point instruction leaves the rounding mode, never clears a flag, and changes nothing else of its
agent but x[d] and where control stands; no memory changes.

R77, R61: writing a register gives its new value to it alone, and x0 stays 0; control passes to the next head (R47). -/
def Obligations.ScalarFrame : Prop :=
  (∀ (d a b : XReg) (i : BitVec 24) (w : Word) (p : BitVec 32) (n : Instr) (s t : State),
     n ∈ [.add d a b, .sub d a b, .and d a b, .or d a b, .xor d a b, .sll d a b, .srl d a b, .sra d a b, .slt d a b, .sltN d a b,
       .mul d a b, .mulh d a b, .mulhN d a b, .div d a b, .divN d a b, .rem d a b, .remN d a b, .min d a b, .max d a b, .minN d a b,
       .maxN d a b, .andn d a b, .orn d a b, .clz d a, .ctz d a, .cpop d a, .sext8 d a, .sext16 d a, .sext32 d a, .zext32 d a,
       .addi d a i, .andi d a i, .ori d a i, .xori d a i, .slli d a i, .srli d a i, .srai d a i, .slti d a i, .li d w, .adr d p] →
     runs n s t →
       keepsX s t [d] ∧ passed s t ∧ scalarOnly s t ∧ t = { s with th := t.th } ∧ ∀ a, byteAt t a = byteAt s a) ∧
  (∀ (d a b c : XReg) (u : BitVec 8) (n : Instr) (s t : State),
     n ∈ [.fadd d a b u, .fsub d a b u, .fmul d a b u, .fdiv d a b u, .fsqrt d a u, .fmin d a b u, .fmax d a b u, .fma d a b c u,
       .fcvt d a u, .fcmpEq d a b u, .fcmpLt d a b u, .fcmpLe d a b u, .fclass d a u] →
     runs n s t →
       keepsX s t [d] ∧ passed s t ∧ t.th.frm = s.th.frm ∧ (∀ k, s.th.fcsr.getLsbD k → t.th.fcsr.getLsbD k) ∧
       t = { s with th := { s.th with
         x := t.th.x, pc := t.th.pc, entering := t.th.entering, cameFrom := t.th.cameFrom, fcsr := t.th.fcsr } } ∧
       ∀ a, byteAt t a = byteAt s a) ∧
  (∀ (s : State) (d : XReg) (v : Word),
     (∀ r, (written s d v).getX r = if r = d ∧ d ≠ 0 then v else s.getX r) ∧ (written s d v).getX 0 = 0 ∧
     passed s (written s d v) ∧ scalarOnly s (written s d v) ∧ written s d v = { s with th := (written s d v).th })

/-! ### Scalar floating point (spec/05 R96–R100) -/

/-- R96, R97: each operation completes with its result zero-extended in x[d] and its flags ORed into `fcsr`.

R21, R22, R97, R99: what operands that are no NaN give. A result that the format holds exactly is that value, with no flag; infinities and
zeros follow the rules of signs, ∞ − ∞, 0/0, ∞/∞ and the root of a negative value raise NV, a finite value over zero DZ; a sum or product of
twice the format's range is an infinity or, where the mode rounds towards zero, the largest value, with OF and NX; and finite values compare as
they stand.

R22, R23, R97: a NaN operand of an arithmetic operation gives the canonical NaN, with NV for a signalling operand.

R97: a product of infinity and zero raises NV and gives the canonical NaN, whatever the addend of `fma` is.

R99: unordered operands compare as 0; `fcmp.eq` raises NV for a signalling NaN, `fcmp.lt` and `fcmp.le` for any NaN.

R98: `fmin` and `fmax` give the lesser and the greater operand as it stands, −0 below +0; a lone NaN operand loses to the other
one and two give the canonical NaN; NV for a signalling one, and no other flag. -/
def Obligations.FloatResults : Prop :=
  (∀ (d a b c : XReg) (t : BitVec 8) (s : State),
     let f := fpFmt t
     let m := s.th.frm
     let x := s.fpArg t a
     let y := s.fpArg t b
     let rel := fun (k : Nat) => let r := fCompare f k x y; ((if r.1 then 1 else 0 : Nat), r.2)
     runs (.fadd d a b t) s (fpWritten s d (fAdd f m x y)) ∧
     runs (.fsub d a b t) s (fpWritten s d (fSub f m x y)) ∧
     runs (.fmul d a b t) s (fpWritten s d (fMul f m x y)) ∧
     runs (.fdiv d a b t) s (fpWritten s d (fDiv f m x y)) ∧
     runs (.fsqrt d a t) s (fpWritten s d (fSqrt f m x)) ∧
     runs (.fma d a b c t) s (fpWritten s d (fFma f m false false x y (s.fpArg t c))) ∧
     runs (.fcmpEq d a b t) s (fpWritten s d (rel 0)) ∧
     runs (.fcmpLt d a b t) s (fpWritten s d (rel 1)) ∧
     runs (.fcmpLe d a b t) s (fpWritten s d (rel 2)) ∧
     runs (.fclass d a t) s (fpWritten s d (fClassMask f x, 0)) ∧
     runs (.fcvt d a t) s (fpWritten s d ((fcvtValue t m (s.getX a)).1.toNat, (fcvtValue t m (s.getX a)).2))) ∧
  (∀ (d a b c : XReg) (t : BitVec 8) (s : State),
     let f := fpFmt t
     let x := fpVal s t a
     let y := fpVal s t b
     let gives := fun (i : Instr) (r : Nat) (fl : FFlags) => runs i s (fpWritten s d (r, fl))
     let value := fun (n : Bool) (m : Nat) (e lo : Int) => (if n then -1 else 1) * ((m * 2 ^ (e - lo).toNat : Nat) : Int)
     -- the pattern r is v × 2^lo, which is not zero
     let stands := fun (r : Nat) (v lo : Int) => r < 2 ^ f.width ∧ v ≠ 0 ∧
       ∃ n m e, unpack f r = .fin n m e ∧ value n m e (min e lo) = v * 2 ^ (lo - min e lo).toNat
     let beyond := fun (v lo : Int) => ∃ k : Nat, (2 : Int) ^ k ≤ v.natAbs ∧ (f.bias : Int) + 1 ≤ k + lo
     let exceeds := fun (neg : Bool) =>
       let m := s.th.frm
       if m = 0 ∨ (m = 2 ∧ neg = true) ∨ (m = 3 ∧ neg = false) then f.inf neg else f.maxFin neg
     (∀ n, x = .inf n →
       (y = .inf n → gives (.fadd d a b t) (f.inf n) 0 ∧ gives (.fsub d a b t) f.nan flNV) ∧
       (y = .inf (!n) → gives (.fadd d a b t) f.nan flNV ∧ gives (.fsub d a b t) (f.inf n) 0) ∧
       (∀ n', y = .inf n' → gives (.fmul d a b t) (f.inf (n != n')) 0 ∧ gives (.fdiv d a b t) f.nan flNV) ∧
       (∀ n' m' e', y = .fin n' m' e' → gives (.fadd d a b t) (f.inf n) 0 ∧ gives (.fsub d a b t) (f.inf n) 0 ∧
         gives (.fdiv d a b t) (f.inf (n != n')) 0 ∧ (m' ≠ 0 → gives (.fmul d a b t) (f.inf (n != n')) 0)) ∧
       gives (.fsqrt d a t) (if n then f.nan else f.inf false) (if n then flNV else 0)) ∧
     (∀ n m e, x = .fin n m e →
       (m = 0 → gives (.fsqrt d a t) (f.zero n) 0) ∧ (m ≠ 0 → n = true → gives (.fsqrt d a t) f.nan flNV) ∧
       (∀ r k q, r < 2 ^ f.width → unpack f r = .fin false k q → n = false → 0 < m → k * k * 2 ^ (2 * q - min (2 * q) e).toNat = m * 2 ^ (e - min (2 * q) e).toNat →
         gives (.fsqrt d a t) r 0) ∧
       (∀ n', y = .inf n' → gives (.fadd d a b t) (f.inf n') 0 ∧ gives (.fsub d a b t) (f.inf (!n')) 0 ∧ gives (.fdiv d a b t) (f.zero (n != n')) 0 ∧
         (m ≠ 0 → gives (.fmul d a b t) (f.inf (n != n')) 0)) ∧
       (∀ n' m' e', y = .fin n' m' e' →
         let lo := min e e'
         let u := value n m e lo
         let v := value n' m' e' lo
         let zero := fun (i : Instr) (same : Bool) => gives i (f.zero (if same then n else decide (s.th.frm = 2))) 0
         (u + v = 0 → zero (.fadd d a b t) (n == n')) ∧ (u - v = 0 → zero (.fsub d a b t) (n == !n')) ∧
         (∀ r, stands r (u + v) lo → gives (.fadd d a b t) r 0) ∧ (∀ r, stands r (u - v) lo → gives (.fsub d a b t) r 0) ∧
         (beyond (u + v) lo → gives (.fadd d a b t) (exceeds (decide (u + v < 0))) (flOF ||| flNX)) ∧
         (beyond (u - v) lo → gives (.fsub d a b t) (exceeds (decide (u - v < 0))) (flOF ||| flNX)) ∧
         (m * m' = 0 → gives (.fmul d a b t) (f.zero (n != n')) 0) ∧
         (∀ r, stands r (value n m e e * value n' m' e' e') (e + e') → gives (.fmul d a b t) r 0) ∧
         (beyond (value n m e e * value n' m' e' e') (e + e') → gives (.fmul d a b t) (exceeds (n != n')) (flOF ||| flNX)) ∧
         (m' = 0 → m ≠ 0 → gives (.fdiv d a b t) (f.inf (n != n')) flDZ) ∧ (m' = 0 → m = 0 → gives (.fdiv d a b t) f.nan flNV) ∧
         (m' ≠ 0 → m = 0 → gives (.fdiv d a b t) (f.zero (n != n')) 0) ∧
         (∀ r k q, r < 2 ^ f.width → unpack f r = .fin (n != n') k q → 0 < m → 0 < m' →
           k * m' * 2 ^ (q + e' - min (q + e') e).toNat = m * 2 ^ (e - min (q + e') e).toNat → gives (.fdiv d a b t) r 0) ∧
         (∀ r n'' m'' e'', fpVal s t c = .fin n'' m'' e'' →
           let lo3 := min (e + e') e''
           stands r (value n m e e * value n' m' e' e' * 2 ^ (e + e' - lo3).toNat + value n'' m'' e'' lo3) lo3 → gives (.fma d a b c t) r 0) ∧
         gives (.fcmpEq d a b t) (if u = v then 1 else 0) 0 ∧ gives (.fcmpLt d a b t) (if u < v then 1 else 0) 0 ∧
         gives (.fcmpLe d a b t) (if u ≤ v then 1 else 0) 0))) ∧
  (∀ (d a b : XReg) (t : BitVec 8) (s : State),
     let x := fpVal s t a
     let y := fpVal s t b
     let nan := fun (fl : FFlags) => fpWritten s d ((fpFmt t).nan, fl)
     let nv := fun (c : Bool) => if c then flNV else 0
     (x.isNan ∨ y.isNan →
       runs (.fadd d a b t) s (nan (nv (x.isSnan || y.isSnan))) ∧ runs (.fsub d a b t) s (nan (nv (x.isSnan || y.isSnan))) ∧
       runs (.fmul d a b t) s (nan (nv (x.isSnan || y.isSnan))) ∧ runs (.fdiv d a b t) s (nan (nv (x.isSnan || y.isSnan)))) ∧
     (x.isNan → runs (.fsqrt d a t) s (nan (nv x.isSnan)))) ∧
  (∀ (d a b c : XReg) (t : BitVec 8) (s : State) (n m : Bool) (e : Int),
     (fpVal s t a = .inf n ∧ fpVal s t b = .fin m 0 e) ∨ (fpVal s t a = .fin m 0 e ∧ fpVal s t b = .inf n) →
       runs (.fmul d a b t) s (fpWritten s d ((fpFmt t).nan, flNV)) ∧
       runs (.fma d a b c t) s (fpWritten s d ((fpFmt t).nan, flNV))) ∧
  (∀ (d a b : XReg) (t : BitVec 8) (s : State),
     let x := fpVal s t a
     let y := fpVal s t b
     x.isNan ∨ y.isNan →
       runs (.fcmpEq d a b t) s (fpWritten s d (0, if x.isSnan || y.isSnan then flNV else 0)) ∧
       runs (.fcmpLt d a b t) s (fpWritten s d (0, flNV)) ∧ runs (.fcmpLe d a b t) s (fpWritten s d (0, flNV))) ∧
  (∀ (d a b : XReg) (t : BitVec 8) (s : State),
     let x := fpVal s t a
     let y := fpVal s t b
     let fl : FFlags := if x.isSnan || y.isSnan then flNV else 0
     let gives := fun (lo hi : Nat) => runs (.fmin d a b t) s (fpWritten s d (lo, fl)) ∧ runs (.fmax d a b t) s (fpWritten s d (hi, fl))
     let p := s.fpArg t a
     let q := s.fpArg t b
     (x.isNan → y.isNan → gives (fpFmt t).nan (fpFmt t).nan) ∧ (x.isNan → ¬y.isNan → gives q q) ∧ (¬x.isNan → y.isNan → gives p p) ∧
     (x = .inf true → ¬y.isNan → y ≠ .inf true → gives p q) ∧ (y = .inf true → ¬x.isNan → gives q p) ∧
     (y = .inf false → ¬x.isNan → x ≠ .inf false → gives p q) ∧ (x = .inf false → ¬y.isNan → gives q p) ∧
     (∀ n m e n' m' e', x = .fin n m e → y = .fin n' m' e' →
       let lo := min e e'
       let v : Int := (if n then -1 else 1) * (m * 2 ^ (e - lo).toNat : Nat)
       let v' : Int := (if n' then -1 else 1) * (m' * 2 ^ (e' - lo).toNat : Nat)
       let less := v < v' ∨ (v = v' ∧ n = true ∧ n' = false)
       (less → gives p q) ∧ (¬less → gives q p)))

/-! ### Encodings (spec/03) -/

/-- R51–R56: words written out from the encodings decode to the instructions they stand for. -/
def Obligations.DecodeWords : Prop :=
  (decode { head := 0x1687, tail := 0x00000406 }).toOption = some (.setvl 7 6 4)∧
  (decode { head := 0x1A85, tail := 0x00000400 }).toOption = some (.crd 5 4)∧
  (decode { head := 0x1A80, tail := 0x00000445 }).toOption = some (.cwr 4 5)∧
  (decode { head := 0x1848, tail := 0x0254 }).toOption = some (.claim 8 9 20)∧
  (decode { head := 0x2A4C, tail := 0x134A }).toOption = some (.lwait 12 10 13)∧
  (decode { head := 0x2680, tail := 0x03100000 }).toOption = some (.fence 3)∧
  (decode { head := 0x2696, tail := 0x03080554 }).toOption = some (.acq 22 20 21 3)∧
  (decode { head := 0x0003, tail := 0 }).toOption = some .eret∧
  (decode { head := 0xFE00, tail := 0 }).toOption = some (.udf 0 0)

/-- R51–R57: every well-formed instruction that has an encoding is read back from it, with every operand. -/
def Obligations.RoundTrip : Prop :=
  ∀ (i : Instr) (c : Code), i.WellFormed → encode i = some c → decode c = .ok i

/-- R51–R57: what the decoder reads is well formed, and the code is that instruction's encoding: no two codes of one tail length
stand for one instruction. Major 0x7F takes any code.

R56, R57: reserved majors and tail lengths 5–7 decode to nothing. -/
def Obligations.DecodeEncode : Prop :=
  (∀ (c : Code) (i : Instr), c.tail.toNat < 2 ^ (8 * tailBytes c.tl.toNat) → decode c = .ok i → c.major ≠ 0x7F →
     i.WellFormed ∧ encode i = some c) ∧
  (∀ (c : Code),
     (c.major.toNat ∉ [0x00, 0x01, 0x02, 0x03, 0x04, 0x05, 0x06, 0x07, 0x08, 0x09, 0x0A, 0x0B, 0x0C, 0x0D, 0x0E, 0x10, 0x11, 0x12, 0x13, 0x14,
       0x15, 0x16, 0x17, 0x18, 0x30, 0x31, 0x32, 0x33, 0x34, 0x35, 0x36, 0x37, 0x38, 0x50, 0x51, 0x52, 0x60, 0x61, 0x62, 0x63,
       0x64, 0x7F] → ∃ e, decode c = .error e) ∧
     (5 ≤ c.tl.toNat → c.major ≠ 0x7F → ∃ e, decode c = .error e))

/-! ### The step, lines, traps and privilege (spec/03 R46–R57, spec/04 R57–R60, spec/16 R273–R294) -/

/-- A step runs the instruction decoded at the pc, then lets the window go on under the policy, and a frozen window send what it has
formed; a code that decodes to nothing raises ILL (R57). A committed load that the instruction must follow is performed first (R212).

A turn of the agenda runs its event, or does what its input says, and leaves the rest of the agenda (log entries 3, 68). -/
def Obligations.StepRunsDecoded : Prop :=
  (∀ (s : State), fetching s →
     (∀ i, decode s.th.code = .ok i → i.WellFormed → loadBefore s i = none → step s = afterTurn (afterExec (exec i s))) ∧
     (∀ e, decode s.th.code = .error e → s.th.loads = [] →
       step s = afterTurn (afterExec (exec (.reservedEncoding s.th.code.head s.th.code.tail) s))) ∧
     (∀ i k, decode s.th.code = .ok i → loadBefore s i = some k → step s = afterTurn (runAct (performLoad k) s)) ∧
     (∀ t : State, t.th.window = [] ∨ t.policy.fire = false → afterExec (.next t) = .next t) ∧
     (∀ t : State, (∀ x ∈ t.threads, x.frozen = true → ∀ e ∈ x.window, e.formed = []) → (∀ c ∈ t.ctxs, c.records = []) → t.dues = [] → t.stops = [] →
       afterTurn (.next t) = .next t)) ∧
  (∀ (s : State) (r : List Turn),
     (∀ i, s.agenda = .event i :: r → step s = afterTurn (afterExec (exec i { s with agenda := r }))) ∧
     (∀ x, s.agenda = .input x :: r → step s = afterTurn (runInput x { s with agenda := r })))

/-- R46, R49, R50: entering a line that is in use or prefetched: LINE for a malformed one, else TARGET for an address that is no
head of it, else its snapshot is what the following heads come from.

R42, R50, R275: a line that is neither in use nor prefetched is translated once and read there: the bytes that the agent reads, at
once or, by the policy, an 8-byte unit a step, lowest address first (log entry 4 for that order); or PAGE or PROT with `trapval` = the
address entered.

R102: `fence.i` ends the snapshot and the prefetched lines; the line of the next head is entered afresh, from its old snapshot's
next head. -/
def Obligations.LineEntry : Prop :=
  (∀ (s : State) (l : Line), onTurn s → s.th.entering = true → s.th.held = some l → trapReady s →
     let off := s.th.pc.getLsbD 0 = true ∨ slotOf s.th.pc = 0 ∨ slotOf s.th.pc > l.heads
     (l.malformed = true → step s = afterTurn (.next (s.trap cLINE (lineOf s.th.pc)))) ∧
     (l.malformed = false → off → step s = afterTurn (.next (s.trap cTARGET s.th.cameFrom))) ∧
     (l.malformed = false → ¬off → step s = afterTurn (.next { s with th := { s.th with line := some l, entering := false } }))) ∧
  (∀ (s : State), onTurn s → s.th.entering = true → s.th.held = none → trapReady s →
     let a := lineOf s.th.pc
     let good := fun (l : Line) => l.malformed = false ∧ s.th.pc.getLsbD 0 = false ∧ slotOf s.th.pc ≠ 0 ∧ slotOf s.th.pc ≤ l.heads
     (s.th.lineIn = none →
       (∀ c, s.locate a .fetch = .error c → c ≠ 0x0C → step s = afterTurn (.next (s.trap c s.th.pc))) ∧
       (s.locate a .fetch = .error 0x0C → step s = afterTurn (.next (s.abortTold s.th.ctx))) ∧
       (∀ pa e, located s a .fetch pa e →
         (s.policy.whole = true → s.touchesBad pa 64 = false →
           let l : Line := { addr := a, bytes := BitVec.ofNat 512 (wordAt s pa 64) }
           good l → step s = afterTurn (.next { reached s e with th := { s.th with line := some l, entering := false } })) ∧
         (s.policy.whole = false → s.touchesBad pa 8 = false →
           step s = afterTurn (.next { reached s e with
             th := { s.th with lineIn := some { dev := none, pa := pa, bytes := s.readBytes s.th.place pa 8 } } })))) ∧
     (∀ r, s.th.lineIn = some r → r.dev = none →
       let pa := r.pa + r.bytes.length
       let bs := r.bytes ++ s.readBytes s.th.place pa 8
       s.touchesBad pa 8 = false → paKind pa ≠ .reg →
         (r.bytes.length + 8 < 64 → step s = afterTurn (.next { s with th := { s.th with lineIn := some { r with bytes := bs } } })) ∧
         (r.bytes.length + 8 = 64 →
           let l : Line := { addr := a, bytes := BitVec.ofNat 512 (leNat bs) }
           good l → step s = afterTurn (.next { s with th := { s.th with lineIn := none, line := some l, entering := false } })))) ∧
  (∀ (s : State),
     ∃ t, runs .fenceI s t ∧ t.th.pc = s.th.nextPc ∧ t.th.entering = true ∧ t.th.held = none ∧ keepsX s t [] ∧ t = { s with th := t.th })

/-- R72, R241, R276: taking a trap below M: what a window has read in part is given up, and what its fabric has fired for a later token.

R273: a trap at M uses the registers of M. That the level stays M is the model's choice (log entry 10).

R294, R273: `eret` takes the level, the enable and the pc back, and thaws the window; registers and memory stay. From S neither M
nor the reserved level is entered: the level then stays (log entry 10). -/
def Obligations.TrapEntry : Prop :=
  (∀ (s : State) (cause : Byte) (val : Word), s.th.pl ≠ 3 →
     let r := s.th.sregs
     let boundary := fun (f : Fabric) => { f with runs := f.runs.map fun (x : FRun) => { x with fired := [], ahead := [] } }
     let stops := fun (x : Hall) => if x.fabric.owner = some s.th.tid ∧ x.fabric.collective = false then { x with fabric := boundary x.fabric } else x
     s.trap cause val = { s with
       stalled := false
       halls := s.halls.map fun (x : Nat × Hall) => (x.1, stops x.2)
       th := { s.th with
         window := s.th.window.map fun (e : Entry) => { e with got := [] }
         frozen := true, pl := 1, pc := r.vec + 2, entering := true, cameFrom := s.th.pc, line := none, lineIn := none
         sregs := { r with ppl := s.th.pl, pie := r.ie, ie := false, cause := cause.setWidth 64, epc := s.th.pc, val := val } } } ∧
     (∀ went < 32, (s.trapElem cause went val).th.sregs.cause = cause.setWidth 64 ||| 0x100 ||| BitVec.ofNat 64 (went * 2 ^ 16))) ∧
  (∀ (s : State) (cause : Byte) (val : Word), s.th.pl = 3 →
     let t := (s.trap cause val).th
     t.sregs = s.th.sregs ∧ t.mregs.cause = cause.setWidth 64 ∧ t.mregs.epc = s.th.pc ∧ t.mregs.val = val ∧
     t.pc = s.th.mregs.vec + 2 ∧ t.pl = 3) ∧
  (∀ (s : State), s.th.pl ≠ 0 →
     let r := s.th.tregs
     ∃ t, runs .eret s t ∧ t.th.pl = (if s.th.pl ≠ 3 ∧ 2 ≤ r.ppl.toNat then s.th.pl else r.ppl) ∧ (s.th.pl = 3 → t.th.mregs = { r with ppl := 0, ie := r.pie, pie := true }) ∧
       (s.th.pl ≠ 3 → t.th.sregs = { r with ppl := 0, ie := r.pie, pie := true }) ∧ t.th.frozen = false ∧ t.th.pc = r.epc ∧
       t.th.entering = true ∧ keepsX s t [] ∧ t = { s with th := t.th })

/-- R292: `trap` commits and takes TRAP; the x registers keep the call's arguments. -/
def Obligations.TrapInstruction : Prop :=
  ∀ (code : BitVec 24) (s : State), trapReady s →
    ∃ t, runs (.trap code) s t ∧ t.th.tregs.cause = 0x0E ∧ t.th.tregs.epc = s.th.nextPc ∧ t.th.tregs.val = code.setWidth 64 ∧
      t.th.tregs.ppl = s.th.pl ∧ t.th.tregs.pie = s.th.tregs.ie ∧ t.th.tregs.ie = false ∧ t.th.frozen = true ∧
      t.th.pc = s.th.tregs.vec + 2 ∧ keepsX s t [] ∧ t.mem = s.mem ∧ t.others = s.others

/-- R57: `udf` and every encoding that is not assigned raise ILL with the head and the low 48 bits of the tail.

R59: what raises ILL on a Benzia core.

R276: while the window is frozen, vector, mask and tile instructions raise ILL.

R57, R274: a masked feature makes its instructions ILL: those of the fabric, of the cursors with `smatch`, of the decoder and of storage,
and under a masked bx feature whatever names the type codes 10–12.

R57, R59, R63, R274: `crd` and `cwr` of an unassigned number, `cwr` of a register that is only read, and a core's access of a vector
register raise ILL; `cwr` of `featen0` below M raises PRIV. -/
def Obligations.RefusedInstructions : Prop :=
  (∀ (s : State), trapReady s →
     (∀ t f, traps (.udf t f) s cILL s.codeVal) ∧
     (∀ h w, traps (.reservedEncoding h w) s cILL ((w <<< 16) ||| h.setWidth 64))) ∧
  (∀ (s : State) (i : Instr) (a b c : XReg) (u v : VReg) (p q : BitVec 2) (o : StripOp) (vt : BitVec 8) (k : Bool),
     trapReady s → s.th.isCore = true →
     ((vkey i).isSome ∨ (memKey i).isSome ∨ isTileInstr i = true ∨
       i ∈ [.strip c o, .setvl a b vt, .twait, .fwait, .vsave a, .vrest a, .frun a b, .fcfg a, .fcfgRelease, .smatch a u v p q,
         .sopen p a b k, .sclose p, .sseek a p b]) →
       traps i s cILL s.codeVal) ∧
  (∀ (s : State) (i : Instr), trapReady s → s.th.frozen = true → s.th.isCore = false →
     ((vkey i).isSome ∨ (memKey i).isSome ∨ isTileInstr i = true) → traps i s cILL s.codeVal) ∧
  (∀ (s : State) (a b c : XReg) (p q : BitVec 2) (u v : VReg) (k : Bool), trapReady s → s.th.frozen = false → s.th.isCore = false →
       s.th.window = [] → s.th.trimPending = false →
     (s.th.featen0.getLsbD 0 = false → ∀ i ∈ [Instr.fcfg a, .frun a b, .fwait], traps i s cILL s.codeVal) ∧
     (s.th.featen0.getLsbD 1 = false → ∀ i ∈ [Instr.sopen p a b k, .sclose p, .sseek a p b, .smatch a u v p q],
       traps i s cILL s.codeVal) ∧
     (s.th.featen0.getLsbD 2 = false → ∀ i : Instr, i.WellFormed →
       (∀ ma mi o, vkey i = some (ma, mi, o) → ma ≠ 0x64 → isBx o.et = true → s.th.await = none → traps i s cILL s.codeVal) ∧
       (∀ m o, memKey i = some (m, o) → isBx o.et = true → traps i s cILL s.codeVal) ∧
       (∀ o, i = .tld o ∨ i = .tst o → isBx o.mtype = true → traps i s cILL s.codeVal) ∧
       (∀ d x vt, i = .setvl d x vt → isBx (vt.extractLsb' 0 4) = true → traps i s cILL s.codeVal)) ∧
     (s.th.featen0.getLsbD 3 = false → traps (.mdec a b c) s cILL s.codeVal) ∧
     (s.th.featen0.getLsbD 4 = false → traps (.sxfer a b c) s cILL s.codeVal)) ∧
  (∀ (d a : XReg) (n : BitVec 12) (s : State), trapReady s →
     let known : List (BitVec 12) := [0x000, 0x001, 0x002, 0x003, 0x004, 0x005, 0x006, 0x007, 0x008, 0x100, 0x101, 0x102, 0x103, 0x104, 0x105,
       0x106, 0x107, 0x108, 0x109, 0x10A, 0x10B, 0x110, 0x111, 0x112, 0x120, 0x121]
     let fixed : List (BitVec 12) := [0x000, 0x001, 0x002, 0x006, 0x007, 0x105, 0x107, 0x108, 0x109, 0x10A, 0x110, 0x111, 0x112, 0x120]
     (n ∉ known → traps (.crd d n) s cILL s.codeVal ∧ traps (.cwr n a) s cILL s.codeVal) ∧
     (n ∈ fixed → traps (.cwr n a) s cILL s.codeVal) ∧
     (s.th.isCore = true → n ∈ [0x000, 0x001, 0x002, 0x006, 0x007] → traps (.crd d n) s cILL s.codeVal) ∧
     (s.th.pl = 1 → traps (.cwr 0x121 a) s cPRIV s.codeVal))

/-- R58: at U the privileged instructions, and `crd` and `cwr` of the system registers, raise PRIV with the head and the low 48 bits of
the tail, where they do not raise ILL first (R59, R60): `vsave` and `vrest` on a core, and `cwr` of a register that is only read. -/
def Obligations.PrivilegedAtUser : Prop :=
  ∀ (s : State) (i : Instr) (a d : XReg) (n : BitVec 12), trapReady s → s.th.pl = 0 →
    let fixed : List (BitVec 12) := [0x105, 0x107, 0x108, 0x109, 0x10A, 0x110, 0x111, 0x112, 0x120]
    let system : List (BitVec 12) := [0x100, 0x101, 0x102, 0x103, 0x104, 0x106, 0x10B, 0x121] ++ fixed
    (i ∈ [.eret, .wfi, .tlbinvPage a, .tlbinvCtx a, .tlbinvAll] ∨ (i ∈ [.vsave a, .vrest a] ∧ s.th.isCore = false) ∨
      (i = .crd d n ∧ n ∈ system) ∨ (i = .cwr n a ∧ n ∈ system ∧ n ∉ fixed)) →
      traps i s 0x02 ((s.th.code.tail <<< 16) ||| s.th.code.head.setWidth 64)

/-! ### Control registers, the misc group, vector length (spec/04 R63, R64, spec/05 R86, R101–R104, spec/08, spec/16 R274) -/

/-- R63, R87: what `crd` of a user register reads on a tile thread whose window is empty.

R274, R87: what `crd` of a system register reads at S, at M, and in a context. -/
def Obligations.ReadRegisters : Prop :=
  (∀ (d : XReg) (s : State), s.th.isCore = false → s.th.window = [] → s.th.unchecked = [] →
     (∀ p ∈ [((0x000 : BitVec 12), BitVec.ofNat 64 s.th.vl), (0x001, s.th.vtype.setWidth 64), (0x002, BitVec.ofNat 64 s.th.grant),
         (0x003, s.th.fsr.setWidth 64), (0x004, s.th.fcsr.setWidth 64), (0x005, s.th.lsat.setWidth 64), (0x006, 0), (0x007, 0)],
       runs (.crd d p.1) s (written s d p.2)) ∧
     (∀ c, s.ctx s.th.ctx = some c →
       runs (.crd d 0x008) s (written s d ((if s.th.stall then 1 else 0) ||| (if s.th.remind then 2 else 0) |||
         BitVec.ofNat 64 (min c.outstanding 65536 * 2 ^ 15))))) ∧
  (∀ (d : XReg) (s : State) (c : Ctx), s.th.pl ≠ 0 → s.ctx s.th.ctx = some c →
     let r := if s.th.pl = 3 then s.th.mregs else s.th.sregs
     ∀ p ∈ [((0x100 : BitVec 12), s.th.pl.setWidth 64 ||| (r.ppl.setWidth 64 <<< 2) ||| (if r.ie then 0x10 else 0) |||
         (if r.pie then 0x20 else 0)),
       (0x101, r.vec), (0x102, r.cause), (0x103, r.epc), (0x104, r.val), (0x105, s.th.winrec), (0x106, s.th.vowner),
       (0x107, s.th.ctx.setWidth 64), (0x108, BitVec.ofNat 64 (c.ptroot % 2 ^ 48 / 2 ^ 14 * 2 ^ 14)), (0x109, if s.th.rc then 1 else 0),
       (0x10A, c.bindtab), (0x10B, s.th.sscratch), (0x110, c.rvid.setWidth 64), (0x111, c.serialnext.setWidth 64),
       (0x112, c.serialack.setWidth 64), (0x120, 0x3F), (0x121, s.th.featen0.setWidth 64)],
       runs (.crd d p.1) s (written s d p.2))

/-- R63, R273, R274, R87: what `cwr` writes: reserved bits are ignored, and so is a level that `status.ppl` may not take. -/
def Obligations.WriteRegisters : Prop :=
  ∀ (a : XReg) (s : State), s.th.window = [] → s.th.unchecked = [] →
    let v := s.getX a
    let go := fun (n : BitVec 12) (t : Thread) => runs (.cwr n a) s { s with th := t.advance }
    (go 0x003 { s.th with fsr := v.setWidth 25 } ∧ go 0x004 { s.th with fcsr := v.setWidth 7 } ∧
      go 0x005 { s.th with lsat := v.setWidth 3 } ∧ go 0x008 { s.th with remind := v.getLsbD 1 }) ∧
    (s.th.pl = 1 →
      let r := s.th.sregs
      let level := v.extractLsb' 2 2
      go 0x100 { s.th with sregs := { r with ppl := if level = 2 ∨ level = 3 then r.ppl else level, ie := v.getLsbD 4, pie := v.getLsbD 5 } } ∧
      go 0x101 { s.th with sregs := { r with vec := v &&& 0xFFFFFFFFFFFFFFC0 } } ∧
      go 0x102 { s.th with sregs := { r with cause := v &&& 0x1F01FF } } ∧ go 0x103 { s.th with sregs := { r with epc := v } } ∧
      go 0x104 { s.th with sregs := { r with val := v } } ∧ go 0x106 { s.th with vowner := v } ∧
      go 0x10B { s.th with sscratch := v }) ∧
    (s.th.pl = 3 →
      let r := s.th.mregs
      let level := v.extractLsb' 2 2
      go 0x100 { s.th with mregs := { r with
        ppl := if level = 2 ∨ (level = 3 ∧ s.th.isCore = false) then r.ppl else level, ie := v.getLsbD 4, pie := v.getLsbD 5 } } ∧
      go 0x101 { s.th with mregs := { r with vec := v &&& 0xFFFFFFFFFFFFFFC0 } } ∧
      go 0x102 { s.th with mregs := { r with cause := v &&& 0x1F01FF } } ∧ go 0x103 { s.th with mregs := { r with epc := v } } ∧
      go 0x104 { s.th with mregs := { r with val := v } } ∧ go 0x106 { s.th with vowner := v } ∧
      go 0x10B { s.th with sscratch := v } ∧ go 0x121 { s.th with featen0 := v.setWidth 6 })

/-- R101–R103, R294: what only lets control pass on.

R101, R103, R294: what waits, uncommitted: the agent stalls and nothing else changes.

R103: at a `yield` with a pre-emption pending the thread is suspended at the next head.

R262: `getid` on a core. -/
def Obligations.PassingOn : Prop :=
  (∀ (s : State),
     runs .nop s s.advance ∧
     (s.th.isCore = false → s.th.featen0.getLsbD 0 = true → s.th.windowAway = false →
       (s.fabric.runs.any fun r => r.tid = s.th.tid) = false → runs .fwait s s.advance) ∧
     (s.th.pl ≠ 0 → s.th.irq ≠ [] → runs .wfi s s.advance) ∧
     (s.th.isCore = false → s.th.windowAway = false → (∀ e ∈ s.th.window, isTileInstr e.instr = true → e.complete = true) →
       runs .twait s s.drainOwn.advance) ∧
     ((∀ e ∈ s.th.window, e.complete = true) → s.th.unchecked = [] → s.th.pendPre = none ∨ s.th.isCore = true → runs .yield s s.advance)) ∧
  (∀ (s : State),
     (s.th.pl ≠ 0 → s.th.irq = [] → runs .wfi s { s with stalled := true }) ∧
     (s.th.windowAway = false → (s.th.window.any fun e => !e.complete) = true ∨ s.th.unchecked ≠ [] → runs .yield s { s with stalled := true }) ∧
     (s.th.isCore = false → s.th.featen0.getLsbD 0 = true → s.th.windowAway = false → (s.fabric.runs.any fun r => r.tid = s.th.tid) = true →
       runs .fwait s { s with stalled := true })) ∧
  (∀ (s : State), s.th.window = [] → s.th.unchecked = [] → s.th.loads = [] → s.th.isCore = false → s.th.pendPre.isSome = true →
     ∃ t, runs .yield s t ∧ t.th.run = .suspended true ∧ t.th.pc = s.th.nextPc ∧ t.th.pendPre = none ∧ keepsX s t []) ∧
  (∀ (d : XReg) (s : State) (n : Nat), s.th.who = .core n → n < 16 → runs (.getid d) s (written s d (BitVec.ofNat 64 (0xFF00 + n))))

/-- R264: the fields of `getid` on a tile thread. -/
def Obligations.ThreadIdentity : Prop :=
  ∀ (d : XReg) (s : State) (h i n : Nat), s.th.who = .tile h i n → h < 256 → i < 256 → n < 256 →
    ∃ v : Word, runs (.getid d) s (written s d v) ∧ v.extractLsb' 48 16 = 0 ∧ v.extractLsb' 32 16 = s.th.rank ∧
      v.extractLsb' 24 8 = BitVec.ofNat 8 h ∧ v.extractLsb' 16 8 = BitVec.ofNat 8 i ∧ v.extractLsb' 8 8 = BitVec.ofNat 8 n ∧
      v.extractLsb' 0 8 = s.th.stage.setWidth 8

/-- R293: `tlbinv` removes the translations it names from every hall, of a page the whole run of 16 that one in a run belongs to, and
waits for the accesses that used them; queued writes reach their homes. That the whole run goes where its condition is broken is log entry 61. -/
def Obligations.RemoveTranslations : Prop :=
  ∀ (a : XReg) (s : State), s.th.pl ≠ 0 →
    let still := fun (c : BitVec 32) => ∀ t ∈ s.threads, t.ctx = c → t.inFlight = false
    let keep := fun (p : TlbEnt → Bool) => ({ s with halls := s.halls.map fun (h, x) => (h, { x with tlb := x.tlb.filter fun e => !p e }) } : State)
    let v := s.getX a
    let size := fun (e : TlbEnt) => if e.leaf.getLsbD 6 = true ∧ (e.size = 2 ^ 14 ∨ e.size = 2 ^ 25) then 16 * e.size else e.size
    (still s.th.ctx → (∀ h x, (h, x) ∈ s.halls → ∀ e ∈ x.tlb, 0 < e.size ∧ e.base % e.size = 0) → runs (.tlbinvPage a) s
      (keep fun e => e.ctx = s.th.ctx && v.toNat / size e == e.base / size e).drainAll.advance) ∧
    (still (v.setWidth 32) → runs (.tlbinvCtx a) s (keep fun e => e.ctx = v.setWidth 32).drainAll.advance) ∧
    ((∀ t ∈ s.threads, t.inFlight = false) → runs .tlbinvAll s (keep fun _ => true).drainAll.advance) ∧
    (∀ t ∈ s.threads, t.inFlight = true →
      runs .tlbinvAll s { (keep fun _ => true) with stalled := true } ∧
      (t.ctx = v.setWidth 32 → runs (.tlbinvCtx a) s { (keep fun e => e.ctx = v.setWidth 32) with stalled := true }))

/-- R86: `setvl` limits the request to the grant and to whole blocks.

R143: `strip` takes vl off the count and advances the pointers by vl elements; control goes to the target while the count is not 0.
Where it is `strip.y` and a pre-emption is pending, the thread is at a yield point (R144), of which the next statement says what follows.

R144: a thread that has committed `strip.y` with a pre-emption pending waits until its window is empty and is suspended there, keeping the
count register from which a changed grant takes vl anew (R143); it runs on where the request is gone or a trap has frozen its window. -/
def Obligations.VectorLength : Prop :=
  (∀ (d a : XReg) (vt : BitVec 8) (s : State), (Instr.setvl d a vt).WellFormed → s.th.isCore = false → s.th.trimPending = false →
     (isBx (vt.extractLsb' 0 4) = true → s.th.featen0.getLsbD 2 = true) →
     let vl := wholeBlocks (min (s.getX a).toNat s.th.grant) (vblock vt)
     runs (.setvl d a vt) s (written { s with th := { s.th with vl := vl, vtype := vt } } d (BitVec.ofNat 64 vl))) ∧
  (∀ (c : XReg) (o : StripOp) (s : State), (Instr.strip c o).WellFormed → s.th.isCore = false → s.th.trimPending = false →
     let n := s.th.vl
     let left := (s.getX c).toNat - n
     ∃ t, runs (.strip c o) s t ∧ t.getX c = BitVec.ofNat 64 left ∧
       (∀ p ∈ [(o.p1, o.e1), (o.p2, o.e2), (o.p3, o.e3), (o.p4, o.e4)], p.1 ≠ 0 →
         t.getX p.1 = s.getX p.1 + (BitVec.ofNat 64 n <<< p.2.toNat)) ∧
       keepsX s t [c, o.p1, o.p2, o.p3, o.p4] ∧ t.th.vl = wholeBlocks (min left s.th.grant) (vblock s.th.vtype) ∧
       t.th.pc = (if left ≠ 0 then s.th.pc + 2 * o.off.signExtend 64 else s.th.nextPc) ∧
       t = { s with th := { s.th with
         x := t.th.x, vl := t.th.vl, pc := t.th.pc, entering := t.th.entering, cameFrom := t.th.cameFrom,
         stripC := if o.y = true ∧ s.th.pendPre.isSome = true then some c else s.th.stripC } }) ∧
  (∀ (s : State) (c : XReg), s.agenda = [] → s.power = .on → s.stalled = false → s.th.run = .running → s.th.asyncDue = none →
     s.th.remindDue = none → s.th.fabPend = none → s.th.stripC = some c →
     (s.th.frozen = true ∨ s.th.pendPre = none → step s = afterTurn (.next { s with th := { s.th with stripC := none } })) ∧
     (s.th.frozen = false → s.th.pendPre.isSome = true →
       ((∃ e ∈ s.th.window, e.complete = false) ∨ s.th.unchecked ≠ [] → step s = afterTurn (.next { s with stalled := true })) ∧
       ((∀ e ∈ s.th.window, e.complete = true ∧ e.formed = []) → s.th.unchecked = [] → s.th.loads = [] →
         ∃ t, step s = afterTurn (.next t) ∧ t.th.run = .suspended true ∧ t.th.pc = s.th.pc ∧ t.th.pendPre = none ∧ t.th.stripC = some c ∧
           t.th.vl = s.th.vl ∧ keepsX s t [])))

/-! ### Memory (spec/05 R88–R95, spec/08 R145, spec/12, spec/16 R277–R280, spec/23 R346) -/

/-- R274, R277–R279, R344, R90: a walk of four levels for an agent at S or U whose translation is not cached: PAGE above 56 bits or at an
entry that is not valid, PROT for a malformed entry of any level or an access the leaf denies; else the page that the level-2 or level-3
leaf maps, alone or in a run of 16 that keeps its conditions (256 KiB, 512 MiB). A page with `rmt` = 1 lies at its home, and gives PROT under
a masked `hiend`; PROT too for a reserved address and for a retired slice. DABORT at a table entry in an uncorrectable unit (R341; log
entry 61). -/
def Obligations.Translation : Prop :=
  ∀ (s : State) (va : Word) (acc : Access) (c : Ctx), s.th.pl ≠ 3 → s.ctx s.th.ctx = some c →
    (∀ h, s.th.hall? = some h → tlbFind (s.hall h).tlb s.th.ctx va.toNat = none) →
    let a := va.toNat
    let entry := fun (table sh : Nat) => (BitVec.ofNat 64 (leNat (memRead s.mem (table + 8 * (a / 2 ^ sh % 2048)) 8)) : BitVec 64)
    let base := fun (e : BitVec 64) => (e.extractLsb' 14 34).toNat * 2 ^ 14
    let e0 := entry c.ptroot 47
    let e1 := entry (base e0) 36
    let e2 := entry (base e1) 25
    let e3 := entry (base e2) 14
    let table := fun (e : BitVec 64) => e.getLsbD 0 = true ∧ e.getLsbD 1 = false ∧ e.extractLsb' 2 12 = 0 ∧ e.extractLsb' 48 16 = 0
    let bad := fun (e : BitVec 64) => e.getLsbD 48 = true ∨ e.extractLsb' 7 7 ≠ 0 ∨ e.getLsbD 1 = false ∨
      (e.getLsbD 49 = false ∧ e.extractLsb' 50 14 ≠ 0)
    let may := fun (e : BitVec 64) => (s.th.pl = 0 → e.getLsbD 5 = true) ∧ (acc = .read ∨ acc = .both → e.getLsbD 2 = true) ∧
      (acc = .write ∨ acc = .both → e.getLsbD 3 = true) ∧ (acc = .fetch → e.getLsbD 4 = true)
    let run := fun (at2 sh k : Nat) => (BitVec.ofNat 64 (leNat (memRead s.mem (at2 + 8 * (a / 2 ^ sh % 2048 / 16 * 16 + k)) 8)) : BitVec 64)
    let alone := fun (at2 sh : Nat) => ∀ k < 16, ¬((run at2 sh k).getLsbD 0 = true ∧ (run at2 sh k).getLsbD 1 = true ∧ (run at2 sh k).getLsbD 6 = true)
    let regular := fun (at2 sh : Nat) => alone at2 sh ∨ (base (run at2 sh 0) % 2 ^ (sh + 4) = 0 ∧
      ∀ k < 16, run at2 sh k = run at2 sh 0 + BitVec.ofNat 64 (k * 2 ^ sh))
    let gives := fun (r : Except Byte Loc) => match r with
      | .error c => s.locate va acc = .error c
      | .ok l => ∃ t, s.locate va acc = .ok (l, t)
    let maps := fun (e : BitVec 64) (pa : Nat) =>
      let home : BitVec 14 := e.extractLsb' 50 14
      (e.getLsbD 49 = true → s.th.featen0.getLsbD 5 = false → gives (.error 0x07)) ∧
      (e.getLsbD 49 = true → s.th.featen0.getLsbD 5 = true → home ≠ s.hiend.id → gives (.ok (.away home pa))) ∧
      (e.getLsbD 49 = false ∨ (s.th.featen0.getLsbD 5 = true ∧ home = s.hiend.id) →
        (paKind pa = .reserved ∨ s.sliceRetired pa = true → gives (.error 0x07)) ∧
        (paKind pa ≠ .reserved → s.sliceRetired pa = false → gives (.ok (.here pa))))
    (2 ^ 56 ≤ a → gives (.error 0x06)) ∧
    (a < 2 ^ 56 → s.touchesBad (c.ptroot + 8 * (a / 2 ^ 47 % 2048)) 8 = true → gives (.error 0x0C)) ∧
    (a < 2 ^ 56 → s.badUnit = [] →
      (e0.getLsbD 0 = false → gives (.error 0x06)) ∧ (e0.getLsbD 0 = true → ¬table e0 → gives (.error 0x07)) ∧
      (table e0 → e1.getLsbD 0 = false → gives (.error 0x06)) ∧ (table e0 → e1.getLsbD 0 = true → ¬table e1 → gives (.error 0x07)) ∧
      (table e0 → table e1 → regular (base e1) 25 →
        (e2.getLsbD 0 = false → gives (.error 0x06)) ∧
        (e2.getLsbD 0 = true → e2.getLsbD 1 = false → ¬table e2 → gives (.error 0x07)) ∧
        (e2.getLsbD 0 = true → e2.getLsbD 1 = true → bad e2 ∨ e2.extractLsb' 14 11 ≠ 0 ∨ ¬may e2 → gives (.error 0x07)) ∧
        (e2.getLsbD 0 = true → ¬bad e2 → e2.extractLsb' 14 11 = 0 → may e2 → maps e2 (base e2 + a % 2 ^ 25))) ∧
      (table e0 → table e1 → alone (base e1) 25 → table e2 → regular (base e2) 14 →
        (e3.getLsbD 0 = false → gives (.error 0x06)) ∧
        (e3.getLsbD 0 = true → bad e3 ∨ ¬may e3 → gives (.error 0x07)) ∧
        (e3.getLsbD 0 = true → ¬bad e3 → may e3 → maps e3 (base e3 + a % 2 ^ 14))))

/-- R90: an address that is not a multiple of the access's size raises ALIGN, and one that does not translate the fault of its
translation, with `trapval` = the effective address; nothing of the instruction is committed. A walk that meets an uncorrectable unit ends the
context (R341; log entry 61).

R151, R215: landing and sync instructions raise ALIGN for an address that is not a multiple of 16, the faults of its translation, and
PROT for an object at another device. -/
def Obligations.AccessFaults : Prop :=
  (∀ (s : State) (d a b : XReg) (off : BitVec 21) (ty : BitVec 4) (f : Bool) (o : AmoOp), trapReady s → s.th.await = none → 2 ≤ o.w.toNat →
     let ea := s.getX a + off.signExtend 64
     let size := [1, 1, 2, 2, 4, 4, 8].getD ty.toNat 8
     let w := if o.w = 3 then 8 else 4
     (ty.toNat ≤ 6 → ea.toNat % size ≠ 0 → traps (.ld d a off ty f) s cALIGN ea) ∧
     (ty.toNat ≤ 6 → ea.toNat % size = 0 → ∀ c, s.locate ea .read = .error c → faults (.ld d a off ty f) s c ea) ∧
     (ty.toNat ≤ 3 → ea.toNat % 2 ^ ty.toNat ≠ 0 → traps (.st b a off ty f) s cALIGN ea) ∧
     (ty.toNat ≤ 3 → ea.toNat % 2 ^ ty.toNat = 0 → ∀ c, s.locate ea .write = .error c → faults (.st b a off ty f) s c ea) ∧
     (∀ i ∈ [Instr.amoSwap d a b o, .amoAdd d a b o, .amoAnd d a b o, .amoOr d a b o, .amoXor d a b o, .amoMin d a b o, .amoMax d a b o,
         .amoMinN d a b o, .amoMaxN d a b o, .amoCas d a b b o],
       ((s.getX a).toNat % w ≠ 0 → traps i s cALIGN (s.getX a)) ∧
       ((s.getX a).toNat % w = 0 → ∀ c, s.locate (s.getX a) .both = .error c → faults i s c (s.getX a)))) ∧
  (∀ (s : State) (d a b c : XReg) (sc : BitVec 8) (i : Instr), trapReady s → s.getX c ≠ 0 → (s.getX b).toNat + (s.getX c).toNat ≤ 2 ^ 56 →
     i ∈ [.linit a b, .larm a b, .lread d a, .lwait d a b, .bind a b c sc, .unbind a sc, .acq d a b sc, .rel a sc] →
     let x := s.getX a
     (x.toNat % 16 ≠ 0 → traps i s cALIGN x) ∧
     (x.toNat % 16 = 0 → ∀ f, s.locate x .both = .error f → faults i s f x) ∧
     (x.toNat % 16 = 0 → ∀ dev pa e, s.locate x .both = .ok (.away dev pa, e) → exec i s = .next ((reached s e).trap cPROT x)))

/-- R88, R91, R207, R212: a load that meets memory of this device reads its bytes, extends them, and with `.acq` discards the prefetched
lines; where the policy orders accesses so, or it writes x0, at once; else it is committed, and its bytes are read and its register written
later.

R89, R91, R149, R207: a store to memory of this device writes the low bytes of its source and changes no other byte and no register; a
landing word it touches is left open (log entry 28). With `.rel`, or where the policy orders accesses so, at once; else it is committed, and
performed later. -/
def Obligations.LoadsAndStores : Prop :=
  ((∀ (d b : XReg) (off : BitVec 21) (ty : BitVec 4) (acq : Bool) (s : State) (pa : Nat) (e : Option TlbEnt), idle s → ty.toNat ≤ 6 →
     let ea := s.getX b + off.signExtend 64
     let n := [1, 1, 2, 2, 4, 4, 8].getD ty.toNat 8
     let raw : Word := BitVec.ofNat 64 (wordAt s pa n)
     let v : Word := if ty = 0 then (raw.setWidth 8).signExtend 64 else if ty = 2 then (raw.setWidth 16).signExtend 64
       else if ty = 4 then (raw.setWidth 32).signExtend 64 else raw
     let later : DLoad := { d := d, dev := none, pa := pa, n := n, sgn := decide (ty.toNat < 6 ∧ ty.toNat % 2 = 0), data := none }
     ea.toNat % n = 0 → located s ea .read pa e →
       (acq = true ∨ s.policy.order = true ∨ d = 0 → s.touchesBad pa n = false →
         runs (.ld d b off ty acq) s (written (if acq then acquired (reached s e) else reached s e) d v)) ∧
       (acq = false → s.policy.order = false → d ≠ 0 →
         runs (.ld d b off ty acq) s { reached s e with th := { s.th with loads := s.th.loads ++ [later] } }.advance)) ∧
   (∀ (s : State) (k : Nat) (l : DLoad), s.th.loads[k]? = some l → l.dev = none → l.data = none → paKind l.pa ≠ .reg → s.touchesBad l.pa l.n = false → l.n ∈ [1, 2, 4, 8] →
     let raw := wordAt s l.pa l.n
     let v : Word := if l.sgn then BitVec.ofInt 64 (signedOf (8 * l.n) raw) else BitVec.ofNat 64 raw
     ∃ t, runAct (performLoad k) s = .next t ∧ t.getX l.d = (if l.d = 0 then 0 else v) ∧ keepsX s t [l.d] ∧
       t = { s with th := { s.th with x := t.th.x, loads := s.th.loads.eraseIdx k } })) ∧
  ((∀ (v b : XReg) (off : BitVec 21) (ty : BitVec 4) (rel : Bool) (s : State) (pa : Nat) (e : Option TlbEnt), idle s → mapsLegal s → queuesWhole s → ty.toNat ≤ 3 →
     let ea := s.getX b + off.signExtend 64
     let n := 2 ^ ty.toNat
     let ws := (released rel (reached s e)).wordsAt pa n
     let later : DLoad := { d := 0, dev := none, pa := pa, n := n, sgn := false, data := some (leBytes n (s.getX v).toNat) }
     ea.toNat % n = 0 → located s ea .write pa e →
       (rel = true ∨ s.policy.order = true → s.partlyBad pa n = false →
         ∃ t, runs (.st v b off ty rel) s t ∧ (ws = [] → wordAt t pa n = (s.getX v).toNat % 2 ^ (8 * n)) ∧
           keepsBut s t pa n ws ∧ keepsX s t [] ∧ passed s t ∧ scalarOnly s t) ∧
       (rel = false → s.policy.order = false →
         runs (.st v b off ty rel) s { reached s e with th := { s.th with loads := s.th.loads ++ [later] } }.advance)) ∧
   (∀ (s : State) (k : Nat) (l : DLoad) (bs : List Byte), mapsLegal s → queuesWhole s → s.th.loads[k]? = some l → l.dev = none →
     l.data = some bs → paKind l.pa ≠ .reg → s.partlyBad l.pa bs.length = false →
     let ws := s.wordsAt l.pa bs.length
     ∃ t, runAct (performLoad k) s = .next t ∧ (ws = [] → wordAt t l.pa bs.length = leNat bs) ∧ keepsBut s t l.pa bs.length ws ∧
       t.th = { s.th with loads := s.th.loads.eraseIdx k }))

/-- R94: an atomic reads, modifies and writes its location; x[d] takes the old value sign-extended, and no other byte and no other
register changes; a landing word it touches is left open (R149; log entry 28).

R94: `cas` writes its new value exactly where the old one equals what it expects; a landing word it touches is left open (R149; log entry 28).

R145: `claim` grants what remains, at most what is asked for, on a tile thread at most whole blocks within the grant; the pair's
first word advances by it and the second stays. -/
def Obligations.Atomics : Prop :=
  (∀ (d a b : XReg) (o : AmoOp) (s : State) (pa : Nat) (e : Option TlbEnt), idle s → mapsLegal s → queuesWhole s → 2 ≤ o.w.toNat →
     let w := if o.w = 3 then 64 else 32
     let old := wordAt s pa (w / 8)
     let x := (s.getX b).toNat % 2 ^ w
     let ws := (released o.rel (reached s e)).wordsAt pa (w / 8)
     (s.getX a).toNat % (w / 8) = 0 → located s (s.getX a) .both pa e → s.touchesBad pa (w / 8) = false →
       ∀ p ∈ [(Instr.amoSwap d a b o, x), (.amoAdd d a b o, (old + x) % 2 ^ w), (.amoAnd d a b o, old &&& x), (.amoOr d a b o, old ||| x),
           (.amoXor d a b o, old ^^^ x), (.amoMin d a b o, if signedOf w old < signedOf w x then old else x),
           (.amoMax d a b o, if signedOf w old < signedOf w x then x else old), (.amoMinN d a b o, min old x), (.amoMaxN d a b o, max old x)],
         ∃ t, runs p.1 s t ∧ t.getX d = (if d = 0 then 0 else sext w old) ∧ (ws = [] → wordAt t pa (w / 8) = p.2) ∧
           keepsBut s t pa (w / 8) ws ∧ keepsX s t [d] ∧ passed s t ∧ accessOnly s t) ∧
  (∀ (d a x n : XReg) (o : AmoOp) (s : State) (pa : Nat) (e : Option TlbEnt), idle s → mapsLegal s → queuesWhole s → 2 ≤ o.w.toNat →
     let w := if o.w = 3 then 64 else 32
     let old := wordAt s pa (w / 8)
     let ws := (released o.rel (reached s e)).wordsAt pa (w / 8)
     (s.getX a).toNat % (w / 8) = 0 → located s (s.getX a) .both pa e → s.touchesBad pa (w / 8) = false →
       ∃ t, runs (.amoCas d a x n o) s t ∧ t.getX d = (if d = 0 then 0 else sext w old) ∧
         (ws = [] → wordAt t pa (w / 8) = if old = (s.getX x).toNat % 2 ^ w then (s.getX n).toNat % 2 ^ w else old) ∧
         keepsBut s t pa (w / 8) ws ∧ keepsX s t [d] ∧ passed s t ∧ accessOnly s t) ∧
  (∀ (d req c : XReg) (s : State) (pa : Nat) (e : Option TlbEnt), idle s → mapsLegal s → queuesWhole s → (Instr.claim d req c).WellFormed →
     (s.getX c).toNat % 16 = 0 → located s (s.getX c) .both pa e → s.touchesBad pa 16 = false →
     let next := wordAt s pa 8
     let total := wordAt s (pa + 8) 8
     let g0 := min (s.getX req).toNat (total - next)
     let g := if s.th.isCore then g0 else wholeBlocks (min g0 s.th.grant) (vblock s.th.vtype)
     ∃ t, runs (.claim d req c) s t ∧ t.getX d = (if d = 0 then 0 else BitVec.ofNat 64 next) ∧
       t.getX req = (if req = 0 then 0 else BitVec.ofNat 64 g) ∧ t.th.vl = (if s.th.isCore then s.th.vl else g) ∧
       wordAt t pa 8 = next + g ∧ wordAt t (pa + 8) 8 = total ∧ keepsBytes s t pa 8 ∧ keepsX s t [d, req] ∧ passed s t)

/-- R346: what a 64-bit load of a service register reads; a read of `updreq` clears `rej`. What a load reads where the manual describes no
register is open (log entry 12).

R346, R350: what a 64-bit store to a service register does: read-only registers and values outside their range are ignored, and so is
`updreq` while an update is in progress, which is noted. A store where the manual describes no register changes none (log entry 12). -/
def Obligations.ServiceRegisters : Prop :=
  (∀ (d b : XReg) (s : State) (pa : Nat) (e : Option TlbEnt), idle s → (s.getX b).toNat % 8 = 0 → s.locate (s.getX b) .read = .ok (.here pa, e) →
     let v := s.svc
     let read := fun (w : Word) => runs (.ld d b 0 6 false) s (written (reached s e) d w)
     (pa = 0x00FF00001000 → read ((if v.slot then 1 else 0) ||| (if v.fallback then 2 else 0) ||| (v.rcause.setWidth 64 <<< 8) |||
       (v.ver.setWidth 64 <<< 16))) ∧
     (pa = 0x00FF00001008 → runs (.ld d b 0 6 false) s
       (written { reached s e with svc := { v with rej := false } } d (v.upd.setWidth 64 ||| (if v.rej then 0x10 else 0)))) ∧
     (pa = 0x00FF00001010 → read (v.hbeat.setWidth 64)) ∧
     (pa = 0x00FF00001018 → v.lvl < 16 → read (BitVec.ofNat 64 v.lvl ||| (v.tj.setWidth 64 <<< 8) ||| (if v.pcap then 0x10000 else 0) |||
       (if v.tcap then 0x20000 else 0))) ∧
     (pa = 0x00FF00001020 → read (v.pwrcap.setWidth 64)) ∧
     (pa = 0x00FF00001028 → read v.rasring) ∧
     (paKind pa = .reg → pa % 8 = 0 → pa ∉ [0x00FF00001000, 0x00FF00001008, 0x00FF00001010, 0x00FF00001018, 0x00FF00001020, 0x00FF00001028] →
       ∃ w, runs (.ld d b 0 6 false) s (written { reached s e with fresh := s.fresh + 1 } d w))) ∧
  (∀ (v b : XReg) (s : State) (pa : Nat) (e : Option TlbEnt), idle s → (s.getX b).toNat % 8 = 0 → s.locate (s.getX b) .write = .ok (.here pa, e) →
     let x := s.getX v
     let write := fun (f : Service → Service) =>
       runs (.st v b 0 3 false) s { (reached s e).advance with svc := f s.svc }
     (pa = 0x00FF00001000 ∨ pa = 0x00FF00001018 → write id) ∧
     (paKind pa = .reg → pa % 8 = 0 → pa ∉ [0x00FF00001000, 0x00FF00001008, 0x00FF00001010, 0x00FF00001018, 0x00FF00001020, 0x00FF00001028] →
       write id) ∧
     (pa = 0x00FF00001008 → s.svc.upd = 1 → write fun r => { r with rej := true }) ∧
     (pa = 0x00FF00001010 → s.th.pl ≠ 3 → write id) ∧
     (pa = 0x00FF00001010 → s.th.pl = 3 → s.svc.updBundle = none → write fun r => { r with hbeat := x.setWidth 32 }) ∧
     (pa = 0x00FF00001020 → write fun r =>
       let w := x.toNat % 4096
       { r with pwrcap := if w < 800 ∨ 2000 < w then r.pwrcap else BitVec.ofNat 12 w }) ∧
     (pa = 0x00FF00001028 → write fun r => { r with rasring := x &&& 0xFFFFFFFFFFFFFFC0 }))

/-- R208, R212: as queued writes of a tile reach their homes, its own ones or those to some bytes, what its threads read stays the same;
then none of its own is queued, and those bytes stand at their homes as it reads them.

R209, R213: a fence of an agent that has nothing to wait for completes: its writes stand at the scope named, at hall scope in the
hall's write buffer, and it waits for what is under way. -/
def Obligations.Fences : Prop :=
  (∀ (s : State) (pa n : Nat), mapsLegal s → queuesWhole s →
     (∀ a, byteAt s.drainOwn a = byteAt s a) ∧ s.drainOwn.th = s.th ∧
     (∀ h i, s.th.place = some (h, i) →
       ∀ w ∈ (s.drainOwn.tile h i).stores ++ (s.drainOwn.hall h).buffer, w.tid ≠ s.th.tid) ∧
     (∀ a, byteAt (s.drainAt pa n) a = byteAt s a) ∧ (s.drainAt pa n).th = s.th ∧
     ∀ a, pa ≤ a → a < pa + n → memByte (s.drainAt pa n).mem a = byteAt s a) ∧
  (∀ (sc : BitVec 8) (s : State),
     (s.th.windowAway = false → s.th.frozen = false →
       (s.th.window.any fun e => !e.complete && e.accesses) = true ∨ s.openSerials true = true → runs (.fence sc) s { s with stalled := true }) ∧
     (quiet s →
     (sc = 1 → runs (.fence sc) s s.advance) ∧ (sc = 2 → runs (.fence sc) s s.toHall.advance) ∧
     (sc = 3 ∨ sc = 4 → runs (.fence sc) s s.drainOwn.advance) ∧
     (∀ h i, s.th.place = some (h, i) → mapsLegal s → (∀ a, byteAt s.toHall a = byteAt s a) ∧ s.toHall.mem = s.mem ∧
       ∃ l, (s.toHall.hall h).buffer = (s.hall h).buffer ++ l ∧ (∀ w ∈ (s.toHall.tile h i).stores, w.tid ≠ s.th.tid) ∧
         ∀ w, w ∈ (s.tile h i).stores ↔ w ∈ l ∨ w ∈ (s.toHall.tile h i).stores)))

/-- R150, R152: `linit` and `larm` change the landing word's four fields and no other byte.

R152, R153: `lread` reads gen and count; `lwait` returns gen, as an acquire, once it differs from what is waited on, else it waits
uncommitted. -/
def Obligations.LandingWords : Prop :=
  (∀ (l g : XReg) (s : State) (pa : Nat) (e : Option TlbEnt), idle s → mapsLegal s → queuesWhole s → (s.getX l).toNat % 16 = 0 →
     located s (s.getX l) .both pa e → s.touchesBad pa 16 = false →
     let w := landing s pa
     let v := (s.getX g).toNat % 2 ^ 32
     let sticky := w.flags / 2 % 4 * 2
     let done := fun (i : Instr) (after : LWord) => ∃ t, runs i s t ∧ landing t pa = after ∧ keepsBytes s t pa 16 ∧ keepsX s t [] ∧ passed s t ∧
       scalarOnly s t
     done (.linit l g) { count := 0, target := 0, gen := v, flags := 0 } ∧
     done (.larm l g) (if v ≤ w.count then
         { count := w.count - v, target := 0, gen := (w.gen + 1) % 2 ^ 32, flags := if v < w.count then sticky ||| 2 else sticky }
       else { count := w.count, target := v, gen := w.gen, flags := sticky + 1 })) ∧
  (∀ (d l g : XReg) (s : State) (pa : Nat) (e : Option TlbEnt), idle s → mapsLegal s → (s.getX l).toNat % 16 = 0 →
     located s (s.getX l) .both pa e → s.touchesBad pa 16 = false →
     let w := landing s pa
     let v := (s.getX g).toNat % 2 ^ 32
     runs (.lread d l) s (written ((reached s e).drainAt pa 16) d (BitVec.ofNat 64 (w.gen * 2 ^ 32 + w.count))) ∧
     (w.gen ≠ v → runs (.lwait d l g) s (written (acquired ((reached s e).drainAt pa 16)) d (BitVec.ofNat 64 w.gen))) ∧
     (w.gen = v → runs (.lwait d l g) s { (reached s e).drainAt pa 16 with stalled := true }))

/-- R217: a `rel` of an agent that has nothing under way counts the release in the object at once: `seq`, the thread's identity, and the
widest scope among its own and the object's bindings; nothing else of memory changes. Under R219 the table is read after the wait. Where
another thread's store to the object is on its way, its fields are left open (R214; log entry 63).

R218: `acq` returns `seq` as an acquire once it is at least x[min], else it waits uncommitted. Where another thread's store to the object
is on its way, its fields are left open (R214; log entry 63). -/
def Obligations.SyncObjects : Prop :=
  (∀ (obj : XReg) (sc : BitVec 8) (s : State) (pa : Nat) (e : Option TlbEnt), idle s → mapsLegal s → queuesWhole s → (s.getX obj).toNat % 16 = 0 →
     located s (s.getX obj) .both pa e → s.touchesBad pa 16 = false →
     let u := released s.th.rc (reached s e)
     let scopes := (u.bindings.filter fun b => b.2.obj = s.getX obj).map fun b => b.2.scope
     ∃ t, runs (.rel obj sc) s t ∧ (u.writeUnderway pa 16 = false → wordAt t pa 8 = (wordAt s pa 8 + 1) % 2 ^ 64 ∧
       wordAt t (pa + 8) 4 = (s.th.ident.setWidth 32).toNat ∧ wordAt t (pa + 12) 4 = scopes.foldl max sc.toNat) ∧
       keepsBytes s t pa 16 ∧ keepsX s t [] ∧ passed s t ∧ scalarOnly s t) ∧
  (∀ (d obj low : XReg) (sc : BitVec 8) (s : State) (pa : Nat) (e : Option TlbEnt), s.th.window = [] → s.openSerials true = false →
     mapsLegal s → queuesWhole s → (s.getX obj).toNat % 16 = 0 → located s (s.getX obj) .both pa e → s.touchesBad pa 8 = false →
     let seq := wordAt s pa 8
     let u := (reached s e).drainAt pa 16
     let waiting := fun (a : Option Await) => { u with th := { u.th with await := a } }
     ((reached s e).writeUnderway pa 16 = false →
       ((s.getX low).toNat ≤ seq →
         runs (.acq d obj low sc) s (written (acquired (released s.th.rc (waiting none))) d (BitVec.ofNat 64 seq))) ∧
       (seq < (s.getX low).toNat →
         runs (.acq d obj low sc) s { waiting (some (.object s.th.pc pa)) with stalled := true })) ∧
     ((reached s e).writeUnderway pa 16 = true → ∃ t, runs (.acq d obj low sc) s t ∧ keepsBytes s t pa 16 ∧ keepsX s t [d]))

/-- R216: `bind` gives the binding of the same object and region the new scope, or takes the lowest free entry of the context's table; a
65th binding raises PROT, and a region that is empty or too long ILL. `unbind` frees every binding of the object.

R284: an entry of the binding table that is written reads back: its object, region and scope where it is valid, else as free. -/
def Obligations.Bindings : Prop :=
  (∀ (obj base len : XReg) (sc : BitVec 8) (s : State) (pa : Nat) (e : Option TlbEnt), trapReady s → (s.getX obj).toNat % 16 = 0 →
     located s (s.getX obj) .both pa e →
     let b : Binding := { obj := s.getX obj, base := s.getX base, len := s.getX len, scope := sc.toNat }
     let r := reached s e
     let same := s.bindings.find? fun x => x.2.obj = b.obj && x.2.base = b.base && x.2.len = b.len
     let free := (List.range 64).find? fun i => (s.bindingAt i).isNone
     (b.len = 0 ∨ 2 ^ 56 < b.base.toNat + b.len.toNat → traps (.bind obj base len sc) s cILL s.codeVal) ∧
     (b.len ≠ 0 → b.base.toNat + b.len.toNat ≤ 2 ^ 56 →
       (∀ x, same = some x → runs (.bind obj base len sc) s (r.putBinding x.1 b true).advance) ∧
       (∀ i, same = none → free = some i → runs (.bind obj base len sc) s (r.putBinding i b true).advance) ∧
       (same = none → free = none → exec (.bind obj base len sc) s = .next (r.trap cPROT b.obj))) ∧
     runs (.unbind obj sc) s
       ((s.bindings.filter fun x => x.2.obj = s.getX obj).foldl (fun t x => t.putBinding x.1 x.2 false) r).advance) ∧
  (∀ (s : State) (i pa : Nat) (b : Binding) (v : Bool), mapsLegal s → s.bindEntry i = some pa → b.scope < 256 →
     (s.putBinding i b v).bindEntry i = some pa →
       (s.putBinding i b v).bindingAt i = if v then some b else none)

/-! ### Copies, launches, graphs, the fabric, cursors, save areas (spec/09, spec/13, spec/15, spec/16 R287, R288) -/

/-- R172, R220: a copy instruction whose command and landing word can be read is queued with its units in x[d], what is queued on the thread's
way having reached its home; or it is refused with its status in the block and 0 in x[d].

R175, R177: the block of a `cpy` or `cpy2d` that is refused with status 0x01, and the bytes that a good one moves: of one issued at M, whose
addresses are taken as physical ones (the model's choice, log entry 11). -/
def Obligations.CopyIssue : Prop :=
  (∀ (d p l : XReg) (s s1 s2 : State) (params : List Byte) (w : Loc), idle s →
     (∀ h i, s.th.place = some (h, i) → (s.xfers.filter fun x => x.place = s.th.place).length < 64) →
     (s.getX p).toNat % 16 = 0 → (s.getX l).toNat % 16 = 0 →
     ∀ c ∈ [(Instr.cpy d p l, XferKind.cpy), (.cpy2d d p l, .cpy2d), (.sxfer d p l, .sxfer), (.mdec d p l, .mdec), (.nxfer d p l, .nxfer)],
       (c.2 = .sxfer → s.th.featen0.getLsbD 4 = true) → (c.2 = .mdec → s.th.featen0.getLsbD 3 = true) →
       readOwn (s.getX p) (s.getX p) (blockSize c.2 / 16) s.drainOwn = .ok (params, s1) → xlate (s.getX l) .both s1 = .ok (w, s2) →
       let x := { s2.th.newXfer c.2 (s.getX p) (s.getX l) with params := params }
       (∀ u, s2.issueOf x = .ready u → runs c.1 s (written (s2.drainWay.queueXfer x u) d (BitVec.ofNat 64 u))) ∧
       (∀ st, s2.issueOf x = .refused st →
         runs c.1 s (written { s2.writeBlock x (statusOffset c.2) (leBytes 4 st) with fresh := s2.fresh + 1 } d 0))) ∧
  (∀ (s : State) (x : Xfer) (pa pb : Nat), x.pl = 3 → x.node = none → (x.dstAddr 0).toNat = pa → pa < 0x006000000000 → x.lword.toNat = pb → pb < 0x006000000000 →
     (x.kind = .cpy →
       (x.field 16 8 = 0 ∨ 2 ^ 40 < x.field 16 8 ∨ x.field 32 4 / 16 ≠ 0 → s.issueOf x = .refused 0x01) ∧
       (x.field 16 8 ≠ 0 → x.field 16 8 ≤ 2 ^ 40 → x.field 32 4 = 0 → x.field 24 8 = 0 → s.issueOf x = .ready (x.field 16 8))) ∧
     (x.kind = .cpy2d →
       (x.field 16 4 = 0 ∨ x.field 20 4 = 0 ∨ 2 ^ 24 < x.field 16 4 ∨ 2 ^ 24 < x.field 20 4 → s.issueOf x = .refused 0x01) ∧
       (0 < x.field 16 4 → x.field 16 4 ≤ 2 ^ 24 → 0 < x.field 20 4 → x.field 20 4 ≤ 2 ^ 24 → x.field 40 4 = 0 → x.field 56 8 = 0 →
         s.issueOf x = .ready (x.field 16 4 * x.field 20 4))))

/-- R263: `lpost` accepts a good packet for a queue with room, whose count of accepted packets goes to x[d], or answers with the code of
the first refusal. -/
def Obligations.LaunchPost : Prop :=
  ∀ (d p q : XReg) (s t : State) (b : List Byte), idle s → (s.getX q).toNat < 64 → (s.getX p).toNat % 16 = 0 →
    readOwn (s.getX p) (s.getX p) 8 s.drainOwn = .ok (b, t) → mayPost t (packetOf b) (some (s.getX q).toNat) = true →
    let n := (s.getX q).toNat
    let answer := fun (c : Nat) => runs (.lpost d p q) s (written t d (BitVec.ofNat 64 (2 ^ 63 + c)))
    let pk := packetOf b
    (packetBad b = true → answer 0x01) ∧
    (packetBad b = false → ∀ c, t.packetRefusal t.th.ctx pk = some c → answer c) ∧
    (packetBad b = false → t.packetRefusal t.th.ctx pk = none → 256 ≤ (t.waitingIn n).length → answer 0x02) ∧
    (packetBad b = false → t.packetRefusal t.th.ctx pk = none → (t.waitingIn n).length < 256 →
      let a := (t.queue n).accepted + 1
      let l := t.newLaunch pk (pk.context t.th.ctx) (pk.places fun _ _ => true) none false
      runs (.lpost d p q) s (written
        ((t.addLaunch l).setQueue n { packets := (t.waitingIn n).map (·.id) ++ [l.id], accepted := a }) d (BitVec.ofNat 64 (a % 2 ^ 32))))

/-- R272: `gwait` answers with the status byte of a generation that has ended, 0xFF for one that ended more than 8 generations ago, as an
acquire; it waits for one that has not.

R270: `glaunch` of a graph whose records are good starts its next generation: `issued` advances and x[d] holds it. A bad header is refused
with code 0x01 and node 0, as log entry 38 reads the rule. -/
def Obligations.Graphs : Prop :=
  (∀ (d g n : XReg) (s t : State) (h : List Byte), (s.getX g).toNat % 64 = 0 → readOwn (s.getX g) (s.getX g) 4 s = .ok (h, t) →
     let k := (s.getX n).toNat % 2 ^ 32
     let ahead := (fieldAt h 12 4 + 2 ^ 32 - k) % 2 ^ 32
     (ahead < 8 → runs (.gwait d g n) s (written (acquired t) d (BitVec.ofNat 64 (fieldAt h (16 + k % 8) 1)))) ∧
     (8 ≤ ahead → ahead < 2 ^ 31 → runs (.gwait d g n) s (written (acquired t) d 0xFF)) ∧
     (2 ^ 31 ≤ ahead → runs (.gwait d g n) s { t with stalled := true })) ∧
  (∀ (d g : XReg) (s s1 s2 s3 : State) (w : Loc) (h : List Byte) (recs : List (List Byte)), idle s → (s.getX g).toNat % 64 = 0 →
     xlate (s.getX g) .both s.drainOwn = .ok (w, s1) → readOwn (s.getX g) (s.getX g) 4 s1 = .ok (h, s2) →
     let a := s.getX g
     let issued := fieldAt h 8 4
     let nodes := recs.map nodeOf
     let full := (issued + 2 ^ 32 - fieldAt h 12 4) % 2 ^ 32 = 8
     let tiled := fun (f : Packet → Bool) => nodes.all fun n => n.cls != 0 || f (packetOf n.packet)
     (fieldAt h 0 2 = 0 ∨ 1024 < fieldAt h 0 2 ∨ fieldAt h 2 6 ≠ 0 → ¬full → runs (.glaunch d g) s (written s2 d (BitVec.ofNat 64 (2 ^ 63 + 1)))) ∧
     (0 < fieldAt h 0 2 → fieldAt h 0 2 ≤ 1024 → fieldAt h 2 6 = 0 → fieldAt h 24 40 = 0 →
       readRecordsAt a (a + 64) (fieldAt h 0 2) s2 = .ok (recs, s3) → ¬full → (∀ b ∈ recs, recordBad (fieldAt h 0 2) b = false) →
       onCycle nodes = [] → (∀ n ∈ nodes, mayPost s3 (packetOf n.packet) none = true) →
       tiled (fun p => s3.packetRefusal s3.th.ctx p = none) = true → s3.sched.pool.length < 4096 →
       s3.snapshotUsed + fieldAt h 0 2 ≤ 8192 →
         ∃ t, runs (.glaunch d g) s t ∧ t.getX d = (if d = 0 then 0 else BitVec.ofNat 64 ((issued + 1) % 2 ^ 32)) ∧ passed s t ∧
           keepsX s t [d] ∧ ∃ z : Gen, t.sched.gens = s3.sched.gens ++ [z] ∧ z.addr = a ∧ z.ctx = s3.th.ctx ∧
             z.g = BitVec.ofNat 32 (issued + 1) ∧ z.nodes = nodes ∧ z.failed = false ∧ ∀ x ∈ z.st, x = .waiting))

/-- R104: `exit` of a thread that has nothing under way ends it: its registers' space, cursors and fabric are free, and one unit arrives
at its launch's completion landing word. -/
def Obligations.ThreadExit : Prop :=
  ∀ (s : State), idle s → s.drainOwn = s → (s.fabric.runs.any fun r => r.tid = s.th.tid) = false →
    ∃ t, runs .exit s t ∧ t.th.run = .exited ∧ t.th.part = none ∧ t.th.window = [] ∧ (∀ c, (t.th.cursor c).isOpen = false) ∧
      (∀ p ∈ t.halls, p.2.fabric.owner ≠ some s.th.tid) ∧ (∀ p ∈ t.tiles, ∀ n : Fin 8, p.2.z[n].holder ≠ some s.th.tid) ∧
      (∀ l pa, s.launch s.th.launch = some l → l.pkt.done ≠ 0 → s.paOf l.ctx 1 l.pkt.done .both = some pa → s.touchesBad pa 16 = false →
        t.mem = memWrite s.mem pa (lwBytes (lwArrive (lwOf (memRead s.mem pa 16)) 1))) ∧
      (s.launch s.th.launch = none → t.mem = s.mem)

/-- R234: `fcfg` of a free fabric whose image can be read and passes its checks takes the fabric: its records stand in it, the iteration
counter is 0 and carried edges hold their initial tokens.

R234: `fcfg (x0)` releases the fabric of its owner once its runs have completed, and does nothing for another thread.

R239: `frun` of the fabric's owner is posted: x[d] holds the index of its first iteration, and the output registers have new versions
whose first elements are to come. -/
def Obligations.FabricInstructions : Prop :=
  (∀ (a : XReg) (s s1 s2 : State) (h i : Nat) (hd : List Byte) (recs : List (BitVec 64)) (nn ne nb : Nat),
     s.th.place = some (h, i) → s.th.featen0.getLsbD 0 = true → keysRise s.halls = true → s.fabric.owner = none → s.fabric.waiters = [] →
     (s.getX a).toNat % 16 = 0 →
     readRecord s.fabric (s.getX a) (s.getX a) 16 (s.setFabric { Fabric.free with owner := some s.th.tid }) = .ok (hd, s1) →
     headerCounts (BitVec.ofNat 128 (leNat hd)) = some (nn, ne, nb) → headerBad (BitVec.ofNat 128 (leNat hd)) = false →
     readRecords s.fabric (s.getX a) (s.getX a + 16) (nn + ne + nb) s1 = .ok (recs, s2) →
     let nodes := recs.take nn
     let edges := (recs.drop nn).take ne
     let binds := recs.drop (nn + ne)
     imageErrors nodes edges binds = [] →
       ∃ t, runs (.fcfg a) s t ∧ passed s t ∧ keepsX s t [] ∧ t.fabric.owner = some s.th.tid ∧ t.fabric.img = s.getX a ∧
         t.fabric.nodes = nodes ∧ t.fabric.edges = edges ∧ t.fabric.binds = binds ∧ t.fabric.counter = 0 ∧ t.fabric.runs = [] ∧
         t.fabric.tokens = edges.map (fun e => if e.getLsbD 31 then e.extractLsb' 32 32 else 0)) ∧
  (∀ (s : State), s.th.isCore = false → s.th.featen0.getLsbD 0 = true →
     let busy := (s.fabric.runs.any fun r => r.tid = s.th.tid)
     (s.fabric.owner ≠ some s.th.tid → runs .fcfgRelease s s.advance) ∧
     (s.fabric.owner = some s.th.tid → busy = false →
       ∃ t, runs .fcfgRelease s t ∧ t.fabric.owner = none ∧ passed s t ∧ keepsX s t [] ∧ t.mem = s.mem) ∧
     (s.fabric.owner = some s.th.tid → busy = true → runs .fcfgRelease s { s with stalled := true })) ∧
  (∀ (d n : XReg) (s : State),
     let f := s.fabric
     let count := (s.getX n).toNat
     s.th.featen0.getLsbD 0 = true → f.owner = some s.th.tid → count ≤ 2 ^ 40 → ((f.binds.any fun b => bindKind b ≤ 1) = true → count ≤ s.th.vl) →
     let outs := outputTags (atPost s) f
     tagged s (inputTags f) → groupsKnown s f = true → postable s (outs.map (·.1)) [] → keysRise s.halls = true →
       let first := f.counter + (f.runs.map (·.count)).sum
       ∃ t, runs (.frun d n) s t ∧ t.getX d = (if d = 0 then 0 else BitVec.ofNat 64 first) ∧ keepsX s t [d] ∧ passed s t ∧
         t.fabric.runs = f.runs ++ [{ tid := s.th.tid, post := s.th.posts + 1, n0 := first, count := count, j := 0, fired := [],
                                      fault := none, coll := [], ahead := [] }] ∧
         (∃ e, t.th.window = (atPost s).window ++ [e] ∧ e.instr = .frun d n ∧ e.xs = [s.getX n, 0, 0] ∧ e.post = s.th.posts + 1) ∧
         (∀ r, r ∉ outs.map (·.1) → t.th.partOr.vreg r = (atPost s).partOr.vreg r) ∧
         ((outs.map (·.1)).Nodup → ∀ p ∈ outs,
           t.th.partOr.vreg p.1 = ((atPost s).partOr.vreg p.1).openBy (s.th.posts + 1) p.2 (List.range count) []))

/-- R248, R249: opening, closing and seeking a cursor that no merge holds: a closed cursor is ILL to seek; a seek stops at the first key
that is not below x[key], or at the end.

R73, R250: `smatch` of two open cursors is posted with their positions; both destinations are to come, under the tag i32. -/
def Obligations.Cursors : Prop :=
  (∀ (c : BitVec 2) (d b n : XReg) (k64 : Bool) (s : State), s.th.isCore = false → s.th.featen0.getLsbD 1 = true → s.th.cursorBusy c = false →
     let u := s.th.cursor c
     ((s.getX b).toNat % (if k64 then 8 else 4) = 0 → (s.getX n).toNat < 2 ^ 31 →
       runs (.sopen c b n k64) s { s with th := (s.th.setCursor c
         { base := s.getX b, len := (s.getX n).toNat, pos := 0, isOpen := true, k64 := k64, win := [] }).advance }) ∧
     runs (.sclose c) s { s with th := (s.th.setCursor c { u with isOpen := false }).advance } ∧
     (u.isOpen = true → u.len ≤ u.pos → runs (.sseek d c n) s (written s d (BitVec.ofNat 64 u.pos))) ∧
     (u.isOpen = true → u.pos < u.len → ∀ k r, u.win = k :: r → s.getX n ≤ k → runs (.sseek d c n) s (written s d (BitVec.ofNat 64 u.pos))) ∧
     (u.isOpen = true → u.pos + 1 = u.len → ∀ k, u.win = [k] → k < s.getX n →
       runs (.sseek d c n) s (written { s with th := s.th.setCursor c { u with pos := u.len, win := [] } } d (BitVec.ofNat 64 u.len))) ∧
     (u.isOpen = false → trapReady s → traps (.sseek d c n) s cILL s.codeVal)) ∧
  (∀ (d : XReg) (va vb : VReg) (ca cb : BitVec 2) (s : State), s.th.featen0.getLsbD 1 = true → ca ≠ cb → va ≠ vb →
     (s.th.cursor ca).isOpen = true → (s.th.cursor cb).isOpen = true → postable s [va, vb] [] →
       ∃ t, runs (.smatch d va vb ca cb) s t ∧ t = { s with th := t.th } ∧ passed s t ∧
         (let at' := [BitVec.ofNat 64 (s.th.cursor ca).pos, BitVec.ofNat 64 (s.th.cursor cb).pos]
          postedAs { s.th.newEntry (.smatch d va vb ca cb) [0, 0, 0] with eng := at', held := none } s t) ∧
         opensV s t [va, vb] 2 (List.range s.th.vl) [] ∧ opensK s t [] [] [])

/-- R287: `vsave` writes the partition that the slot's space holds into the area, or marks an area without one; it waits while a unit of
the window is under way.

R281, R282, R287: the area after a partition has been saved into it: header, registers with the elements that are present, masks, z tiles
that the thread holds, and the window's entries. `ver` is written 1 (the model's choice, log entry 76).

R76, R288: `vrest (x0)`, and an area that holds no partition, give the thread a partition at its start; an area that holds one restores it,
for the same context and identity, and under another grant where its window is empty; else it traps with the partition at its start. An area
on another device's page is refused with nothing changed (R300), and one that touches an uncorrectable unit ends the context (R341). It
waits until the tile's w and q may pass to its context.

R282, R288: the partition that an area gives back: its entries, and of a register without a second version its tag and the elements that
the presence map names. -/
def Obligations.SaveAndRestore : Prop :=
  (∀ (a : XReg) (s : State), s.th.isCore = false → s.th.pl ≠ 0 → (s.getX a).toNat % 4096 = 0 → areaHere s (s.getX a) .write →
     (∀ o, s.partOwner = some o → s.windowBusy o = false → runs (.vsave a) s (s.drainOwn.savePart s.th.ctx (s.getX a) o).advance) ∧
     (∀ o, s.partOwner = some o → s.windowBusy o = true → runs (.vsave a) s { s with stalled := true }) ∧
     (s.partOwner = none →
       runs (.vsave a) s ((s.drainOwn.areaFlag s.th.ctx (s.getX a) 1 false).areaFlag s.th.ctx (s.getX a) 2 false).advance)) ∧
  (∀ (s : State) (c : BitVec 32) (base : Word) (pb : Nat) (o : Thread), areaStands s c base pb → s.badUnit = [] → s.mem.wf = true →
     o.grant ≤ 1024 → o.grant % 8 = 0 → o.window.length ≤ 32 →
     let t := s.savePart c base o
     let at' := fun (off n : Nat) => leNat (memRead t.mem (pb + off) n)
     let bit := fun (off e : Nat) => at' (off + e / 8) 1 / 2 ^ (e % 8) % 2
     let tile := match o.place with
       | some (h, i) => s.tile h i
       | none => Tile.fresh
     (∀ a, ¬(pb ≤ a ∧ a < pb + 0x64000) → memByte t.mem a = memByte s.mem a) ∧
     at' 0 4 = 1 ∧ at' 4 2 / 2 % 4 = 3 ∧ at' 6 2 = o.grant ∧ at' 8 4 = o.ctx.toNat ∧ at' 12 4 = o.ident.toNat % 2 ^ 32 ∧ at' 0x11 1 = o.window.length ∧
     (∀ n < 32,
       let r := o.partOr.vreg (BitVec.ofNat 5 n)
       at' (0x63000 + n) 1 % 16 = r.new.tag.toNat ∧ ∀ e < o.grant, bit (0x60000 + 128 * n) e = (if r.new.present e then 1 else 0) ∧
         (r.new.present e = true → at' (0x20000 + 0x1000 * n + 4 * e) 4 = (sget 0 r.new.data e).toNat)) ∧
     (∀ m, 0 < m → m < 8 →
       let r := o.partOr.kreg (BitVec.ofNat 3 m)
       ∀ e < o.grant, bit (0x62800 + 256 * m) e = (if r.new.present e then 1 else 0) ∧
         (r.new.present e = true → bit (0x62000 + 256 * m) e = if sget false r.new.bits e then 1 else 0)) ∧
     (∀ n < 8, (tile.zAt n).holder = some o.tid → (tile.zAt n).dropped = false →
       ∀ i < 32, ∀ j < 64, at' (0x8000 + 0x2000 * n + 4 * (64 * i + j)) 4 = (tile.zAt n).get i j % 2 ^ 32) ∧
     (∀ i e, o.window[i]? = some e → memRead t.mem (pb + 0x1100 + 640 * i) 640 = entryBytes e)) ∧
  (∀ (a : XReg) (s : State), quiet s → s.th.isCore = false → s.th.pl ≠ 0 →
     let s0 := s.drainOwn
     let base := s.getX a
     let f := fun (off n : Nat) => s0.areaField s.th.ctx base off n
     let may := ∀ h i, s.th.place = some (h, i) → s0.passable h i s.th.ctx = true
     let mine := f 8 4 = s.th.ctx.toNat ∧ f 12 4 = s.th.ident.toNat % 2 ^ 32
     let anew := ∃ t, runs (.vrest a) s t ∧ t.th.part = some Part.start ∧ t.th.window = [] ∧ keepsX s t [] ∧ passed s t
     (∀ h i, s.th.place = some (h, i) → s0.passable h i s.th.ctx = false → runs (.vrest a) s { s0 with stalled := true }) ∧
     (may → base = 0 → anew) ∧
     (may → base ≠ 0 → areaHere s0 base .read →
       (∀ pa, s0.areaBad s.th.ctx base = some pa → exec (.vrest a) s = .next (s0.dabort (some pa))) ∧
       (s0.areaBad s.th.ctx base = none →
       (f 4 2 / 2 % 2 = 0 → anew) ∧
       (f 4 2 / 2 % 2 = 1 → ¬mine → exec (.vrest a) s = .next (s0.freshPart.trapOrWait cPROT base)) ∧
       (f 4 2 / 2 % 2 = 1 → mine → f 6 2 ≠ s.th.grant → f 0x11 1 ≠ 0 → exec (.vrest a) s = .next (s0.freshPart.trapOrWait cILL base)) ∧
       (f 4 2 / 2 % 2 = 1 → mine → f 6 2 ≠ s.th.grant → f 0x11 1 = 0 →
         runs (.vrest a) s ((s0.restorePart base [] false (s0.notesOf base)).passAtVrest (some base)).advance) ∧
       (f 4 2 / 2 % 2 = 1 → mine → f 6 2 = s.th.grant →
         (∀ l, s0.readEntries base (min (f 0x11 1) 32) = some l →
           runs (.vrest a) s ((s0.restorePart base l true (s0.notesOf base)).passAtVrest (some base)).advance) ∧
         (s0.readEntries base (min (f 0x11 1) 32) = none → exec (.vrest a) s = .next (s0.freshPart.trapOrWait cILL s0.codeVal))))) ∧
     (may → base ≠ 0 → ∀ c va, s0.areaFault base .read (areaPages base) = some (c, va, false) → exec (.vrest a) s = .next (s0.trapOrWait cPROT base))) ∧
  (∀ (s : State) (base : Word) (k : Nat) (l : List Entry), s.readEntries base k = some l →
     let t := s.restorePart base l true (s.notesOf base)
     let f := fun (off n : Nat) => s.areaField s.th.ctx base off n
     let bit := fun (off e : Nat) => f (off + e / 8) 1 / 2 ^ (e % 8) % 2
     l.length = k ∧ t.th.window.length = k ∧ t.th.pc = s.th.pc ∧ keepsX s t [] ∧
     (∀ i e, l[i]? = some e →
       let g := fun (off n : Nat) => f (0x1100 + 640 * i + off) n
       decode { head := BitVec.ofNat 16 (g 8 2), tail := BitVec.ofNat 64 (g 16 8) } = .ok e.instr ∧ e.pc = BitVec.ofNat 64 (g 0 8) ∧ e.vl = g 10 2 ∧
       e.vtype = BitVec.ofNat 8 (g 12 1) ∧ e.frm = BitVec.ofNat 2 (g 13 1) ∧ e.prog = g 56 8 ∧ e.xs = (List.range 4).map (fun j => BitVec.ofNat 64 (g (24 + 8 * j) 8)) ∧
       (∀ u < 1024, u ∈ e.done ↔ bit (0x1100 + 640 * i + 128) u = 1) ∧ (vamoKey e.instr ≠ none → ∀ u < 1024, u ∈ e.indet ↔ bit (0x1100 + 640 * i + 256) u = 1)) ∧
     (∀ n < 32, f (0x63020 + n) 1 / 2 ^ twoBit n % 2 = 0 →
       let r := t.th.partOr.vreg (BitVec.ofNat 5 n)
       r.old = none ∧ r.new.tag.toNat = f (0x63000 + n) 1 % 16 ∧ ∀ e < s.th.grant / 8 * 8, bit (0x60000 + 128 * n) e = 1 →
         r.new.elem e = some (BitVec.ofNat 32 (f (0x20000 + 0x1000 * n + 4 * e) 4))) ∧
     (∀ m, 0 < m → m < 8 → f (0x63028 + m) 1 % 2 = 0 →
       let r := t.th.partOr.kreg (BitVec.ofNat 3 m)
       r.old = none ∧ ∀ e < s.th.grant / 8 * 8, bit (0x62800 + 256 * m) e = 1 → r.new.elem e = some (decide (bit (0x62000 + 256 * m) e = 1))) ∧
     (∀ h i, s.th.place = some (h, i) → ∀ n ∈ s.th.heldZ, let z := (t.tile h i).zAt n
       z.holder = some s.th.tid ∧ (f (0x63030 + n) 1 / 2 % 4 = 2 → ∀ i < 32, ∀ j < 64, z.get i j = f (0x8000 + 0x2000 * n + 4 * (64 * i + j)) 4)))

/-! ### Posting vector, mask and tile instructions (spec/04 R64–R73, spec/06, spec/07, spec/09 R156–R170, spec/10) -/

/-- R65, R69, R107, R110: an instruction of majors 0x30–0x38 with a vector or mask destination is posted; its destination has a new
version under its tag whose elements are to come, but for those masked off. The elements that `vslideup` keeps are done with it (R132). -/
def Obligations.VectorPost : Prop :=
  ∀ (i : Instr) (ma mi : Nat) (o : VOp) (s : State), vkey i = some (ma, mi, o) → ma ≠ 0x64 → toX ma mi o = false → i.WellFormed →
    postable s (vUse ma mi o).vw (vUse ma mi o).kw → tagged s (vSources ma mi o) → (isBx o.et = true → s.th.featen0.getLsbD 2 = true) →
    ¬(ma = 0x33 ∧ mi ≠ 2 ∧ o.vs1.getLsbD 0 = true ∧ is64 (s.th.tagOf o.vs1) = true) →
      let xs := match o.src2 with
        | .x r => [s.getX r]
        | _ => []
      let slides := ma = 0x35 ∧ mi = 0
      let off := if masksElements ma mi then offAtPost s o.k s.th.vl else []
      let absent := (vAbsent ma mi o s.th.vl (slideOff o xs) fun e => !o.zm || (atPost s).kElem (s.th.posts + 1) o.k e = some true).filter
        fun e => e ∉ off
      let zeroed := if o.zm then off else []
      ∃ t, runs i s t ∧ t = { s with th := t.th } ∧ passed s t ∧ posted i s t xs (if slides then others s.th.vl absent else off) ∧
        opensV s t (vUse ma mi o).vw (dstTag ma mi o ((atPost s).tagOf o.vs1)) absent zeroed ∧ opensK s t (vUse ma mi o).kw absent zeroed

/-- R127: an instruction of majors 0x34, 0x36 and 0x37 whose result goes to an x register is posted and waits, uncommitted, for its
result; where elements fire by events the wait is one step, and it commits once its entry is complete.

R130, R137: where elements fire at once and the sources are present, `kfirst`, `kcount`, `vmvxs` and `vextract` complete with their
value in x[d]. -/
def Obligations.ScalarResults : Prop :=
  (∀ (i : Instr) (ma mi : Nat) (o : VOp) (s : State), vkey i = some (ma, mi, o) → toX ma mi o = true → i.WellFormed → s.policy.fire = false →
     s.th.isCore = false → s.th.frozen = false → (∀ e ∈ s.th.window, e.post ≤ s.th.posts) →
     ((∀ e ∈ s.th.window, e.pc = s.th.pc → e.instr = i → e.complete = true) → (∀ q p, s.th.await ≠ some (.entry q p)) →
       postable s [] [] → tagged s (vSources ma mi o) → (isBx o.et = true → s.th.featen0.getLsbD 2 = true) →
         ∃ t, runs i s t ∧ t.stalled = true ∧ t.th.pc = s.th.pc ∧ t.th.await = some (.entry s.th.pc (s.th.posts + 1)) ∧ keepsX s t [] ∧
           t.th.window.length = (atPost s).window.length + 1) ∧
     ((∀ e ∈ s.th.window, e.pc = s.th.pc → e.instr = i → e.complete = true) → ∀ p, s.th.await = some (.entry s.th.pc p) →
       runs i s { s with th := { s.th with await := none }.advance })) ∧
  (∀ (i : Instr) (ma mi : Nat) (o : VOp) (s : State), vkey i = some (ma, mi, o) → (ma = 0x36 ∧ (mi = 8 ∨ mi = 9)) ∨ (ma = 0x37 ∧ (mi = 3 ∨ mi = 6)) →
     i.WellFormed → s.policy.fire = true → s.th.window = [] → s.th.await = none → s.th.unchecked = [] → s.th.run = .running → postable s [] [] →
     (isBx o.et = true → s.th.featen0.getLsbD 2 = true) → tagged s (vSources ma mi o) →
     let t0 := atPost s
     let p := s.th.posts + 1
     let bit := fun (k : KReg) (e : Nat) => t0.kElem p k e
     let ka : KReg := o.vs1.setWidth 3
     let gives := fun (v : Word) => ∃ t, runs i s t ∧ t.getX (o.vd.setWidth 6) = (if o.vd = 0 then 0 else v) ∧ keepsX s t [o.vd.setWidth 6] ∧ passed s t
     let hit := fun (e : Nat) => bit o.k e = some true ∧ bit ka e = some true
     let known := ∀ e < s.th.vl, bit o.k e ≠ none ∧ bit ka e ≠ none
     (ma = 0x36 → mi = 8 → known → (∀ e < s.th.vl, hit e → (∀ j < e, ¬hit j) → gives (BitVec.ofNat 64 e)) ∧
       ((∀ e < s.th.vl, ¬hit e) → gives (-1))) ∧
     (ma = 0x36 → mi = 9 → known →
       gives (BitVec.ofNat 64 ((List.range s.th.vl).filter fun e => bit o.k e = some true && bit ka e = some true).length)) ∧
     (ma = 0x37 →
       let j := if mi = 3 then 0 else match o.src2 with
         | .imm n => n.toNat
         | .x r => (s.getX r).toNat
         | .v _ => 0
       (mi = 6 → s.th.vl ≤ j → gives 0) ∧
       ((mi = 3 ∨ j < s.th.vl) → ∀ v, t0.vElem p o.vs1 o.et j = some v →
         gives (if isIntT o.et then (if is64 o.et then BitVec.ofNat 64 v else if widthOf o.et = 32 then (BitVec.ofNat 32 v).signExtend 64
           else if widthOf o.et = 16 then (BitVec.ofNat 16 v).signExtend 64 else (BitVec.ofNat 8 v).signExtend 64) else BitVec.ofNat 64 v))))

/-- R156–R170: vector loads, stores and `vamo` are posted with base, stride and progress-word address snapshotted; a load's or returning
`vamo`'s destination has a new version whose elements are to come, but for those masked off. -/
def Obligations.MemoryPost : Prop :=
  ∀ (i : Instr) (mode : Nat) (o : VMOp) (s : State) (e : Option TlbEnt) (pa : Nat), i.WellFormed →
    postable s (regUse i).vw [] → (isBx o.et = true → s.th.featen0.getLsbD 2 = true) → tagged s (indexTags mode o) →
    (o.nt = true → (s.getX o.aux).toNat % 8 = 0 ∧ s.locate (s.getX o.aux) .write = .ok (.here pa, e)) →
    let xs := [s.getX o.base, if mode = 1 then s.getX o.idx else 0, if o.nt then s.getX o.aux else 0]
    let off := offAtPost s o.k s.th.vl
    let dst := pairOf o.v (is64 o.et)
    let done := fun (t : State) (l : List Nat) => runs i s t ∧ t = { (if o.nt then reached s e else s) with th := t.th } ∧ passed s t ∧
      posted i s t xs l ∧ opensK s t [] [] []
    (loadKey i = some (mode, o) → isBx o.et = false → ∃ t, done t off ∧
      opensV s t dst o.et (others s.th.vl off) (if o.zm then off else [])) ∧
    (loadKey i = some (mode, o) → isBx o.et = true → ∃ t, done t [] ∧ opensV s t dst o.et (List.range ((s.th.vl + 15) / 16 * 16)) []) ∧
    (storeKey i = some (mode, o) → ¬(o.v.getLsbD 0 = true ∧ isBx o.et = true ∧ is64 (s.th.tagOf o.v) = true) → tagged s (storeTags s.th o) → ∃ t, done t (if o.nt then [] else off) ∧ opensV s t [] 0 [] []) ∧
    (∀ m, vamoKey i = some (m, mode, o) → o.r = true → tagged s [(o.aux.setWidth 5, .exact o.et, is64 o.et)] → ∃ t, done t off ∧
      opensV s t dst o.et (others s.th.vl off) (if o.zm then off else [])) ∧
    (∀ m, vamoKey i = some (m, mode, o) → o.r = false → tagged s [(o.v, .exact o.et, is64 o.et)] → ∃ t, done t off ∧ opensV s t [] 0 [] [])

/-- R186–R199: a tile instruction of a thread that holds its z tile is posted and stands at the end of its tile's queue; `tmovr`'s
destination is to come, and `tld` gives its q or w destination the tag it will have. -/
def Obligations.TilePost : Prop :=
  ∀ (s : State) (h n : Nat), s.th.place = some (h, n) → postable s [] [] → 
    let held := fun (z : Nat) => (s.myTile.zAt z).holder = some s.th.tid
    let go := fun (i : Instr) (xs : List Word) (f : Tile → Tile) => ∃ t, runs i s t ∧ passed s t ∧ posted i s t xs [] ∧ opensV s t [] 0 [] [] ∧
      opensK s t [] [] [] ∧ t = { s with th := t.th, tiles := t.tiles } ∧
      t.myTile = { f s.myTile with ox := s.myTile.ox ++ [{ tid := s.th.tid, post := s.th.posts + 1 }] }
    (∀ o : MXOp, held o.z.toNat → (depthOf o (s.getX o.xdep)).isSome = true →
      (s.myTile.qAt (if o.q then 1 else 0)).ptag = lfTag o.lf → (s.myTile.wAt o.w.toNat).ptag = lfTag o.lf →
        go (.tmma o) [s.getX o.xrow, s.getX o.xcol, s.getX o.xdep] id ∧ go (.tmms o) [s.getX o.xrow, s.getX o.xcol, s.getX o.xdep] id) ∧
    (∀ o : VOp, held o.vd.toNat → tagged s (vSources 0x64 0 o) → go (.vopa o) [] id) ∧
    (∀ z : BitVec 3, held z.toNat → go (.tzero z) [0, 0, 0] id) ∧
    (∀ (z : BitVec 3) (v : VReg) (r : XReg), held z.toNat → (s.getX r).toNat < 32 →
      (tagged s [(v, .exact 6, false)] → go (.tmvr z v r) [s.getX r, 0, 0] id) ∧
      (postable s [v] [] → ∃ t, runs (.tmovr v z r) s t ∧ passed s t ∧ posted (.tmovr v z r) s t [s.getX r, 0, 0] [] ∧
        opensV s t [v] 6 (List.range 64) [] ∧ opensK s t [] [] [])) ∧
    (∀ o : TMOp, (isBx o.mtype = true → s.th.featen0.getLsbD 2 = true) → shapeOk o (s.getX o.stride) = true →
      let xs := [s.getX o.base, s.getX o.stride, s.getX o.xrows, s.getX o.xcols]
      let sh := shapeOf o.tile (s.getX o.stride)
      (o.tile.toNat < 8 → held o.tile.toNat → go (.tld o) xs id ∧
        ((o.mtype = 12 → groupsWhole o sh.cols (s.getX o.xcols) = true) → go (.tst o) xs id)) ∧
      (8 ≤ o.tile.toNat → o.tile.toNat < 12 → go (.tld o) xs fun x =>
        x.setW (o.tile.toNat - 8) { x.wAt (o.tile.toNat - 8) with ptag := if sh.lf then 9 else 8 }) ∧
      (12 ≤ o.tile.toNat → o.tile.toNat < 14 → go (.tld o) xs fun x =>
        x.setQ (o.tile.toNat - 12) { x.qAt (o.tile.toNat - 12) with ptag := if sh.lf then 9 else 8 }))

/-! ### Steps of the window, queued writes, transfers (spec/01 R16, spec/06 R111, spec/09, spec/12, spec/22 R338) -/

/-- R16, R107, R336–R338: an element that is ready fires, and is under check where it is a checked one; one that is not ready changes
nothing; a check that passes lets it escape, as a store's element does then, one that fails squashes its entry and every later one, the third in a row aborts the
context. -/
def Obligations.WindowEvents : Prop :=
  ∀ (s : State) (q p u : Nat) (e : Entry), s.th.works = true → s.th.seqPost q = some p → s.th.entry p = some e → e.held = none →
    let tid := s.th.tid
    let fires := Instr.elementFire tid q u .clean
    (∀ ma mi o, vkey e.instr = some (ma, mi, o) → ma ≠ 0x64 → toX ma mi o = false → e.complete = false → u < e.units → e.isDone u = false →
      (ma ≤ 0x38 → ¬(ma = 0x33 ∧ mi = 3) → (s.th.checkedUnit e u = some u ↔ u < e.vl ∧ u % 16 = e.seq.toNat % 16 ∧
        ((ma = 0x37 ∧ mi = 5) ∨ s.th.kElem p o.k u = some true))) ∧
      (∀ t, fireV s.th e ma mi o u = some t → t.frozen = false → (t.entry p).isSome = true →
        (∀ x, s.th.checkedUnit e u = some x → runs fires s { s with th := { t with unchecked := t.unchecked ++ [(p, x)] }.retire }) ∧
        (s.th.checkedUnit e u = none → runs fires s { s with th := t.retire })) ∧
      (fireV s.th e ma mi o u = none → runs fires s s)) ∧
    (s.th.unchecked.contains (p, u) = true →
      (let passed : State := { s with th := (s.th.passCheck p u).retire }
       runs (.ganderCheck tid q u false) s (if (storeKey e.instr).isSome then passed.afterFire (fireUnit p u) else passed)) ∧
      (e.softCount u < 2 → ∃ t, runs (.ganderCheck tid q u true) s t ∧ (∀ c ∈ t.th.unchecked, c.1 < p) ∧ keepsX s t [] ∧ t.th.pc = s.th.pc) ∧
      (2 ≤ e.softCount u → s.th.isCore = false → ∃ t, runs (.ganderCheck tid q u true) s t ∧ t.th.run = .aborted ∧
        ∀ x ∈ t.others, x.ctx = s.th.ctx → x.isCore = false → x.run = .aborted ∨ x.run = .exited))

/-- R188–R194, R41, R204: the next step of a tile instruction whose turn it is: what each element of the z tile, or of `tmovr`'s register,
holds after it.

R195–R199, R202: a row of `tld` whose bytes lie in memory of this device converts each element for its tile register, and a row of `tst`
stores the selected elements of its z tile, converted or quantised, and no other byte; a z tile that is dropped gives RETN. That the whole row is
performed at once under the policy is log entry 4. -/
def Obligations.TileSteps : Prop :=
  (∀ (s : State) (q p : Nat) (e : Entry), tileTurn s q p e →
     let steps := runs (.tileStep s.th.tid q .clean) s
     let z := fun (n : Nat) => s.myTile.zAt n
     let after := fun (n : Nat) (v : Nat → Nat → Nat) => ∃ t, steps t ∧ t.mem = s.mem ∧ keepsX s t [] ∧
       ∀ i < 32, ∀ j < 64, (t.myTile.zAt n).get i j = v i j
     let word := fun (v : Nat) => (BitVec.ofNat 32 v).toNat
     (∀ n : BitVec 3, e.instr = .tzero n → ∃ t, steps t ∧ (t.myTile.zAt n.toNat).data = [] ∧
       (t.myTile.zAt n.toNat).short = false ∧ (t.myTile.zAt n.toNat).dropped = false ∧ t.mem = s.mem ∧ keepsX s t []) ∧
     (∀ (o : MXOp) (slide : Bool) (k0 kc : Nat), e.instr = (if slide then .tmms o else .tmma o) → depthOf o ((e.xs.drop 2).headD 0) = some (k0, kc) →
       keysRise (z o.z.toNat).data = true →
       let l := LFmt.of (lfTag o.lf)
       let k := k0 + e.prog
       let start := fun (i j : Nat) => if o.zi = true ∧ e.prog = 0 then 0 else (z o.z.toNat).get i j
       let a := fun (i : Nat) => (s.myTile.qAt (if o.q then 1 else 0)).get (if slide then i + k else i * kmaxOf (lfTag o.lf) + k)
       let b := fun (j : Nat) => (s.myTile.wAt o.w.toNat).get (k * 64 + j)
       after o.z.toNat fun i j =>
         if e.prog < kc ∧ maskBit o.xrow (e.xs.headD 0) i = true ∧ maskBit o.xcol ((e.xs.drop 1).headD 0) j = true then
           word (addProduct l o.sub (start i j) (a i) (b j)) else start i j) ∧
     (∀ (o : VOp) (r : VReg) (c : Nat → Bool) (x y : Nat → Nat), e.instr = .vopa o → o.src2 = .v r → keysRise (z o.vd.toNat).data = true →
       (∀ j < min 64 e.vl, s.th.kElem p o.k j = some (c j) ∧ (c j = true → s.th.vElem p r o.et j = some (y j))) →
       (∀ i < min 32 e.vl, s.th.vElem p o.vs1 o.et i = some (x i)) →
       after o.vd.toNat fun i j => if i < e.vl ∧ j < e.vl ∧ c j = true then
         word (addProduct (LFmt.of o.et) (o.opt.getLsbD 0) ((z o.vd.toNat).get i j) (x i) (y j)) else (z o.vd.toNat).get i j) ∧
     (∀ (v : VReg) (n : BitVec 3) (r : XReg), e.instr = .tmovr v n r → s.th.heldAt e (List.range 64) = false → intoV s p v 6 →
       ∃ t, steps t ∧ t.mem = s.mem ∧ keepsX s t [] ∧ ∀ j < 64,
         (t.th.partOr.vreg v).new.elem j = some (BitVec.ofNat 32 ((z n.toNat).get (e.xs.headD 0).toNat j))) ∧
     (∀ (n : BitVec 3) (v : VReg) (r : XReg) (x : Nat → Nat), e.instr = .tmvr n v r → keysRise (z n.toNat).data = true →
       (∀ j < 64, s.th.vElem p v 6 j = some (x j)) →
       after n.toNat fun i j => if i = (e.xs.headD 0).toNat then x j else (z n.toNat).get i j)) ∧
  (∀ (s : State) (q p : Nat) (e : Entry) (o : TMOp) (pa : Nat → Nat),
     let steps := runs (.tileStep s.th.tid q .clean) s
     let sh := shapeOf o.tile ((e.xs.drop 1).headD 0)
     let r := e.prog
     let base := rowAddr e o r
     let bx := isBx o.mtype
     let parts := rowParts o.mtype sh.cols
     let n := Machine.sizeOf o.mtype
     let toZ := o.tile.ult 8
     let tag := lfTag sh.lf
     let z := s.myTile.zAt o.tile.toNat
     (tileTurn s q p e → mustFollow s (some p) base (rowBytes o.mtype sh.cols) = false →
       (e.instr = .tld o → s.policy.whole = true → (∀ x ∈ parts, partHere s bx .read (base + BitVec.ofNat 64 x.1) x.2 (pa x.1)) →
         let into : EType := if toZ then 6 else tag
         let blk := fun (j : Nat) => blkOfBytes o.mtype (s.readBytes s.th.place (pa (j / 16 * bxSize o.mtype)) (bxSize o.mtype))
         let v := fun (j : Nat) =>
           if bx then (cvtBxRes into false false 0
             (blkVal (bxM o.mtype) (blk j).E (blk j).qs (j % 16) ((blk j).el.getD (j % 16) (false, 0)).1 ((blk j).el.getD (j % 16) (false, 0)).2)).val
           else if o.mtype = into then wordAt s (pa (j * n)) n
           else (cvtRes o.mtype into false false false 0 (wordAt s (pa (j * n)) n)).val
         ∃ t, steps t ∧ t.mem = s.mem ∧ (o.ff = false → keepsX s t []) ∧
           (toZ = true → z.dropped = false → keysRise z.data = true → sh.cols ≤ 64 → (bx = true → sh.cols % 16 = 0) → ∀ i < 32, ∀ j < 64,
             (t.myTile.zAt o.tile.toNat).get i j = if i = r ∧ j < sh.cols then (BitVec.ofNat 32 (v j)).toNat else z.get i j) ∧
           (∀ m, tileReg o.tile = .w m → m < 4 → keysRise (s.myTile.wAt m).data = true → (bx = true → sh.cols % 16 = 0) → ∀ j < sh.cols,
             (t.myTile.wAt m).get (r * 64 + j) = (BitVec.ofNat 16 (v j)).toNat) ∧
           (∀ m, tileReg o.tile = .q m → m < 2 → keysRise (s.myTile.qAt m).data = true → (bx = true → sh.cols % 16 = 0) → ∀ j < sh.cols,
             (t.myTile.qAt m).get (r * kmaxOf tag + j) = (BitVec.ofNat 16 (v j)).toNat)) ∧
       (e.instr = .tst o → s.policy.apply = false → (∀ x ∈ parts, partHere s bx .write (base + BitVec.ofNat 64 x.1) x.2 (pa x.1)) →
         let sel := fun (x : Nat × Nat) => maskBit o.xcols ((e.xs.drop 3).headD 0) (if bx then x.1 / 18 * 16 else x.1 / n)
         let data := fun (x : Nat × Nat) =>
           if bx then blkBytes o.mtype (quantise 7 ((List.range 16).map fun i => unpack .f32 (z.get r (x.1 / 18 * 16 + i)))).1
           else leBytes n (if o.mtype = 6 then z.get r (x.1 / n) else (cvtRes 6 o.mtype false false false e.frm (z.get r (x.1 / n))).val)
         (maskBit o.xrows ((e.xs.drop 2).headD 0) r = false → ∃ t, steps t ∧ t = { s with th := t.th, tiles := t.tiles } ∧ keepsX s t [] ∧
           ∀ a, byteAt t a = byteAt s a) ∧
         (maskBit o.xrows ((e.xs.drop 2).headD 0) r = true → (bx = true → o.mtype = 12) →
           (∀ x ∈ parts, sel x = true → s.wordsAt (pa x.1) x.2 = []) →
           (parts.Pairwise fun x y => sel x = true → sel y = true → pa x.1 + x.2 ≤ pa y.1 ∨ pa y.1 + y.2 ≤ pa x.1) →
           ∃ t, steps t ∧ t.mem = s.mem ∧ keepsX s t [] ∧ (∀ x ∈ parts, sel x = true → t.readBytes t.th.place (pa x.1) x.2 = data x) ∧
             ∀ a, (∀ x ∈ parts, sel x = true → ¬(pa x.1 ≤ a ∧ a < pa x.1 + x.2)) → byteAt t a = byteAt s a))) ∧
     (∀ m, inWindow s q p e → s.th.place.isSome = true → s.queueBlocks { tid := s.th.tid, post := p } e.instr (s.cleanQueue s.myTile) = false →
       s.th.awaitsCheck 64 e none = false → zRead e.instr e.prog = some m → (s.myTile.zAt m).dropped = true → isTileInstr e.instr = true →
       s.th.carrying = false → s.th.unchecked = [] → s.collectiveBusy s.th.tid = false → (∀ x ∈ s.th.window, x.formed = []) →
       ∃ t, steps t ∧ t.th.tregs.cause = cRETN.setWidth 64 ||| 0x100 ||| BitVec.ofNat 64 (s.th.retire.wentOf p % 32 * 2 ^ 16) ∧
         t.th.tregs.val = e.pc ∧ t.th.frozen = true))

/-- R111, R18, R37: what an active element of an integer instruction receives in its width, from its sources as signed or unsigned
integers: for every minor but the divisions.

R112–R115, R25: what an active element of a floating-point instruction receives, rounded in the instruction's mode, and the flags it
raises.

R116, R117: the bit that an active element of a comparison gives: of integers signed or unsigned, of floats with the flags of the
comparison, of log codes by value.

R119–R122: what an active element of a conversion receives: integers wrap or clamp, a float rounds, a log code is formed by R28, of another
log code by its own rule, and `vretag` copies; `vquant` writes the slots of the whole block.

R124–R126: what an active element of a log-domain instruction receives, and the flags of `fcsr` and `lsat` it raises. -/
def Obligations.ElementValues : Prop :=
  (∀ (s : State) (q p u a b : Nat) (e : Entry) (o : VOp), firing s q p u e o a b →
     let w := widthOf o.et
     let x := signedOf w a
     let y := signedOf w b
     let wrap := fun (i : Int) => (i % 2 ^ w).toNat
     let clamp := fun (i : Int) => wrap (max (-2 ^ (w - 1)) (min (2 ^ (w - 1) - 1) i))
     (∀ r ∈ [(Instr.vaddInt o, (a + b) % 2 ^ w), (.vsubInt o, (a + (2 ^ w - b)) % 2 ^ w), (.vmulInt o, a * b % 2 ^ w),
         (.vmulh o, wrap (x * y / 2 ^ w)), (.vmulhN o, a * b / 2 ^ w), (.vminInt o, if x < y then a else b), (.vmaxInt o, if x < y then b else a),
         (.vminN o, min a b), (.vmaxN o, max a b), (.vand o, a &&& b), (.vor o, a ||| b), (.vxor o, a ^^^ b),
         (.vsll o, a * 2 ^ (b % w) % 2 ^ w), (.vsrl o, a / 2 ^ (b % w)), (.vsra o, wrap (x / 2 ^ (b % w))), (.vaddsat o, clamp (x + y)),
         (.vaddsatN o, min (2 ^ w - 1) (a + b)), (.vsubsat o, clamp (x - y)), (.vsubsatN o, a - b)],
       e.instr = r.1 → receives s (.elementFire s.th.tid q u .clean) o u r.2) ∧
     (∀ r ∈ [(Instr.vabsInt o, wrap (if x < 0 then -x else x)), (.vnegInt o, wrap (-x)), (.vclz o, if a = 0 then w else w - 1 - a.log2),
         (.vcpop o, ((List.range w).filter fun k => a.testBit k).length)],
       e.instr = r.1 → receives s (.elementFire s.th.tid q u .clean) o u r.2) ∧
     (∀ c, s.th.vElem p o.vs3 o.et u = some c → e.instr = .vmacc o →
       receives s (.elementFire s.th.tid q u .clean) o u ((c + a * b) % 2 ^ w))) ∧
  (∀ (s : State) (q p u a b : Nat) (e : Entry) (o : VOp), ready s q p u e o a b → 4 ≤ o.et.toNat → o.et.toNat ≤ 7 →
     let w := widthOf o.et
     let f := fmtOf o.et
     let m := modeOf o.rm e.frm
     let gets := fun (r : Nat × FFlags) => receivesWith s (.elementFire s.th.tid q u .clean) o u (r.1 % 2 ^ w) r.2 0
     (∀ r ∈ [(Instr.vaddFp o, fAdd f m a b), (.vsubFp o, fSub f m a b), (.vmulFp o, fMul f m a b), (.vdivFp o, fDiv f m a b), (.vsqrt o, fSqrt f m a),
         (.vminFp o, fMinMax f false a b), (.vmaxFp o, fMinMax f true a b), (.vround o, fRound f m a),
         (.vabsFp o, (a % 2 ^ (w - 1), 0)), (.vnegFp o, (if a / 2 ^ (w - 1) % 2 = 0 then a % 2 ^ (w - 1) + 2 ^ (w - 1) else a % 2 ^ (w - 1), 0)),
         (.vsgnj o, (a % 2 ^ (w - 1) + b / 2 ^ (w - 1) % 2 * 2 ^ (w - 1), 0)), (.vclass o, (fClassMask f a, 0)),
         (.vrsqrte o, fEstimate f true a), (.vrcpe o, fEstimate f false a)],
       e.instr = r.1 → gets r.2) ∧
     (∀ c, s.th.vElem p o.vs3 o.et u = some c →
       ∀ r ∈ [(Instr.vfma o, fFma f m false false a b c), (.vfms o, fFma f m false true a b c), (.vfnma o, fFma f m true false a b c)],
         e.instr = r.1 → gets r.2)) ∧
  (∀ (s : State) (q p u a b : Nat) (e : Entry) (o : VOp), active s q p u e o → intoK s p o → sources s p u a b e o →
     let w := widthOf o.et
     let x := signedOf w a
     let y := signedOf w b
     let f := fmtOf o.et
     let l := LFmt.of o.et
     let gives := fun (r : Bool × FFlags) => receivesBit s (.elementFire s.th.tid q u .clean) o u r.1 r.2
     (isIntT o.et = true → ∀ r ∈ [(Instr.veq o, decide (a = b)), (.vne o, decide (a ≠ b)), (.vlt o, decide (x < y)), (.vle o, decide (x ≤ y)),
         (.vgt o, decide (y < x)), (.vge o, decide (y ≤ x)), (.vltN o, decide (a < b)), (.vleN o, decide (a ≤ b)), (.vgtN o, decide (b < a)),
         (.vgeN o, decide (b ≤ a)), (.vnz o, decide (a ≠ 0))], e.instr = r.1 → gives (r.2, 0)) ∧
     (isFloatT o.et = true → ∀ r ∈ [(Instr.veq o, fCompare f 0 a b), (.vne o, (!(fCompare f 0 a b).1, (fCompare f 0 a b).2)),
         (.vlt o, fCompare f 1 a b), (.vle o, fCompare f 2 a b), (.vgt o, fCompare f 1 b a), (.vge o, fCompare f 2 b a),
         (.vnz o, (!(unpack f a).isZero, 0)), (.vnan o, ((unpack f a).isNan, 0))], e.instr = r.1 → gives r.2) ∧
     (isLogT o.et = true → ∀ r ∈ [(Instr.veq o, lEq l a b), (.vne o, !lEq l a b), (.vlt o, lLt l a b), (.vle o, lLt l a b || lEq l a b),
         (.vgt o, lLt l b a), (.vge o, lLt l b a || lEq l a b), (.vnz o, decide (a ≠ l.zero)), (.vnan o, decide (a = l.nan))],
       e.instr = r.1 → gives (r.2, 0))) ∧
  (∀ (s : State) (q p u : Nat) (e : Entry) (o : VOp), active s q p u e o → intoV s p o.vd o.et →
     let w := widthOf o.et
     let f := fmtOf o.et
     let l := LFmt.of o.et
     let m := modeOf o.rm e.frm
     let tag := s.th.tagBy p o.vs1
     let fires := Instr.elementFire s.th.tid q u .clean
     let gets := receivesWith s fires o u
     let sat := fun (b : Bool) => e.instr = if b then .vcvtSat o else .vcvt o
     let value := fun (b : Bool) (v : FVal) =>
       (isFloatT o.et = true → let r := if b then satOverflow f v (packVal f m v) else packVal f m v; gets (r.1 % 2 ^ w) r.2 0) ∧
       (isLogT o.et = true → gets ((linToL l v).1 % 2 ^ w) 0 (linToL l v).2) ∧
       (isIntT o.et = true → gets ((fToInt w (cvtDu o) m v).1 % 2 ^ w) (fToInt w (cvtDu o) m v).2 0)
     (∀ b a, sat b → isBx tag = false → s.th.vElem p o.vs1 tag u = some a →
       let x : Int := if cvtSu o then a else signedOf (widthOf tag) a
       let lo : Int := if cvtDu o then 0 else -2 ^ (w - 1)
       let hi : Int := if cvtDu o then 2 ^ w - 1 else 2 ^ (w - 1) - 1
       (isIntT tag = true → isIntT o.et = true → gets ((if b then max lo (min hi x) else x) % 2 ^ w).toNat 0 0) ∧
       (isIntT tag = true → isIntT o.et = false → value b (intVal x)) ∧
       (isFloatT tag = true → value b (unpack (fmtOf tag) a)) ∧
       (isLogT tag = true → isLogT o.et = false → value b (lToLin (LFmt.of tag) a)) ∧
       (isLogT tag = true → o.et = tag → gets a 0 0) ∧
       (tag = 9 → o.et = 8 → gets ((l16To8 a).1 % 2 ^ w) 0 (l16To8 a).2) ∧
       (tag = 8 → o.et = 9 → gets (l8To16 a % 2 ^ w) 0 0)) ∧
     (∀ b v, sat b → isBx tag = true → s.th.bxElem p o.vs1 tag u = some v → value b v) ∧
     (∀ a, e.instr = .vretag o → s.th.vElem p o.vs1 o.et u = some a → gets a 0 0) ∧
     (∀ x : Nat → Nat, e.instr = .vquant o → isBx o.et = true → s.th.heldAt e (blockOf u) = false →
       let b := u / 16 * 16
       (∀ i < 16, b + i < e.vl → s.th.vElem p o.vs1 tag (b + i) = some (x i)) →
       let z := quantise (bxM o.et) ((List.range 16).map fun i => if b + i < e.vl then valueOf tag false (x i) else .fin false 0 0)
       ∃ t, runs fires s t ∧ flagged s t z.2 0 ∧ windowOnly s t ∧
         ∀ i < 16, (t.th.partOr.vreg o.vd).new.elem (b + i) = some (BitVec.ofNat 32 ((blkSlots (bxM o.et) z.1).getD i 0)))) ∧
  (∀ (s : State) (q p u a b : Nat) (e : Entry) (o : VOp), active s q p u e o → intoV s p o.vd o.et → isLogT o.et = true →
     s.th.vElem p o.vs1 o.et u = some a →
     (∀ mi, vkey e.instr = some (0x38, mi, o) → mi ≠ 3 → s.th.second e 0x38 mi o (if mi = 2 then 1 else o.et) u = some b) →
     let l := LFmt.of o.et
     ∀ r ∈ [(Instr.vladd o, lAdd l false a b), (.vlsub o, lAdd l true a b), (.vlpow o, lPow l a (signedOf 16 b)), (.vlrecip o, lRecip l a)],
       e.instr = r.1 → receivesWith s (.elementFire s.th.tid q u .clean) o u (r.2.1 % 2 ^ widthOf o.et) r.2.2.1 r.2.2.2)

/-- R138, R139, R40: an active element of a reduction that is consumed: an ordered sum adds it to the running value, the other operations but the
tree combine it in; and the result once every element has been consumed: the running value, or the tree of R40, with the initial value; an
integer tree gives the sum of all.

R132–R136: what an active element of a permute receives: the element of the source that its rule names, or 0 beyond vl.

R128, R129, R131: the bit that an active element of a mask instruction gives, and what `kiota` and `vid` write.

R137: what an element of `vmv`, `vsplat`, `vsplati`, `vmvsx` or `vmerge` receives. -/
def Obligations.ElementMoves : Prop :=
  (∀ (s : State) (q p mi : Nat) (e : Entry) (o : VOp), inWindow s q p e → vkey e.instr = some (0x34, mi, o) →
     let f := redStep mi o.et (redUn o) (modeOf o.rm e.frm)
     let fires := fun (u : Nat) => Instr.elementFire s.th.tid q u .clean
     (∀ u a, u < e.vl → e.isDone u = false → s.th.kElem p o.k u = some true → s.th.vElem p o.vs1 o.et u = some a →
       (∃ i < e.vl, i ≠ u ∧ e.isDone i = false ∧ s.th.kElem p o.k i ≠ some false) →
       let goes := fun (acc : List Word) (fl : FFlags) => ∃ t x, runs (fires u) s t ∧ t.th.entry p = some x ∧ x.acc = acc ∧ x.isDone u = true ∧
         flagged s t fl 0 ∧ windowOnly s t
       (∀ init, mi = 0 → s.th.elemsUpTo p o.vs1 o.et u = true → lowerFired s.th e o.k u = true → redInit s.th e o = some init →
         let r := f ((e.acc.head?.map (·.toNat)).getD init) a
         goes [BitVec.ofNat 64 r.val, 1] r.ff) ∧
       (2 ≤ mi → e.acc = [] → goes [BitVec.ofNat 64 a] 0) ∧
       (∀ v, 2 ≤ mi → e.acc = [v] → goes [BitVec.ofNat 64 (f v.toNat a).val] (f v.toNat a).ff)) ∧
     (∀ init, e.allBelow e.vl = true → e.isDone e.vl = false → redInit s.th e o = some init →
       let ends := fun (v : Nat) =>
         (redToX o = true → s.th.awaitsCheck 64 e none = false → (∀ c ∈ s.th.unchecked, c.1 ≠ p) → ∃ t, runs (fires e.vl) s t ∧
           t.getX (xDst o) = (if xDst o = 0 then 0 else extendX o.et (redUn o) v) ∧ keepsX s t [xDst o] ∧ t = { s with th := t.th }) ∧
         (redToX o = false → intoV s p o.vd o.et → s.th.held? e 0 = false → ∃ t, runs (fires e.vl) s t ∧ holds t o.vd o.et 0 (v % 2 ^ widthOf o.et) ∧
           windowOnly s t)
       (mi = 0 → ends ((e.acc.head?.map (·.toNat)).getD init)) ∧
       (∀ v, mi = 1 → (redTree f (e.vl + 1) (redLeaves s.th e o)).1 = .val v → ends (f init v).val) ∧
       (∀ x : Nat → Nat, mi = 1 → isIntT o.et = true → (∀ i < e.vl, (∃ b, s.th.kElem p o.k i = some b) ∧
           (s.th.kElem p o.k i = some true → s.th.vElem p o.vs1 o.et i = some (x i))) →
         ends ((init + (((List.range e.vl).filter fun i => s.th.kElem p o.k i = some true).map x).sum) % 2 ^ widthOf o.et)) ∧
       (2 ≤ mi → e.acc = [] → ends init) ∧
       (∀ v, 2 ≤ mi → e.acc = [v] → ends (f init v.toNat).val))) ∧
  (∀ (s : State) (q p u : Nat) (e : Entry) (o : VOp), active s q p u e o → intoV s p o.vd o.et →
     let src := fun (j : Nat) => s.th.vElem p o.vs1 o.et j
     let gets := receives s (.elementFire s.th.tid q u .clean) o u
     let off := slideOff o e.xs
     let upTo := fun (j : Nat) => s.th.elemsUpTo p o.vs1 o.et j = true ∧ lowerFired s.th e o.k u = true
     (e.instr = .vslideup o → off ≤ u → upTo (u - off) → ∀ a, src (u - off) = some a → gets a) ∧
     (e.instr = .vslidedown o → (u + off < e.vl → upTo (u + off) → ∀ a, src (u + off) = some a → gets a) ∧ (e.vl ≤ u + off → gets 0)) ∧
     (e.instr = .vslide1up o → (u = 0 → ∀ b, s.th.second e 0x35 2 o o.et 0 = some b → gets b) ∧
       (0 < u → upTo (u - 1) → ∀ a, src (u - 1) = some a → gets a)) ∧
     (e.instr = .vslide1down o → (u + 1 < e.vl → upTo (u + 1) → ∀ a, src (u + 1) = some a → gets a) ∧
       (u + 1 = e.vl → ∀ b, s.th.second e 0x35 3 o o.et u = some b → gets b)) ∧
     (e.instr = .vgather o → ∀ j, (∃ r, o.src2 = .v r ∧ s.th.vSlot p r u = some j) ∨ (∃ i, o.src2 = .imm i ∧ j = i.toNat) →
       (j < e.vl → ∀ a, src j = some a → gets a) ∧ (e.vl ≤ j → gets 0)) ∧
     (e.instr = .vcompress o → e.allBelow u = true → s.th.held? e e.prog = false → ∀ a, src u = some a →
       receives s (.elementFire s.th.tid q u .clean) o e.prog a) ∧
     (e.instr = .vexpand o → s.th.bitsBelow p o.k (u + 1) = true → ∀ a, src (s.th.countBits p o.k 0 u) = some a → gets a) ∧
     (e.instr = .vrev o → ∀ a, src (e.vl - 1 - u) = some a → gets a)) ∧
  (∀ (s : State) (q p u : Nat) (e : Entry) (o : VOp), active s q p u e o →
     let fires := Instr.elementFire s.th.tid q u .clean
     let ka : KReg := o.vs1.setWidth 3
     let w := widthOf o.et
     let hit := fun (j : Nat) => s.th.kElem p o.k j = some true ∧ s.th.kElem p ka j = some true
     let known := fun (n : Nat) => s.th.bitsBelow p ka n = true ∧ s.th.bitsBelow p o.k n = true ∧ lowerFired s.th e o.k u = true
     let bit := fun (v : Bool) => receivesBit s fires o u v 0
     (intoK s p o → ∀ a, s.th.kElem p ka u = some a →
       (∀ (r : VReg) (b : Bool), o.src2 = .v r → s.th.kElem p (r.setWidth 3) u = some b →
         ∀ x ∈ [(Instr.kand o, a && b), (.kor o, a || b), (.kxor o, a != b), (.kandn o, a && !b)], e.instr = x.1 → bit x.2) ∧
       (e.instr = .knot o → bit (!a))) ∧
     (intoK s p o → known (u + 1) → ∀ v : Bool,
       (e.instr = .kbrkb o → (v = true ↔ ∀ j ≤ u, ¬hit j) → bit v) ∧
       (e.instr = .kbrka o → (v = true ↔ ∀ j < u, ¬hit j) → bit v) ∧
       (e.instr = .kbrkf o → (v = true ↔ hit u ∧ ∀ j < u, ¬hit j) → bit v)) ∧
     (intoV s p o.vd o.et → known u → e.instr = .kiota o →
       receives s fires o u (((List.range u).filter fun j => s.th.kElem p o.k j = some true && s.th.kElem p ka j = some true).length % 2 ^ w)) ∧
     (intoV s p o.vd o.et → e.instr = .vid o → receives s fires o u (u % 2 ^ w))) ∧
  (∀ (s : State) (q p u : Nat) (e : Entry) (o : VOp), canFire s q p u e → intoV s p o.vd o.et →
     let gets := receives s (.elementFire s.th.tid q u .clean) o u
     let w := widthOf o.et
     let x := (e.xs.headD 0).toNat % 2 ^ w
     let bit := s.th.kElem p o.k u
     (bit = some true → (∀ a, e.instr = .vmv o → s.th.vElem p o.vs1 o.et u = some a → gets a) ∧ (e.instr = .vsplat o → gets x) ∧
       (e.instr = .vsplati o → gets (immOf o.et true o.opt % 2 ^ w))) ∧
     (u = 0 → e.instr = .vmvsx o → gets x) ∧
     (e.instr = .vmerge o → (∀ b, bit = some true → s.th.second e 0x37 5 o o.et u = some b → gets b) ∧
       (∀ a, bit = some false → s.th.vElem p o.vs1 o.et u = some a → gets a)))

/-- R157–R160, R164, R168: an active element of a load, store or `vamo`, of whatever mode, that meets memory of this device
forms its address from base, offset, stride or index, and moves its bytes: the loaded element is present, the stored bytes stand at
the address, the atomic leaves its result there and returns the old value; the same of a block of a bx type; no other byte and no x register
changes. A landing word it touches is left open (R149; log entry 28). -/
def Obligations.MemoryElements : Prop :=
  ∀ (s : State) (q p u i m pa : Nat) (e : Entry) (o : VMOp) (a : Word) (c : Option TlbEnt), mapsLegal s → inWindow s q p e → u < e.vl →
    e.isDone u = false → e.formed = [] → e.sent = [] → s.th.kElem p o.k u = some true → m ≤ 4 →
    let n := vmSize o
    let w := widthOf o.et
    let bx := isBx o.et
    (2 ≤ m → s.th.vElem p (o.idx.setWidth 5) (if o.iw = 1 then 3 else 2) u = some i) →
    a = e.xs.headD 0 + o.imm.signExtend 64 + (if m = 0 then BitVec.ofNat 64 (if bx then u / 16 * n else u * n)
      else if m = 1 then BitVec.ofNat 64 u * (e.xs.drop 1).headD 0 else if o.iw = 1 then BitVec.ofNat 64 i else sext 32 i) →
    (bx = true → m = 0) → mustFollow s (some p) a n = false → s.th.awaitsCheck 64 e (if bx then none else some u) = false →
    (m = 4 → ∃ h t, s.th.place = some (h, t) ∧ paKind pa = .gallery ∧ pa / 2 ^ 24 % 2 ^ 8 = h) →
    let fires := runs (.elementFire s.th.tid q u .clean) s
    let here := fun (acc : Access) => if bx then blockLocs s a n acc = .ok [(.here pa, n)] ∧ ∀ k < n, paKind (pa + k) ≠ .reg
      else a.toNat % n = 0 ∧ w = 8 * n ∧ located s a acc pa c
    let dest := intoV s p o.v o.et ∧ s.th.heldAt e (if bx then blockOf u else [u]) = false
    let got := fun (t : State) (v : Nat) => holds t o.v o.et u v
    let inTurn := fun (l : List (VReg × EType)) => m = 3 → lowerFired s.th e o.k u = true ∧ belowPI s.th e o.k l u = true
    (loadKey e.instr = some (m, o) → o.ff = false → here .read → s.touchesBad pa n = false → dest → inTurn (indexSrc m o) →
      (bx = false → ∃ t, fires t ∧ got t (wordAt s pa n) ∧ windowOnly s t) ∧
      (bx = true → s.policy.whole = true → ∃ t, fires t ∧ windowOnly s t ∧ ∀ k < 16, (t.th.partOr.vreg o.v).new.elem (u / 16 * 16 + k) =
        some (BitVec.ofNat 32 ((blkSlots (bxM o.et) (blkOfBytes o.et (s.readBytes s.th.place pa n))).getD k 0)))) ∧
    (storeKey e.instr = some (m, o) → o.nt = false → (m ≤ 1 → lowerMeets s e m o u a = false) → here .write → s.partlyBad pa n = false → queuesWhole s →
      s.wordsAt pa n = [] ∨ bx = false → inTurn ((o.v, o.et) :: indexSrc m o) →
      let stored := fun (t : State) => keepsBut s t pa n (s.wordsAt pa n) ∧ keepsX s t [] ∧ t.th.pc = s.th.pc
      (∀ b, bx = false → s.th.vElem p o.v o.et u = some b → ∃ t, fires t ∧ (s.wordsAt pa n = [] → wordAt t pa n = b) ∧ stored t) ∧
      (∀ x : Nat → Nat, bx = true → s.th.checkedUnit e u = none →
        let tag := s.th.tagBy p o.v
        let b0 := u / 16 * 16
        (tag = o.et → (∀ k < 16, s.th.vSlot p o.v (b0 + k) = some (x k)) → ∃ t, fires t ∧ stored t ∧
          t.readBytes t.th.place pa n = blkBytes o.et (blkOfSlots (bxM o.et) ((List.range 16).map x))) ∧
        (tag ≠ o.et → (∀ k < 16, b0 + k < e.vl → s.th.vElem p o.v tag (b0 + k) = some (x k)) →
          let z := quantise (bxM o.et) ((List.range 16).map fun k => if b0 + k < e.vl then valueOf tag false (x k) else .fin false 0 0)
          ∃ t, fires t ∧ stored t ∧ flagged s t z.2 0 ∧ t.readBytes t.th.place pa n = blkBytes o.et z.1))) ∧
    (bx = false → here .both → s.touchesBad pa n = false → queuesWhole s → (o.r = true → dest) → m = 2 ∨ m = 3 →
      (m = 3 → earlierApplied s p = true) →
      let src : VReg := if o.r then o.aux.setWidth 5 else o.v
      inTurn ((src, o.et) :: indexSrc m o) →
      ∀ b, s.th.vElem p src o.et u = some b →
        let old := wordAt s pa n
        let mm := BitVec.ofNat 3 m
        let done := fun (v : Nat) => ∃ t, fires t ∧ (s.wordsAt pa n = [] → wordAt t pa n = v) ∧ keepsBut s t pa n (s.wordsAt pa n) ∧
          (o.r = true → got t old) ∧ keepsX s t [] ∧ t.th.pc = s.th.pc
        (isIntT o.et = true → ∀ r ∈ [(Instr.vamoAdd mm o, (old + b) % 2 ^ w), (.vamoMin mm o, if signedOf w old < signedOf w b then old else b),
            (.vamoMax mm o, if signedOf w old < signedOf w b then b else old), (.vamoMinN mm o, min old b), (.vamoMaxN mm o, max old b),
            (.vamoAnd mm o, old &&& b), (.vamoOr mm o, old ||| b), (.vamoXor mm o, old ^^^ b), (.vamoSwap mm o, b)],
          e.instr = r.1 → done r.2) ∧
        (o.et = 6 ∨ o.et = 7 → e.instr = .vamoFadd mm o → done ((fAdd (if o.et = 7 then .f64 else .f32) 0 old b).1 % 2 ^ w)))

/-- R208, R212, R150, R76: a queued write reaches its home when no earlier write on the way meets it, and what its tile's threads read
stays the same; units arrive at a landing word; a slice's new context finds zeros, but where it held the bytes last. A write that would need old
bytes of an uncorrectable unit is not performed, and its context ends with the step; a landing word in one takes no units (R341; log entry 48). -/
def Obligations.HomeEvents : Prop :=
  ∀ (s : State), mapsLegal s →
    (∀ h k w, (s.hall h).buffer[k]? = some w → w.waitsFor ((s.hall h).buffer.take k) = false →
      (s.partlyBad w.pa w.bytes.length = false → ∃ t, runs (.writeAppliedAtHome (.hall h) k) s t ∧ t.mem = memWrite s.mem w.pa w.bytes ∧ t.th = s.th ∧
        (t.hall h).buffer = (s.hall h).buffer.eraseIdx k ∧ t.tiles = s.tiles) ∧
      (s.partlyBad w.pa w.bytes.length = true → ∃ t, runs (.writeAppliedAtHome (.hall h) k) s t ∧ t.mem = s.mem ∧ t.th = s.th ∧
        (t.hall h).buffer = (s.hall h).buffer.eraseIdx k ∧ ∃ d ∈ t.dues, d.1 = ((s.thread w.tid).map (·.ctx)).getD 0)) ∧
    (∀ h i k w, i < 16 → (s.tile h i).stores[k]? = some w → w.waitsFor ((s.tile h i).stores.take k) = false →
      w.waitsFor (s.hall h).buffer = false → s.partlyBad w.pa w.bytes.length = false →
      ∃ t, runs (.writeAppliedAtHome (.tile (16 * h + i)) k) s t ∧ t.mem = memWrite s.mem w.pa w.bytes ∧ t.th = s.th ∧
        (t.tile h i).stores = (s.tile h i).stores.eraseIdx k ∧ t.halls = s.halls ∧
        (s.th.place = some (h, i) → ∀ a, byteAt t a = byteAt s a)) ∧
    (∀ pa n, pa % 16 = 0 → paKind pa = .hbm ∨ paKind pa = .gallery →
      let w := lwOf (memRead s.mem pa 16)
      let sum := w.count + n
      let done := fun (after : LWord) => ∃ t, runs (.landingArrival pa n) s t ∧ lwOf (memRead t.mem pa 16) = after ∧ t.th = s.th ∧
        ∀ a, ¬(pa ≤ a ∧ a < pa + 16) → memByte t.mem a = memByte s.mem a
      let ovr := w.flags / 2 % 2 * 2
      let sat := w.flags / 4 % 2 * 4
      (s.touchesBad pa 16 = true → runs (.landingArrival pa n) s s) ∧
      (s.touchesBad pa 16 = false →
        (sum ≤ 0xFFFFFFFF → w.flags % 2 = 1 → w.target ≤ sum →
          done { count := sum - w.target, target := 0, gen := (w.gen + 1) % 2 ^ 32, flags := (if w.target < sum then 2 else ovr) + sat }) ∧
        (sum ≤ 0xFFFFFFFF → w.flags % 2 = 1 → sum < w.target → done { w with count := sum, flags := 1 + ovr + sat }) ∧
        (sum ≤ 0xFFFFFFFF → w.flags % 2 = 0 → done { w with count := sum, flags := ovr + sat }) ∧
        (0xFFFFFFFF < sum → w.flags % 2 = 0 → done { w with count := 0xFFFFFFFF, flags := ovr + 4 }))) ∧
    (∀ ctx h i off len, h < 32 → i < 16 → off + len ≤ 2 ^ 20 →
      let lo := sliceBase h i + off
      let c : BitVec 32 := BitVec.ofNat 32 ctx
      let last := fun (a : Nat) => (s.allocs.reverse.find? fun r => decide (r.1 ≤ a ∧ a < r.1 + r.2.1)).map fun r => r.2.2
      ∃ t, runs (.galleryAllocation ctx h i off len) s t ∧ t.allocs = s.allocs ++ [(lo, len, c)] ∧
        ∀ a, memByte t.mem a = if lo ≤ a ∧ a < lo + len ∧ last a ≠ some c then 0 else memByte s.drainAll.mem a)

/-- R173, R175: a plain `cpy` between places of HBM that do not meet moves its bytes, then writes `status` 0 and `result`, then its units
arrive, and it leaves the queue. It is stated of a transfer issued at M, whose addresses are taken as physical: the model's choice (log entry
11, DESIGN CHOICE, unsafe). -/
def Obligations.CopyMoves : Prop :=
  ∀ (s : State) (x : Xfer), x.kind = .cpy → x.zmode = 0 → x.moved = 0 → x.wrote = 0 →
    let n := x.field 16 8
    let dst := (x.addr 0).toNat
    let src := (x.addr 8).toNat
    x.units = n → atM s x [(dst, n), (src, n)] →
      ∃ t, runs (.transferComplete x.id .plain) s t ∧ (∀ i < n, memByte t.mem (dst + i) = memByte s.mem (src + i)) ∧ endedAs s t x 0 n

/-- R178–R184: what the completion of a storage, media or network transfer leaves: the data read, the elements of the picture, the message sent,
`status`, `result` and the units. It is stated of transfers issued at M, whose addresses are taken as physical: the model's choice (log entry
11, DESIGN CHOICE, unsafe); that an `nxfer`'s `result` is not stated is log entry 37. -/
def Obligations.TransferResults : Prop :=
  ∀ (s : State) (x : Xfer),
    let buf := (x.addr 0).toNat
    let n := x.units
    (∀ st data, x.kind = .sxfer → atM s x [(buf, n)] →
      let ends := fun (status result : Nat) => ∃ t, runs (.transferComplete x.id (.drive st data)) s t ∧ endedAs s t x status result
      let granted := (s.namespaceOf x).any (fun m => m.ctxs.contains x.ctx) = true
      (¬granted → ends 0x07 0) ∧
      (granted → x.field 21 1 = 0 → st = 0 → data.length = n → ∃ t, runs (.transferComplete x.id (.drive st data)) s t ∧
        memRead t.mem buf n = data ∧ endedAs s t x 0 (codedResult 0 n)) ∧
      (granted → x.field 21 1 = 0 → st = 0 → data.length ≠ n → runs (.transferComplete x.id (.drive st data)) s s) ∧
      (granted → x.field 21 1 = 0 → st ≠ 0 → let k := min n data.length
        ∃ t, runs (.transferComplete x.id (.drive st data)) s t ∧ memRead t.mem buf k = data.take k ∧ endedAs s t x 0x10 (codedResult st.toNat k)) ∧
      (granted → x.field 21 1 ≠ 0 → st = 0 → ends 0 (codedResult 0 n)) ∧
      (granted → x.field 21 1 ≠ 0 → st ≠ 0 → ends 0x10 (codedResult st.toNat (min data.length n)))) ∧
    (∀ pic st, x.kind = .mdec → s.mediaStop x (some pic) = none →
      let run := runs (.transferComplete x.id (.media (some pic) st)) s
      let info := x.pictureInfo (s.sessionOf x) pic
      let result := fun (shown : Bool) => (if shown then 1 else 0) + info.2.1.toNat * 2 ^ 16 + info.2.2.toNat * 2 ^ 32
      let at_ := fun (r : Nat × Nat × Nat) => (x.addr (40 + 8 * r.1)).toNat + r.2.1 * x.field 64 8 + r.2.2 * x.outSize
      let places := x.outOrder (x.planes (pic.comps.length == 1))
      (x.field 16 8 = 0 → pic.written = true → x.supported pic = true → x.fits pic = true → atM s x (places.map fun r => (at_ r, x.outSize)) →
        ∃ t, run t ∧ endedAs s t x 0 (result info.1) ∧
          ∀ r ∈ places, ∀ v, x.mediaElem pic r.1 r.2.2 r.2.1 = some v → leNat (memRead t.mem (at_ r) x.outSize) = v % 2 ^ (8 * x.outSize)) ∧
      (x.field 16 8 = 0 → pic.written = false → pic.shown = false → x.field 12 1 = 0 → atM s x [] → ∃ t, run t ∧ endedAs s t x 0 (result false)) ∧
      (pic.written = false → pic.shown = true ∨ x.field 12 1 ≠ 0 → run s)) ∧
    (∀ qp f syn d data, x.kind = .nxfer → s.pairOf x = some qp → qp.err = false → x.field 28 1 ≠ 3 → atM s x [(buf, n)] →
      let op := x.field 28 1
      let here := memRead s.mem buf n
      let run := runs (.transferComplete x.id (.network f syn d data)) s
      let sent := fun (t : State) (bs : List Byte) => t.netOut = s.netOut ++ [.request op (x.netMsg bs)]
      (f = false → op = 2 → data.length ≠ n → run s) ∧
      (f = false → op = 2 → data.length = n → ∃ t r, run t ∧ memRead t.mem buf n = data ∧ sent t [] ∧ endedAs s t x 0 r) ∧
      (f = false → op ≠ 2 → ∃ t r, run t ∧ sent t here ∧ endedAs s t x 0 r) ∧
      (f = true → ∃ t, run t ∧ endedAs s t x 0x14 (codedResult syn.toNat (min d n)) ∧ (∀ y ∈ t.qps, y.qpn = x.field 24 3 → y.err = true) ∧
        (op ≠ 2 → sent t here)))

/-- R173, R178–R184, R289, R312: a transfer completes by what its engine, drive, decoder or network reports, once no earlier one of its stream is
before it and its context is not frozen; a stopped copy of a switched-out thread leaves a remainder of 32 bytes in the thread's area and its units so far arrive. What
a media unit meets in its bitstream or its stream area comes before its pictures; where it gives up, how many bytes are done is not stated
(R179). -/
def Obligations.TransferEvents : Prop :=
  (∀ (s : State) (id : Nat), (s.xfers.find? fun y => y.id = id) = none →
    (∀ d, runs (.copyDrainTimeout id d) s s) ∧ ∀ inp, runs (.transferComplete id inp) s s) ∧
  ∀ (s : State) (x : Xfer), (s.xfers.find? fun y => y.id = x.id) = some x →
    let copies := x.kind = .cpy ∨ x.kind = .cpy2d
    (s.mustWaitFor x = true ∨ (s.ctx x.ctx).any (·.frozen) = true → ∀ inp, runs (.transferComplete x.id inp) s s) ∧
    (s.mustWaitFor x = false → (s.ctx x.ctx).any (·.frozen) = false →
      (copies →
        let r := s.runCopy x x.copyLen
        let lapped := s.overlaps x
        let run := runs (.transferComplete x.id .plain) s
        (r.stop = some .silent → run s) ∧
        (∀ c, r.stop = some (.fault c) → let i := if lapped then 0 else x.dstDone r.done r.wrote
          run ((r.s.scrub x x.dstAddr i (x.copyLen - i)).endXfer x c.toNat r.done)) ∧
        (r.stop = none → lapped = false → run (r.s.endXfer x 0 (if x.kind = .cpy ∧ x.zmode = 1 then r.wrote / x.zsize else x.copyLen)))) ∧
      (copies → s.isRemoteCopy x = true → runs (.transferComplete x.id .unreachable) s (s.unreachable x)) ∧
      (copies → s.isRemoteCopy x = false → runs (.transferComplete x.id .unreachable) s s) ∧
      (∀ p st, x.kind = .mdec → s.mediaStop x p = some .silent → runs (.transferComplete x.id (.media p st)) s s) ∧
      (∀ p st c, x.kind = .mdec → s.mediaStop x p = some (.fault c) →
        runs (.transferComplete x.id (.media p st)) s (s.endXfer x c.toNat 0)) ∧
      (∀ p st w, x.kind = .mdec → s.mediaStop x p = none →
        (p = none ∧ (st = 0x11 ∨ st = 0x12) ∧ w = st) ∨ (∃ y, p = some y ∧ y.written = true ∧ x.supported y = false ∧ w = 0x12) →
        ∃ (u : State) (d : Nat), runs (.transferComplete x.id (.media p st)) s (u.endXfer x w.toNat d) ∧ d ≤ x.units ∧
          u = { s with mem := u.mem, badUnit := u.badUnit, peers := u.peers, fresh := u.fresh }) ∧
      (∀ t, x.kind = .nxfer → s.netRefused x = some t → ∀ f syn d data,
        runs (.transferComplete x.id .plain) s t ∧ runs (.transferComplete x.id (.network f syn d data)) s t)) ∧
    (∀ d, s.thread x.tid = none → runs (.copyDrainTimeout x.id d) s s) ∧
    (∀ d t, s.thread x.tid = some t →
      let drains := copies ∧ x.node = none ∧ t.suspended = true ∧ x.moved ≤ d ∧ d < x.copyLen ∧
        d % (if x.kind = .cpy ∧ x.zmode ≠ 0 then x.zsize else 1) = 0
      let run := runs (.copyDrainTimeout x.id d) s
      let r := s.runCopy x d
      (¬drains → run s) ∧ (drains → r.stop = some .silent → run s) ∧
      (∀ c, drains → r.stop = some (.fault c) → let i := if s.overlaps x then 0 else x.dstDone r.done r.wrote
        run ((r.s.scrub x x.dstAddr i (x.copyLen - i)).endXfer x c.toNat r.done)) ∧
      (drains → r.stop = none →
        let s1 := r.s.unitsTo x (d - x.sent)
        let n := s1.areaField t.ctx t.winrec 0x10 1
        let rest := leBytes 8 x.block.toNat ++ leBytes 8 x.lword.toNat ++ leBytes 8 d ++ leBytes 6 r.wrote ++
          leBytes 1 (if x.kind = .cpy then 0 else 1) ++ leBytes 1 0
        let s2 := ((s1.areaWrite t.ctx t.winrec (0x580 + 32 * n) rest).areaWrite t.ctx t.winrec 0x10 (leBytes 1 (n + 1))).modThread t.tid
          fun u => { u with rests := u.rests.take n ++ [(x.pl, x.units)] }
        run { s2 with xfers := s2.xfers.filter fun y => y.id ≠ x.id }))

/-! ### The scheduler, suspension and the fabric (spec/13, spec/15, spec/16 R285, R286, spec/22 R344) -/

/-- R75, R257, R260, R271: the contender served has the highest priority and, among those, stands first from the pointer, which moves past
it; a thread that starts holds its launch's arguments, its context's registers as its record gives them, and nothing else; an instance whose
predecessors have ended enters the pool; a generation that has ended writes its status byte, then `finished`, once no numbered request
of it is left (log entry 81). The scheduler's addresses translate at S, and what does not translate is not written (log entry 38). -/
def Obligations.SchedulerEvents : Prop :=
  ∀ (s : State),
    (s.sched.paused = true → runs .threadStart s s) ∧
    (s.sched.paused = false → s.askVictim.winner = none → runs .threadStart s s.askVictim.closeQueues) ∧
    (s.sched.paused = false → ∀ k p s1, s.askVictim.winner = some (k, p, s1) →
      ∃ u : State, runs .threadStart s u.closeQueues ∧ u = { s1 with sched := { s1.sched with pointers := u.sched.pointers } } ∧
        ∀ q : Fin 8, u.sched.pointers[q] = if q.val = p then (k + 1) % 65 else s1.sched.pointers[q]) ∧
    (s.svc.upd ≠ 1 → s.closeQueues = s) ∧
    (∀ k p s1, s.winner = some (k, p, s1) → s.offer k = some (p, s1) ∧
      let ptr := s.sched.pointers.toList.getD p 0
      let ahead := fun (j : Nat) => if ptr ≤ j then j - ptr else j + 65 - ptr
      ptr < 65 → ∀ j ≤ 64, ∀ q sj, s.offer j = some (q, sj) → q ≤ p ∧ (q = p → ahead k ≤ ahead j)) ∧
    (∀ t, runs .threadStart s t → ∀ u ∈ t.others, (∀ v ∈ s.threads, v.tid ≠ u.tid) →
      ∃ l ∈ s.sched.launches, ∃ c0 c m h i n, s.ctx l.ctx = some c0 ∧ c = c0.loaded m ∧ u.launch = l.id ∧ u.ctx = l.ctx ∧ u.who = .tile h i n ∧ u.run = .running ∧
        u.pc = l.pkt.entry ∧ u.entering = true ∧ u.pl = 0 ∧ u.vl = 0 ∧ u.fcsr = 0 ∧ u.fsr = 0 ∧ u.lsat = 0 ∧ u.window = [] ∧ u.frozen = false ∧
        u.sregs.vec = c.trapvec ∧ u.featen0 = c.featen ∧ u.rc = c.rc ∧ u.getX 3 = c.gb + BitVec.ofNat 64 (h * 2 ^ 24 + i * 2 ^ 20) ∧
        (∀ j < 8, u.getX (BitVec.ofNat 6 (4 + j)) = l.pkt.args.getD j 0) ∧ ∀ r : XReg, r.toNat < 3 ∨ 12 ≤ r.toNat → u.getX r = 0) ∧
    (∀ gid n g, s.skipFailed.gen gid = some g → g.state n = .waiting → n < g.nodes.length → n < g.st.length →
      s.skipFailed.eligible g n = true → s.sched.pool.length < 4096 →
      ∃ t z, runs (.graphInstanceStart gid n) s t ∧ t.gen gid = some z ∧ z.state n ≠ .waiting ∧
        (z.state n = .ready → (gid, n) ∈ t.sched.pool)) ∧
    (∀ gid g pb pf, s.mem.wf = true → s.skipFailed.gen gid = some g → (∀ x ∈ g.st, x = .finished ∨ x = .skipped ∨ x = .failed) →
      (∀ c ∈ s.ctxs, (∀ o ∈ c.out, o.st ≠ .resolved → ∀ x, o.gen = some x → x.1 ≠ gid) ∧ ∀ r ∈ c.records, ∀ x, r.out.gen = some x → x.1 ≠ gid) →
      (∀ o ∈ s.sched.gens, o.ctx = g.ctx → o.addr = g.addr → o.g ≠ g.g → atOrBelow g.g o.g = false) →
      s.paOf g.ctx 1 (g.addr + BitVec.ofNat 64 (16 + g.g.toNat % 8)) .write = some pb → s.paOf g.ctx 1 (g.addr + 12) .write = some pf →
      pb < pf ∨ pf + 4 ≤ pb →
      ∃ t, runs (.graphGenerationFinish gid) s t ∧ memByte t.mem pb = (if g.failed then 1 else 0) + (if g.deferred then 2 else 0) ∧
        leNat (memRead t.mem pf 4) = (leNat (memRead s.mem pf 4) + 1) % 2 ^ 32 ∧ (∀ z ∈ t.sched.gens, z.id ≠ gid) ∧ t.th = s.th)

/-- R202, R285, R286, R323, R326, R344: a pre-empted thread is suspended with its registers and window as they stand, or notes the request while it is
exempt, and gives up the row or block its window has read in part; a thread that comes back to its own partition runs on with the scalar
state of its area; a quiesced hall has no running thread, and its marked tile is replaced or retired, the lowest first where several are
marked (log entry 31); a short-lived tile may lose its contents. -/
def Obligations.SwitchEvents : Prop :=
  (∀ (s : State) (tid : Nat) (t : Thread), s.thread tid = some t → t.isCore = false →
    let stops := fun (n : Instr) =>
      (s.exempt t = true → runs n s (s.modThread tid fun x => { x with pendPre := some (x.pendPre.getD false) })) ∧
      (s.exempt t = false → t.loads = [] → (∀ e ∈ t.window, e.formed = []) → ∃ u v, runs n s u ∧ u.thread tid = some v ∧ v.run = .suspended false ∧
        v.pc = t.pc ∧ v.x = t.x ∧ v.window = t.window.map (fun (e : Entry) => { e with got := [] }) ∧ v.part = t.part ∧ v.pendPre = none)
    (t.run = .running → stops (.preempt tid)) ∧
    (t.run = .running → t.pendPre.isSome = true → stops (.preemptTimeout tid)) ∧
    (t.pendPre = none → runs (.preemptTimeout tid) s s) ∧
    (∀ h i, t.place = some (h, i) → t.suspended = true →
      (s.comeback t h i = none → runs (.threadResume tid) s s) ∧
      (s.comeback t h i = some (.own t.grant) → s.areaBad t.ctx t.winrec = none → ∃ u v, runs (.threadResume tid) s u ∧ u.thread tid = some v ∧ v.run = .running ∧
        v.entering = true ∧ v.pc = ((s.reload t.ctx).loadScalar t).pc ∧ v.x = ((s.reload t.ctx).loadScalar t).x ∧
        (∀ c, (s.reload t.ctx).ctx t.ctx = some c → v.featen0 = c.featen ∧ v.rc = c.rc) ∧ v.part = t.part ∧ v.window = t.window ∧
        v.grant = t.grant ∧ v.vowner = t.selfOwner))) ∧
  (∀ (s : State) (h : Nat),
    let marked := (List.range 16).filter fun i => (s.tile h i).marked
    (marked = [] → s.badLines h = [] → runs (.hallQuiesce h) s s) ∧
    (marked ≠ [] ∨ s.badLines h ≠ [] → mapsLegal s → (s.threads.map (·.tid)).Nodup →
      (∀ t ∈ s.threads, t.isCore = false → t.place.map (·.1) = some h → t.run = .running ∨ t.suspended = true →
        (∀ e ∈ t.window, e.formed = []) ∧ t.loads = [] ∧ s.windowBusy t = false ∧
        (t.run = .running → t.readsBank = false ∧ s.exempt t = false)) →
      ∃ u, runs (.hallQuiesce h) s u ∧
        (∀ t ∈ u.threads, t.isCore = false → t.place.map (·.1) = some h → t.run ≠ .running) ∧
        ((s.hall h).spare.isSome = true → ∀ i ∈ marked, (u.tile h i).retired = true) ∧
        ((s.hall h).spare = none → ∀ i, marked.head? = some i → (u.tile h i).marked = false ∧ (u.hall h).spare = some i))) ∧
  (∀ (s : State) (h i z : Nat), i < 16 →
    (((s.tile h i).zAt z).short = false → runs (.ztileDrop (16 * h + i) z) s s) ∧
    (((s.tile h i).zAt z).short = true → ∃ t, runs (.ztileDrop (16 * h + i) z) s t ∧ ((t.tile h i).zAt z).dropped = true ∧
      t = { s with tiles := t.tiles }))

/-- R233, R236, R244: a node fires once its inputs hold tokens, and its result is the token; elements of a collective binding return
combined in ascending rank, or at the limit without a value and with `rstat.remind` set. -/
def Obligations.FabricEvents : Prop :=
  (∀ (s : State) (h i : Nat) (r : FRun) (e : Entry), s.th.place = some (h, i) → keysRise s.halls = true → s.fabric.owner = some s.th.tid → s.th.unchecked = [] →
    s.th.run = .running → s.th.part.isSome = true → s.th.frozen = false → s.currentRun = some r → s.th.entry r.post = some e → e.held = none →
    r.j < r.count →
    let left := fun (l : List (Nat × BitVec 32)) => ∃ m ∈ s.fabric.nodes, assocGet l (nodeNo m) = none
    let et := fun (b : Nat) => producerType s.th s.fabric 18 (48 + b)
    (∀ n ins, n ∈ s.fabric.nodes → findNode s.fabric.nodes (nodeNo n) = some n → classOf (nodeNo n) ≤ 2 → assocGet r.fired (nodeNo n) = none →
      nodeInputs s.fabric r s.th n = some ins →
      let fired := r.fired ++ [(nodeNo n, BitVec.ofNat 32 (nodeResult n e.frm ins).val)]
      left fired → runs (.fabricNodeFire h (nodeNo n)) s { s.modRun r.post (fun x => { x with fired := fired }) with th := s.th.retire }) ∧
    (∀ b bd v g vals, s.collWaiting b = some (r, bd, v) → left r.fired →
      (s.groupOf bd = some g → vals.length + 1 = g.members →
        runs (.collectiveCombine h b vals) s
          { s.collReturn r b (combineAll (et b) (bindCop bd) (vals.take g.rank ++ [v] ++ vals.drop g.rank)) with th := s.th.retire }) ∧
      runs (.collectiveTimeout h b) s
        { s.collReturn r b (noValue (et b)) with th := { s.th with remind := true }.retire })) ∧
  (∀ (n : BitVec 64) (m : RMode) (a b c : BitVec 32), nodeType n = 2 →
    let v := fun (ins : List (BitVec 32)) => BitVec.ofNat 32 (nodeResult n m ins).val
    (classOf (nodeNo n) = 0 → (nodeOp n = 0 → v [a, b] = a * b) ∧ (nodeOp n = 1 → v [a, b, c] = a * b + c) ∧ (nodeOp n = 2 → v [a] = a * nodeImm n)) ∧
    (classOf (nodeNo n) = 1 → (nodeOp n = 0 → v [a, b] = a + b) ∧ (nodeOp n = 1 → v [a, b] = a - b) ∧ (nodeOp n = 4 → v [a] = a + nodeImm n) ∧
      (nodeOp n = 5 → v [a, b] = if a.toInt < b.toInt then 1 else 0) ∧ (nodeOp n = 6 → v [a, b] = if a = b then 1 else 0) ∧
      (nodeOp n = 7 → v [a, b, c] = if c = 0 then b else a)))

/-! ### Links, owners, restarts and services (spec/12 R221, spec/16 R290, spec/18, spec/22, spec/23) -/

/-- R221, R299, R301, R313, R341, R343: what arrives over the links: trains, idempotent accesses, link errors; and the timers of the
idempotent requests of the thread that waits. A full bounce ring leaves a train or store without an answer, and a landing word in an
uncorrectable unit refuses the train (log entry 47); a request that times out ends the context with an interrupt and no record (log entry
48); the bytes of a plain store change no landing word (log entry 28). -/
def Obligations.LinkEvents : Prop :=
  ∀ (s : State),
    (∀ t : Train,
      let s1 := { s with hiend := { s.hiend with partials := s.hiend.partials.filter fun p => !(p.src = t.src && p.tag = t.tag) } }
      let run := runs (.trainReceive t) s
      ((t.src, t.tag) ∈ s.hiend.tags → run s) ∧
      ((t.src, t.tag) ∉ s.hiend.tags → t.elems.length ≠ t.count →
        run { s with hiend := { s.hiend with partials := s1.hiend.partials ++ [t] } }) ∧
      ((t.src, t.tag) ∉ s.hiend.tags → t.elems.length = t.count →
        (∀ c i, s1.refusedElem t.rvid t.elems 0 = some (c, i) → run (s1.answer t.rvid (BitVec.ofNat 32 t.tag) (.nackFault c i))) ∧
        (∀ c i, s1.refusedElem t.rvid t.elems 0 = none → s1.wordRefused t = some (c, i) →
          run (s1.answer t.rvid (BitVec.ofNat 32 t.tag) (.nackFault c i))) ∧
        (s1.refusedElem t.rvid t.elems 0 = none → s1.wordRefused t = none →
          let away := t.elems.filter fun x => s.goesToRing x.1
          (s.bounceRoom away.length = false → run s1) ∧
          (s.bounceRoom away.length = true → ∃ z, run z ∧ z.bounce.map (·.used) = s.bounce.map (·.used + away.length) ∧
            z.hiend.replies = s.hiend.replies ++ [(t.rvid, BitVec.ofNat 32 t.tag, .ack)] ∧ (t.src, t.tag) ∈ z.hiend.tags) ∧
          (s.bounceRoom 0 = true → away = [] →
            let s2 := t.elems.foldl (fun z x => z.applyPlain x.1 x.2) s1
            let s3 := match t.units with
              | some (pa, n) => s2.arrive pa n
              | none => s2
            run ({ s3 with hiend := { s3.hiend with tags := s3.hiend.tags ++ [(t.src, t.tag)] } }.answer t.rvid
              (BitVec.ofNat 32 t.tag) .ack))))) ∧
    (∀ src tag, ∃ t, runs (.ackTagExpiry src tag) s t ∧ t = { s with hiend := { s.hiend with tags := t.hiend.tags } } ∧
      ∀ x, x ∈ t.hiend.tags ↔ x ∈ s.hiend.tags ∧ x ≠ (src, tag)) ∧
    (∀ rvid pa bs c,
      (s.refuseIn rvid pa 8 true false = none →
        runs (.remoteAccessIn (.load rvid pa 8)) s (s.answer rvid 0 (.results [leWord (memRead s.mem pa 8)]))) ∧
      (s.refuseIn rvid pa 8 true false = some c → runs (.remoteAccessIn (.load rvid pa 8)) s (s.answer rvid 0 (.nackFault c 0))) ∧
      (s.refuseIn rvid pa 64 true false = none → ∃ l, runs (.remoteAccessIn (.fetch rvid pa)) s (s.answer rvid 0 (.results l)) ∧ l.length = 8) ∧
      (s.refuseIn rvid pa bs.length false true = none →
        (s.goesToRing pa = true → s.bounceRoom 1 = false → runs (.remoteAccessIn (.store rvid pa bs)) s s) ∧
        (¬(s.goesToRing pa = true ∧ s.bounceRoom 1 = false) →
          runs (.remoteAccessIn (.store rvid pa bs)) s ((s.receive pa pa 0 bs).answer rvid 0 .ack)) ∧
        (s.goesToRing pa = false → s.receive pa pa 0 bs = s.applyPlain pa bs)) ∧
      (s.refuseIn rvid pa bs.length false true = some c → runs (.remoteAccessIn (.store rvid pa bs)) s (s.answer rvid 0 (.nackFault c 0)))) ∧
    (s.awaitsRemote = true → runs (.idempotentTimeout s.th.tid) s (s.abortTold s.th.ctx)) ∧
    (s.awaitsRemote = false → runs (.idempotentTimeout s.th.tid) s s ∧ runs (.idempotentRetransmit s.th.tid) s s) ∧
    (s.awaitsRemote = true → s.th.idempotentOut = [] → runs (.idempotentRetransmit s.th.tid) s { s with
      stalled := false, th := s.th.retire
      hiend := { s.hiend with retries := s.hiend.retries.filter (· ≠ s.th.tid) ++ [s.th.tid] } }) ∧
    (∀ port, runs (.linkCrcRetry port false) s (s.rasRecord { cls := 8, action := 0, count := s.rasCount (.port port), port := port }) ∧
      ∃ t, runs (.linkCrcRetry port true) s t ∧ t.rasCount (.port port) = s.rasCount (.port port) + 1 ∧
        (port ∈ t.hiend.disabled ↔ port ∈ s.hiend.disabled ∨ 2 ≤ s.rasCount (.port port))) ∧
    (∀ rvid serial, ∃ t, runs (.partialTrainDiscard rvid serial) s t ∧ t.mem = s.mem ∧
      (∀ p ∈ t.hiend.owner.partials, ¬(p.rvid = rvid ∧ p.serial = serial)) ∧
      (∀ p ∈ t.hiend.partials, ¬(p.rvid = rvid ∧ p.tag = serial.toNat)) ∧ t.hiend.owner.cache = s.hiend.owner.cache)

/-- R305, R307, R341: what this device answers as the owner of a numbered request: it applies one once, and answers a copy from its entry;
and what acknowledgements, silence, a release and the end of a quarantine do to its entries. A request is refused whole, with its lowest
such element, where one meets an uncorrectable unit (log entry 47); bytes that one element of a non-returning train shares with another are
free (log entry 28). -/
def Obligations.OwnerEvents : Prop :=
  ∀ (s : State) (r : Request),
    let o := s.hiend.owner
    let here := runs (.ownerRequest s.hiend.id r) s
    let o1 := o.raiseFloor r.rvid r.wm
    let entry := o1.cache.find? fun e => e.rvid = r.rvid && e.serial = r.serial
    let known := r.rvid ∉ o.quarant ∧ r.inc = o.inc ∧ r.whole = true
    let passed := known ∧ entry = none ∧ ∀ f, assocGet o1.floors r.rvid = some f → atOrBelow f r.serial = false
    let replies := fun (t : State) (l : List Reply) => t.hiend.replies = s.hiend.replies ++ l.map fun a => (r.rvid, r.serial, a)
    (r.rvid ∈ o.quarant → here (s.answer r.rvid r.serial .nackExpired)) ∧
    (r.rvid ∉ o.quarant → r.inc ≠ o.inc → here (s.answer r.rvid r.serial (.nackRestarted o.inc))) ∧
    (r.rvid ∉ o.quarant → r.inc = o.inc → r.whole = false → ∃ t, here t ∧ t.mem = s.mem ∧ replies t [] ∧ r ∈ t.hiend.owner.partials) ∧
    (known → ∀ e, entry = some e → ∃ t, here t ∧ t.mem = s.mem ∧ replies t e.reply.toList ∧ t.hiend.owner.cache = o1.cache) ∧
    (known → entry = none → ∀ f, assocGet o1.floors r.rvid = some f → atOrBelow f r.serial = true → ∃ t, here t ∧ t.mem = s.mem ∧ replies t []) ∧
    (passed → o1.room ≤ o1.cache.length → ∃ t, here t ∧ t.mem = s.mem ∧ replies t [.nackBusy] ∧ t.hiend.owner.cache = o1.cache) ∧
    (passed → o1.cache.length < o1.room → ∀ c i, o1.firstRefused r.rvid (reqSize r) (r.elems.map (·.addr)) 0 = some (c, i) →
      ∃ t, here t ∧ t.mem = s.mem ∧ replies t [.nackFault c i]) ∧
    (passed → o1.cache.length < o1.room → o1.firstRefused r.rvid (reqSize r) (r.elems.map (·.addr)) 0 = none →
      (o.cache.any fun e => e.rvid = r.rvid && e.serial = r.serial) = false →
      (∀ c i, s.badElem r r.elems 0 = some (c, i) → ∃ t, here t ∧ t.mem = s.mem ∧ replies t [.nackFault c i]) ∧
      (s.badElem r r.elems 0 = none →
        let m := applyElems r s.mem r.elems
        let a := if r.ret then Reply.results m.2 else Reply.ack
        let words := r.elems.flatMap fun x => s.wordsMet s.threads x.addr (reqSize r)
        ∃ t, here t ∧ t.mem = (({ s with mem := m.1 } : State).spoilHome words).mem ∧ replies t [a] ∧
          t.hiend.owner.cache = o1.cache ++ [{ rvid := r.rvid, serial := r.serial, reply := some a }])) ∧
    (∀ wm, ∃ t, runs (.ownerAckPacket s.hiend.id r.rvid wm) s t ∧ t = { s with hiend := { s.hiend with owner := t.hiend.owner } } ∧
      ∀ e ∈ t.hiend.owner.cache, e.rvid = r.rvid → ∃ f, assocGet t.hiend.owner.floors r.rvid = some f ∧ atOrBelow f e.serial = false) ∧
    (let free := fun (n : Instr) => ∃ t, runs n s t ∧ r.rvid ∈ t.hiend.owner.quarant ∧ (∀ e ∈ t.hiend.owner.cache, e.rvid ≠ r.rvid) ∧ t.mem = s.mem;
      free (.rvidRelease s.hiend.id r.rvid) ∧ (o.holdsAbove r.rvid = true → free (.rvidSilenceTimeout s.hiend.id r.rvid)) ∧
      (o.holdsAbove r.rvid = false → runs (.rvidSilenceTimeout s.hiend.id r.rvid) s s)) ∧
    (r.rvid ∈ o.quarant → ∃ t, runs (.quarantineEnd s.hiend.id r.rvid) s t ∧ r.rvid ∉ t.hiend.owner.quarant ∧
      (∀ f ∈ t.hiend.owner.floors, f.1 ≠ r.rvid) ∧ t.mem = s.mem)

/-- R305: a numbered request that has been applied is not applied again: a copy of it leaves memory as it is and is given the same answer. -/
def Obligations.ExactlyOnce : Prop :=
  ∀ (s t u : State) (r : Request) (a : Reply), a = .ack ∨ (∃ v, a = .results v) → runs (.ownerRequest s.hiend.id r) s t →
    t.hiend.replies = s.hiend.replies ++ [(r.rvid, r.serial, a)] → runs (.ownerRequest s.hiend.id r) t u →
      u.mem = t.mem ∧ u.hiend.replies = t.hiend.replies ++ [(r.rvid, r.serial, a)]

/-- R304, R306, R309, R313: at the requester: a reply commits a scalar operation and resolves its serial; a serial that is given up
completes as indeterminate, with REMIND at the following instruction; a refusal traps, DABORT ends the context, and a reply that would trap
while traps are held back comes again; a request is sent again with its serial and elements; the watermark is reported. -/
def Obligations.RequesterEvents : Prop :=
  ∀ (s : State) (c : BitVec 32) (x : Ctx) (o : OutSerial), s.ctx c = some x →
    (x.out.find? fun (y : OutSerial) => y.serial = o.serial && y.st = .awaiting) = some o →
    (∀ old, o.kind = 0 → o.tid = s.th.tid → o.req.cls = .amo →
      ∃ t y, runs (.remoteReply c.toNat o.serial (.results [old])) s t ∧
        t.getX o.xd = (if o.xd = 0 then 0 else if o.req.w64 then old else (old.setWidth 32).signExtend 64) ∧ keepsX s t [o.xd] ∧ passed s t ∧
        t.th.await = none ∧ t.ctx c = some y ∧ ∀ p ∈ y.out, p.serial = o.serial → p.st = .resolved) ∧
    runs (.remoteReply c.toNat o.serial .nackBusy) s s ∧
    (o.kind = 0 → o.tid = s.th.tid → s.holdsReply o = false → ∀ n ∈ [Instr.nonidempotentTimeout c.toNat o.serial, .remoteReply c.toNat o.serial .nackExpired],
      ∃ t, runs n s t ∧ t.th.remind = true ∧ t.th.tregs.cause = 0x0B ∧ t.th.tregs.epc = s.th.nextPc ∧ t.th.tregs.val = o.va.headD 0 ∧
        keepsX s t [] ∧ t.th.await = none) ∧
    (o.kind ≤ 1 → ∀ i, runs (.remoteReply c.toNat o.serial (.nackFault 0x0C i)) s (s.abortTold c)) ∧
    (o.kind ≤ 1 → s.holdsReply o = true → ∀ cause i, cause ≠ 0x0C → runs (.remoteReply c.toNat o.serial (.nackFault cause i)) s s) ∧
    (o.kind = 0 → o.tid = s.th.tid → s.holdsReply o = false → ∀ cause i, cause ≠ 0x0C → ∃ t, runs (.remoteReply c.toNat o.serial (.nackFault cause i)) s t ∧
      t.th.tregs.cause = cause.setWidth 64 ∧ t.th.tregs.epc = s.th.pc ∧ t.th.tregs.val = o.va.headD 0 ∧ keepsX s t []) ∧
    (x.frozen = false → s.peer o.dev = none → runs (.nonidempotentRetransmit c.toNat o.serial) s (s.writeOut x o 1)) ∧
    (∀ p, s.peer o.dev = some p → p.up = true → ∃ t y, runs (.watermarkReport c.toNat o.dev) s t ∧
      t.peers = (s.setPeer { p with owner := p.owner.raiseFloor x.rvid x.serialack }).peers ∧ t.ctx c = some y ∧ y.newsFor o.dev = 0 ∧
      t = { s with peers := t.peers, ctxs := t.ctxs })

/-- R182–R184, R290, R353: messages at a network port: checked against the queue pair, the registered regions and the receives posted; bytes
that go to the bounce ring count no units. The answer where R184 names none is log entry 53: NAK invalid request for an unknown queue pair,
one in the error state, a Send that is too long or data of another length than announced; NAK access for a translation fault; RNR for a full
ring; and an immediate write ends a receive with its own length. -/
def Obligations.NetworkEvents : Prop :=
  ∀ (s : State) (m : NetMsg),
    runs (.netAtomicIn m) s (s.netReply .nakInvalid) ∧
    ((∀ q ∈ s.qps, q.qpn ≠ m.qpn) → ∀ n ∈ [Instr.netRdmaWriteIn m, .netRdmaReadIn m, .netSendIn m], runs n s (s.netReply .nakInvalid)) ∧
    (∀ q, (s.qps.find? fun q => q.qpn = m.qpn) = some q →
      ((s.ctx q.ctx).any (·.frozen) = true → ∀ n ∈ [Instr.netRdmaWriteIn m, .netRdmaReadIn m, .netSendIn m], runs n s (s.netReply .rnr)) ∧
      ((s.ctx q.ctx).any (·.frozen) = false → q.err = true →
        ∀ n ∈ [Instr.netRdmaWriteIn m, .netRdmaReadIn m, .netSendIn m], runs n s (s.netReply .nakInvalid)) ∧
      ((s.ctx q.ctx).any (·.frozen) = false → q.err = false →
        (s.netRegion q m true = none → runs (.netRdmaWriteIn m) s (s.netReply .nakAccess)) ∧
        (s.netRegion q m false = none → runs (.netRdmaReadIn m) s (s.netReply .nakAccess)) ∧
        (∀ r, s.netRegion q m true = some r → m.data.length ≠ m.len → runs (.netRdmaWriteIn m) s (s.netReply .nakInvalid)) ∧
        (∀ r, s.netRegion q m true = some r → m.data.length = m.len →
          let run := runs (.netRdmaWriteIn m) s
          let there := s.land q.ctx m.addr r.lword m.data
          (m.imm.isSome = true → s.nextRecv q = none → run (s.netReply .rnr)) ∧
          (m.imm = none ∨ (s.nextRecv q).isSome = true →
            (∀ c, there = .error (.fault c) → run (s.netReply .nakAccess)) ∧ (there = .error .full → run (s.netReply .rnr))) ∧
          (∀ s1 k, there = .ok (s1, k) →
            let s2 := if k < m.len then s1.arriveVa q.ctx r.lword (m.len - k) else s1
            (m.imm = none → run (s2.netReply .ack)) ∧
            (∀ v x, m.imm = some v → s.nextRecv q = some x → s2.nextRecv q = some x →
              run ((s2.endRecv q x m.len (some v) 0 (k == 0)).netReply .ack)))) ∧
        (∀ r c, s.netRegion q m false = some r → s.netPieces q.ctx m.addr .read (m.len + 1) m.len = .error c →
          runs (.netRdmaReadIn m) s (s.netReply .nakAccess)) ∧
        (∀ r l, s.netRegion q m false = some r → s.netPieces q.ctx m.addr .read (m.len + 1) m.len = .ok l → s.badUnit = [] →
          runs (.netRdmaReadIn m) s (s.netReply (.data (l.flatMap fun x => memRead s.mem x.1 x.2.2)))) ∧
        (s.nextRecv q = none → runs (.netSendIn m) s (s.netReply .rnr)) ∧
        (∀ x, s.nextRecv q = some x → x.units < m.data.length → ∃ t, runs (.netSendIn m) s t ∧ t.netOut = s.netOut ++ [.nakInvalid] ∧
          ∀ y ∈ t.xfers, y.id ≠ x.id) ∧
        (∀ x, s.nextRecv q = some x → m.data.length ≤ x.units →
          let run := runs (.netSendIn m) s
          let there := s.land q.ctx (x.addr 0) x.lword m.data
          (∀ c, there = .error (.fault c) →
            run (((s.modPair q.qpn fun p => { p with recvs := p.recvs.drop 1 }).endNet x c.toNat 0).netReply .nakAccess)) ∧
          (there = .error .full → run (s.netReply .rnr)) ∧
          (∀ s1 k, there = .ok (s1, k) →
            run ((s1.endRecv q x m.data.length m.imm k (decide (k < m.data.length) || m.data == [])).netReply .ack)))))

/-- R308, R309, R312, R348, R352, R353, R355: restarts, boot, loss of power, checkpoints and migration: what each keeps and what it loses.
The model's choices among these clauses: the power-on values (log entries 1, 2); the gallery is lost at a warm reset (log entry 49); what a
cold restart, a thermal shutdown and a power failure leave (log entry 50); how recovery is left, and that nothing but a boot happens in it (log
entry 51); a checkpoint and a restore are one step, and where the banks go (log entry 55); what a migration takes along (log entry 56). -/
def Obligations.DeviceEvents : Prop :=
  ∀ (s : State), mapsLegal s →
    let hbmKept := fun (t : State) => ∀ a, memByte t.mem a = if paKind a = .hbm then memByte s.mem a else 0
    let started := fun (t : State) => t.th = Thread.powerOn 0 ∧ t.ctxs = [] ∧ t.tiles = [] ∧ t.xfers = [] ∧ t.agenda = .event .boot :: s.agenda
    (∃ t, runs (.warmReset s.hiend.id) s t ∧ started t ∧ hbmKept t ∧ t.hiend.owner.cache = s.hiend.owner.cache ∧
      t.hiend.owner.floors = s.hiend.owner.floors ∧ t.hiend.owner.inc = s.hiend.owner.inc) ∧
    (∀ k, ∃ t, runs (.coldRestart s.hiend.id k) s t ∧ started t ∧ (k = true → hbmKept t) ∧ t.hiend.owner.inc = s.hiend.owner.inc + 1 ∧
      t.hiend.owner.cache = [] ∧ t.hiend.owner.floors = []) ∧
    (∃ t, runs .thermalShutdown s t ∧ started t ∧ hbmKept t ∧ t.power = .diesOff) ∧
    (∃ t, runs .powerFailure s t ∧ started t ∧ t.mem = [] ∧ t.power = .off) ∧
    (let v := s.svc
      let a := slotValid v.counter v.flash[0]?
      let b := slotValid v.counter v.flash[1]?
      (a = false → b = false → ∃ t, runs .boot s t ∧ t.svc.recovery = true ∧ t.svc.rcause = v.recoveryCause ∧ ∀ x ∈ t.threads, x.run = .exited) ∧
      (v.recovery = true → a = true ∨ b = true → ∃ t, runs .boot s t ∧ t.svc.recovery = false ∧ t.th = Thread.powerOn 0) ∧
      (∀ x, a = true → v.flash[0]? = some x → (b = false ∨ ∃ y, v.flash[1]? = some y ∧ y.ver.toNat ≤ x.ver.toNat) →
        ∃ t, runs .boot s t ∧ t.svc.slot = false ∧ t.svc.ver = x.ver ∧ t.svc.running = some x ∧ t.svc.fallback = !b ∧ t.svc.rcause = 0 ∧ t.power = .on) ∧
      (∀ y, b = true → v.flash[1]? = some y → (a = false ∨ ∃ x, v.flash[0]? = some x ∧ x.ver.toNat < y.ver.toNat) →
        ∃ t, runs .boot s t ∧ t.svc.slot = true ∧ t.svc.ver = y.ver ∧ t.svc.running = some y ∧ t.svc.fallback = !a ∧ t.svc.rcause = 0 ∧ t.power = .on)) ∧
    (s.svc.recovery = true → runs .bootComplete s s) ∧
    (s.svc.recovery = false → ∃ t, runs .bootComplete s t ∧ (s.svc.running = none → t.svc.counter = s.svc.counter) ∧
      ∀ x, s.svc.running = some x → t.svc.counter.toNat = max s.svc.counter.toNat x.minver.toNat) ∧
    (s.svc.recovery = true → runs .checkpoint s s) ∧
    (s.svc.recovery = false → ∀ s1, s.freeze (fun _ => true) = (s1, false) → runs .checkpoint s s1) ∧
    (s.svc.recovery = false → ∀ s1, s.freeze (fun _ => true) = (s1, true) → ∃ t c, runs .checkpoint s t ∧
      t = { s1.copyBanks with svc := { s1.svc with ckpts := s1.svc.ckpts ++ [c] } } ∧ c.mem = s1.copyBanks.mem ∧ c.ctxs = s1.ctxs ∧
      c.tiles = s1.tiles ∧ c.xfers = s1.xfers ∧ c.allocs = s1.allocs ∧ c.qps = s1.qps ∧ c.valid = true ∧
      (s1.mem.wf = true → (s1.tiles.map (·.1)).Nodup → (∀ x ∈ s1.tiles, x.1.2 < 16) → ∀ x ∈ s1.tiles, ∀ n < 4,
        memRead c.mem (Config.bankArea + 131072 * (16 * x.1.1 + x.1.2) + 32768 * n) 32768 = wBytes (x.2.wAt n))) ∧
    (∀ (n : Nat) c, s.svc.ckpts[n]? = some c →
      (c.valid = false → runs (.checkpointRestore n) s s) ∧
      (s.svc.recovery = true → runs (.checkpointRestore n) s s) ∧
      (c.valid = true → s.svc.recovery = false → (∃ t ∈ s.threads, t.isCore = true) → ∃ t, runs (.checkpointRestore n) s t ∧ t.mem = c.mem ∧
        t.ctxs = c.ctxs ∧ t.sched = c.sched ∧ t.xfers = c.xfers ∧ t.allocs = c.allocs ∧ t.qps = c.qps ∧ ∀ x ∈ c.threads, x ∈ t.threads)) ∧
    (∀ l dev,
      let mine := fun (c : BitVec 32) => l.contains c.toNat
      let fits := ∀ c ∈ l, Config.candidate dev (BitVec.ofNat 32 c) = true
      (¬fits ∨ s.svc.recovery = true → runs (.liveMigration l dev) s s) ∧
      (∀ s1, fits → s.svc.recovery = false → s.freeze mine = (s1, false) → runs (.liveMigration l dev) s s1) ∧
      (∀ s1, fits → s.svc.recovery = false → s.freeze mine = (s1, true) → ∃ t p, runs (.liveMigration l dev) s t ∧ t.mem = s1.mem ∧
        (∀ c ∈ t.ctxs, mine c.ctxid = true → c.frozen = true) ∧
        (∀ x ∈ t.threads, x.isCore = true → x.launch ≠ 0 ∨ x.pl = 0 → mine x.ctx = true → x.run ≠ .running) ∧
        t.svc.migrated = s1.svc.migrated ++ [p] ∧ p.ctxs = t.ctxs.filter fun c => mine c.ctxid))

/-- R346, R348–R351, R355: the service registers, live update, throttling and attestation, in every state; in recovery the endpoint serves
none of them but the throttle. The model's choices among these clauses: the descriptor's address is physical (log entry 42); what is served
in recovery (log entry 51); event writes act as an access at S (log entry 52); measurements of index 255, certificate slots other than 0 and
the bytes that are signed (log entry 54). -/
def Obligations.ServiceEvents : Prop :=
  ∀ (s : State),
    let v := s.svc
    let svc := fun (f : Service) => ({ s with svc := f } : State)
    let served := fun (i : Instr) (t : State) => (v.recovery = true → runs i s s) ∧ (v.recovery = false → runs i s t)
    (∀ watts tj, 115 ≤ tj → memoryLegal s = true → ∃ t, runs (.throttleUpdate watts tj) s t ∧ t.power = .diesOff ∧ t.ctxs = [] ∧
      ∀ a, memByte t.mem a = if paKind a = .hbm then memByte s.mem a else 0) ∧
    (∀ watts tj, tj < 115 → ∃ t, runs (.throttleUpdate watts tj) s t ∧ t.svc.tj = BitVec.ofNat 8 tj ∧
      t.svc.pcap = decide (v.pwrcap.toNat < watts) ∧ t.svc.tcap = decide (105 < tj) ∧
      (v.lvl ≤ 15 → v.pwrcap.toNat < watts ∨ 105 < tj → t.svc.lvl ≤ 15 ∧ (v.lvl < 15 → v.lvl < t.svc.lvl)) ∧
      (¬(v.pwrcap.toNat < watts ∨ 105 < tj) → t.svc.lvl ≤ v.lvl ∧ (0 < v.lvl → t.svc.lvl < v.lvl))) ∧
    (∀ d : Word,
      let desc := memRead s.mem d.toNat 32
      let b := bundleOf s.mem (fieldAt desc 0 8) (fieldAt desc 8 8)
      let part := s.sched.launches.any fun l => l.todo != [] && l.ran != [] && !l.failed
      (v.recovery = true → runs (.updreqWrite d) s s) ∧
      (v.recovery = false →
        (v.upd = 1 → runs (.updreqWrite d) s (svc { v with rej := true })) ∧
        (v.upd ≠ 1 → bundleValid v.counter b = false → runs (.updreqWrite d) s (svc { v with upd := 3 })) ∧
        (v.upd ≠ 1 → bundleValid v.counter b = true → ∃ t, runs (.updreqWrite d) s t ∧ t.svc.upd = 1 ∧ t.svc.updBundle = some b ∧
          t.svc.flash[if v.slot then 0 else 1]? = some b ∧ t.mem = s.mem ∧
          (part = false → t.sched = { s.sched with paused := true } ∧ (s.sched.paused = false → t.svc.handover = some s.sched)) ∧
          (part = true → t.sched = s.sched)))) ∧
    served .updreqRead (svc { v with rej := false }) ∧
    (v.updBundle = none ∨ v.upd ≠ 1 ∨ s.sched.paused = false → served .hbeat (svc { v with hbeat := v.hbeat + 1 })) ∧
    (∀ b, v.updBundle = some b → v.upd = 1 → s.sched.paused = true →
      served .hbeat { s with svc := { v with hbeat := v.hbeat + 1, upd := 2, updBundle := none, schedFw := bundleComp b 1 },
                             sched := { s.sched with paused := false } }) ∧
    (¬(v.upd = 1 ∧ s.sched.paused = true) → runs .updateHeartbeatTimeout s s) ∧
    (v.upd = 1 → s.sched.paused = true → ∃ t, runs .updateHeartbeatTimeout s t ∧ t.svc.upd = 4 ∧ t.svc.updBundle = none ∧
      t.sched = { s.sched with paused := false } ∧ t.svc.schedFw = v.schedFw ∧ ∀ b, t.svc.flash[if v.slot then 0 else 1]? = some b → b.bad = true) ∧
    (∀ w : Word, (∀ pa, pa ∉ [0x00FF00001008, 0x00FF00001020, 0x00FF00001028] → runs (.registerWrite pa w) s s) ∧
      served (.registerWrite 0x00FF00001020 w) (svc { v with
        pwrcap := if w.toNat % 4096 < 800 ∨ 2000 < w.toNat % 4096 then v.pwrcap else BitVec.ofNat 12 (w.toNat % 4096) }) ∧
      served (.registerWrite 0x00FF00001028 w) (svc { v with rasring := w &&& 0xFFFFFFFFFFFFFFC0 }) ∧
      ∃ t, runs (.updreqWrite w) s t ∧ runs (.registerWrite 0x00FF00001008 w) s t) ∧
    (let replies := fun (i : Instr) (a : SpdmReply) => served i (svc { v with spdm := v.spdm ++ [a] })
      let item := fun (i : Nat) => (i, Config.sm3 (s.measured i))
      let signed := fun (l : List (Nat × List Byte)) => SpdmReply.measurements l (Config.sm2Sign (l.flatMap fun x => BitVec.ofNat 8 x.1 :: x.2))
      replies .getVersion (.version 0x13) ∧ replies .getCapabilities (.capabilities false) ∧ replies .getDigests (.digests (Config.sm3 Config.certChain)) ∧
      (∀ a b, replies (.negotiateAlgorithms a b) (if a || b then .algorithms else .error)) ∧
      (∀ n, replies (.getCertificate n) (if n = 0 then .certificate Config.certChain else .error)) ∧
      (∀ n r, replies (.challenge n r) (if n = 0 then .challenge (Config.sm2Sign (Config.sm3 Config.certChain ++ r)) else .error)) ∧
      (∀ i, replies (.getMeasurements i) (if 1 ≤ i ∧ i ≤ 5 then signed [item i] else if i = 255 then signed ([1, 2, 3, 4, 5].map item) else .error)) ∧
      ∀ c, replies (.spdmUnsupported c) .unsupportedRequest)

/-! ### Reset and the memory form -/

/-- R273, R346, R348: right after reset the cores stand at M with the boot ROM's step next, and memory lists nothing. The registers' zeros,
the pc and the two maps' form are the model's choice (log entries 1 and 2). -/
def Obligations.ResetState : Prop :=
  let s := State.reset
  mapsLegal s ∧ s.mem = [] ∧ s.power = .on ∧ s.agenda = [.event .boot] ∧ s.threads.length = 16 ∧
  (∀ t ∈ s.threads, t.pl = 3 ∧ levelLegal t = true ∧ t.isCore = true ∧ t.pc = 2 ∧ t.window = [] ∧ ∀ r, t.getX r = 0) ∧
  s.svc.pwrcap = 2000 ∧ s.svc.lvl = 0 ∧ s.ctxs = []

/-- R208: whatever a step does, every memory stays in its canonical form: this device's, the other devices' and the checkpoints'. -/
def Obligations.StepKeepsMemoryForm : Prop :=
  ∀ (s t : State), memoryLegal s = true → step s = .next t → memoryLegal t = true
end

