-- ==== Sys2Proof/Laws/Memory.lean ====
section
/-! SUPPORT. Laws of the canonical maps and of memory: a read after a write, what a write leaves alone, and that every operation
keeps the canonical form (spec/12 R208). -/

namespace Sys2Proof.Laws

open Sys2Proof.Machine Sys2Proof.Safety

set_option Elab.async false

/-! ### Sparse maps -/

section Sparse

variable {α : Type} [DecidableEq α] {d : α}

theorem swf_tail {p : Nat × α} {m : Sparse α} (h : swf d (p :: m) = true) : swf d m = true := by
  cases m with
  | nil => rfl
  | cons q r => simp only [swf, Bool.and_eq_true] at h; exact h.2

/-- The first entry of a canonical map is not the default. -/
theorem swf_head {k : Nat} {v : α} {m : Sparse α} (h : swf d ((k, v) :: m) = true) : v ≠ d := by
  cases m with
  | nil => simpa [swf] using h
  | cons q r => simp only [swf, Bool.and_eq_true, decide_eq_true_eq] at h; exact h.1.1

/-- Keys after the first lie above it. -/
theorem swf_above {k : Nat} {v : α} {m : Sparse α} (h : swf d ((k, v) :: m) = true) : ∀ p ∈ m, k < p.1 := by
  induction m generalizing k v with
  | nil => simp
  | cons q r ih =>
    simp only [swf, Bool.and_eq_true, decide_eq_true_eq] at h
    intro p hp
    rcases List.mem_cons.1 hp with rfl | hp
    · exact h.1.2
    · exact Nat.lt_trans h.1.2 (ih h.2 p hp)

theorem swf_cons {k : Nat} {v : α} {m : Sparse α} (hv : v ≠ d) (hk : ∀ p ∈ m, k < p.1) (hm : swf d m = true) :
    swf d ((k, v) :: m) = true := by
  cases m with
  | nil => simpa [swf] using hv
  | cons q r => simp only [swf, Bool.and_eq_true, decide_eq_true_eq]; exact ⟨⟨hv, hk q (List.mem_cons_self ..)⟩, hm⟩

/-- A write adds no key but its own. -/
theorem sset_mem {m : Sparse α} {a : Nat} {v : α} {p : Nat × α} (h : p ∈ sset d m a v) : p ∈ m ∨ p = (a, v) := by
  induction m with
  | nil => unfold sset at h; split at h <;> simp_all
  | cons q r ih =>
    obtain ⟨k, w⟩ := q
    unfold sset at h
    split at h
    · split at h
      · exact .inl h
      · exact (List.mem_cons.1 h).symm
    · split at h
      · split at h
        · exact .inl (List.mem_cons_of_mem _ h)
        · exact (List.mem_cons.1 h).symm.imp_left (List.mem_cons_of_mem _)
      · rcases List.mem_cons.1 h with h | h
        · exact .inl (h ▸ List.mem_cons_self ..)
        · exact (ih h).imp_left (List.mem_cons_of_mem _)

/-- A write keeps the canonical form. -/
theorem sset_wf {m : Sparse α} (h : swf d m = true) (a : Nat) (v : α) : swf d (sset d m a v) = true := by
  induction m with
  | nil => unfold sset; split <;> simp_all [swf]
  | cons q r ih =>
    obtain ⟨k, w⟩ := q
    have hw := swf_head h
    have ha := swf_above h
    unfold sset
    split
    · split
      · exact h
      · exact swf_cons ‹_› (fun p hp => by
          rcases List.mem_cons.1 hp with rfl | hp
          · assumption
          · exact Nat.lt_trans ‹_› (ha p hp)) h
    · split
      · split
        · exact swf_tail h
        · exact swf_cons ‹_› (fun p hp => by have := ha p hp; omega) (swf_tail h)
      · exact swf_cons hw (fun p hp => by
          rcases sset_mem hp with hp | rfl
          · exact ha p hp
          · show k < a; omega) (ih (swf_tail h))

omit [DecidableEq α] in
/-- A read below the first key finds the default. -/
theorem sget_low {m : Sparse α} {a : Nat} (h : ∀ p ∈ m, a < p.1) : sget d m a = d := by
  cases m with
  | nil => rfl
  | cons q r =>
    have := h q (List.mem_cons_self ..)
    unfold sget
    rw [if_neg (by omega), if_pos this]

/-- A read after a write: the value written at its key, and what was there elsewhere. -/
theorem sget_sset {m : Sparse α} (h : swf d m = true) (a b : Nat) (v : α) : sget d (sset d m a v) b = if b = a then v else sget d m b := by
  induction m with
  | nil =>
    unfold sset
    by_cases hv : v = d
    · rw [if_pos hv]; split <;> simp [sget, hv]
    · rw [if_neg hv]
      by_cases hb : b = a
      · simp [sget, hb]
      · rw [if_neg hb]; simp [sget, Ne.symm hb]
  | cons q r ih =>
    obtain ⟨k, w⟩ := q
    have ha := swf_above h
    unfold sset
    by_cases h1 : a < k
    · rw [if_pos h1]
      by_cases hv : v = d
      · rw [if_pos hv]
        by_cases hb : b = a
        · subst hb; simp only [sget, if_true]; rw [if_neg (by omega), if_pos h1, hv]
        · rw [if_neg hb]
      · rw [if_neg hv]
        by_cases hb : b = a
        · simp [sget, hb]
        · rw [if_neg hb]
          simp only [sget]
          rw [if_neg (fun e => hb e.symm)]
          by_cases h2 : b < a
          · rw [if_pos h2, if_neg (by omega), if_pos (by omega)]
          · rw [if_neg h2]
    · rw [if_neg h1]
      by_cases h2 : a = k
      · subst h2
        rw [if_pos rfl]
        by_cases hv : v = d
        · rw [if_pos hv]
          by_cases hb : b = a
          · rw [if_pos hb, hb, hv]; exact sget_low ha
          · rw [if_neg hb]
            simp only [sget]
            rw [if_neg (fun e => hb e.symm)]
            by_cases h3 : b < a
            · rw [if_pos h3]; exact sget_low fun p hp => Nat.lt_trans h3 (ha p hp)
            · rw [if_neg h3]
        · rw [if_neg hv]
          by_cases hb : b = a
          · simp [sget, hb]
          · simp only [sget]; rw [if_neg hb, if_neg (Ne.symm hb), if_neg (Ne.symm hb)]
      · rw [if_neg h2]
        simp only [sget]
        by_cases hb : k = b
        · rw [if_pos hb, if_pos hb, if_neg (by omega)]
        · rw [if_neg hb, if_neg hb]
          by_cases h3 : b < k
          · rw [if_pos h3, if_pos h3, if_neg (by omega)]
          · rw [if_neg h3, if_neg h3, ih (swf_tail h)]

theorem ssetList_wf {m : Sparse α} (h : swf d m = true) (a : Nat) (l : List α) : swf d (ssetList d m a l) = true := by
  induction l generalizing m a with
  | nil => exact h
  | cons v r ih => exact ih (sset_wf h a v) (a + 1)

/-- A read after consecutive writes. -/
theorem sget_ssetList {m : Sparse α} (h : swf d m = true) (a b : Nat) (l : List α) :
    sget d (ssetList d m a l) b = if a ≤ b ∧ b < a + l.length then l.getD (b - a) d else sget d m b := by
  induction l generalizing m a with
  | nil => rw [if_neg (by simp only [List.length_nil]; omega)]; rfl
  | cons v r ih =>
    show sget d (ssetList d (sset d m a v) (a + 1) r) b = _
    rw [ih (sset_wf h a v), sget_sset h]
    simp only [List.length_cons]
    by_cases h1 : b = a
    · subst h1; rw [if_neg (by omega), if_pos rfl, if_pos (by omega)]; simp
    · by_cases h2 : a + 1 ≤ b ∧ b < a + 1 + r.length
      · rw [if_pos h2, if_pos (by omega)]
        obtain ⟨j, hj⟩ : ∃ j, b - a = j + 1 := ⟨b - a - 1, by omega⟩
        have : b - (a + 1) = j := by omega
        rw [hj, this]; rfl
      · rw [if_neg h2, if_neg h1, if_neg (by omega)]

omit [DecidableEq α] in
theorem sgetList_length (m : Sparse α) (a n : Nat) : (sgetList d m a n).length = n := by
  induction n generalizing a with
  | zero => rfl
  | succ n ih => simp [sgetList, ih]

omit [DecidableEq α] in
theorem sgetList_getD (m : Sparse α) (a n i : Nat) (h : i < n) : (sgetList d m a n).getD i d = sget d m (a + i) := by
  induction n generalizing a i with
  | zero => omega
  | succ n ih =>
    cases i with
    | zero => rfl
    | succ j =>
      show (sgetList d m (a + 1) n).getD j d = _
      rw [ih (a + 1) j (by omega)]
      congr 1
      omega

end Sparse

/-! ### Memory -/

/-- A write keeps memory's canonical form. -/
theorem memWrite_wf {m : Memory} (h : m.wf = true) (pa : Nat) (bs : List Byte) : (memWrite m pa bs).wf = true := ssetList_wf h pa bs

/-- A byte after a write: the byte written in its range, and what was there outside. -/
theorem memByte_memWrite {m : Memory} (h : m.wf = true) (pa a : Nat) (bs : List Byte) :
    memByte (memWrite m pa bs) a = if pa ≤ a ∧ a < pa + bs.length then bs.getD (a - pa) 0 else memByte m a := sget_ssetList h pa a bs

theorem memRead_length (m : Memory) (pa n : Nat) : (memRead m pa n).length = n := sgetList_length m pa n

theorem memRead_getD (m : Memory) (pa n i : Nat) (h : i < n) : (memRead m pa n).getD i 0 = memByte m (pa + i) := sgetList_getD m pa n i h

/-- Two lists of bytes with the same length and the same bytes are one. -/
theorem bytes_ext {l r : List Byte} (h : l.length = r.length) (hi : ∀ i < l.length, l.getD i 0 = r.getD i 0) : l = r := by
  apply List.ext_getElem h
  intro i h1 h2
  have := hi i h1
  simpa [List.getD_eq_getElem?_getD, h1, h2] using this

/-- The bytes written are read back. -/
theorem memRead_memWrite {m : Memory} (h : m.wf = true) (pa : Nat) (bs : List Byte) : memRead (memWrite m pa bs) pa bs.length = bs := by
  apply bytes_ext (memRead_length ..)
  intro i hi
  rw [memRead_length] at hi
  rw [memRead_getD _ _ _ _ hi, memByte_memWrite h, if_pos (by omega)]
  congr 1
  omega

/-- A read that meets no written byte sees what was there. -/
theorem memRead_memWrite_apart {m : Memory} (h : m.wf = true) (pa a n : Nat) (bs : List Byte) (hd : a + n ≤ pa ∨ pa + bs.length ≤ a) :
    memRead (memWrite m pa bs) a n = memRead m a n := by
  apply bytes_ext (by rw [memRead_length, memRead_length])
  intro i hi
  rw [memRead_length] at hi
  rw [memRead_getD _ _ _ _ hi, memRead_getD _ _ _ _ hi, memByte_memWrite h, if_neg (by omega)]

/-! ### Bytes at their homes -/

@[simp] theorem apply_mem (s : State) (pa : Nat) (bs : List Byte) : (s.apply pa bs).mem = memWrite s.mem pa bs := rfl

theorem meetBad_wf {s : State} (h : s.mem.wf = true) (c : BitVec 32) (pa : Nat) : (s.meetBad c pa).mem.wf = true := by
  unfold State.meetBad
  split <;> exact h

theorem applyFor_wf {s : State} (h : s.mem.wf = true) (c : BitVec 32) (pa : Nat) (bs : List Byte) : (s.applyFor c pa bs).mem.wf = true := by
  unfold State.applyFor
  split
  · exact meetBad_wf h _ _
  · exact memWrite_wf h _ _

theorem applyAll_wf {s : State} (h : s.mem.wf = true) (ws : List Write) : (s.applyAll ws).mem.wf = true := by
  unfold State.applyAll
  induction ws generalizing s with
  | nil => exact h
  | cons w r ih => exact ih (applyFor_wf h _ _ _)

theorem drain_wf {s : State} (hm : s.mem.wf = true) (h t : Nat) : (s.drain h t).mem.wf = true :=
  applyAll_wf (s := (s.applyAll (s.hall h).buffer).setHall h { (s.applyAll (s.hall h).buffer).hall h with buffer := [] }) (applyAll_wf hm _) _

theorem drainWhere_wf {s : State} (hm : s.mem.wf = true) (h t : Nat) (p : Write → Bool) : (s.drainWhere h t p).mem.wf = true :=
  applyAll_wf (applyAll_wf hm _) _

theorem drainOwn_wf {s : State} (hm : s.mem.wf = true) : s.drainOwn.mem.wf = true := by
  unfold State.drainOwn
  split
  · exact hm
  · split
    · exact hm
    · exact drainWhere_wf hm _ _ _

theorem drainAt_wf {s : State} (hm : s.mem.wf = true) (pa n : Nat) : (s.drainAt pa n).mem.wf = true := by
  unfold State.drainAt
  split
  · exact hm
  · split
    · exact hm
    · exact drainWhere_wf hm _ _ _

theorem arrive_wf {s : State} (hm : s.mem.wf = true) (pa u : Nat) : (s.arrive pa u).mem.wf = true := by
  unfold State.arrive
  split
  · exact hm
  · exact memWrite_wf hm _ _

theorem arriveVa_wf {s : State} (hm : s.mem.wf = true) (c : BitVec 32) (va : Word) (u : Nat) : (s.arriveVa c va u).mem.wf = true := by
  unfold State.arriveVa
  split
  · exact hm
  · split
    · split
      · exact meetBad_wf hm _ _
      · exact arrive_wf hm _ _
    · exact hm

/-- A change that leaves memory as another state has it. -/
theorem wf_of_mem {s t : State} (h : t.mem = s.mem) (hs : s.mem.wf = true) : t.mem.wf = true := h ▸ hs

theorem apply_wf {s : State} (hm : s.mem.wf = true) (pa : Nat) (bs : List Byte) : (s.apply pa bs).mem.wf = true := memWrite_wf hm pa bs

theorem spoil_wf {s : State} (hm : s.mem.wf = true) (w : Nat) : (s.spoil w).mem.wf = true := by
  unfold State.spoil
  generalize s.freeBytes 16 = bs
  have h := drainAt_wf hm w 16
  generalize s.drainAt w 16 = d at h ⊢
  cases s.th.place with
  | none => exact apply_wf hm w bs
  | some p =>
    cases s.policy.apply with
    | false => exact hm
    | true => exact apply_wf h w bs

/-- What other devices and atomics touch at their home keeps memory in its canonical form. -/
theorem spoilHome_wf {s : State} (hm : s.mem.wf = true) (l : List Nat) : (s.spoilHome l).mem.wf = true := by
  unfold State.spoilHome
  induction l generalizing s with
  | nil => exact hm
  | cons w r ih =>
    rw [List.foldl_cons]
    apply ih
    generalize s.freeBytes 16 = bs
    exact apply_wf hm w bs

/-- Landing words that plain stores touch keep memory in its canonical form. -/
theorem spoils_wf {s : State} (hm : s.mem.wf = true) (l : List Nat) : (l.foldl State.spoil s).mem.wf = true := by
  induction l generalizing s with
  | nil => exact hm
  | cons w r ih => exact ih (spoil_wf hm w)

/-- Memory right after reset is in its canonical form. -/
theorem reset_wf : State.reset.mem.wf = true := rfl

/-! ### Byte order -/

theorem leBytes_length (n v : Nat) : (leBytes n v).length = n := by
  induction n generalizing v with
  | zero => rfl
  | succ n ih => simp [leBytes, ih]

/-- The number that `n` bytes of a value stand for. -/
theorem leNat_leBytes (n v : Nat) : leNat (leBytes n v) = v % 2 ^ (8 * n) := by
  induction n generalizing v with
  | zero => simp [leBytes, leNat, Nat.mod_one]
  | succ n ih =>
    simp only [leBytes, leNat, ih, BitVec.toNat_ofNat]
    rw [show 8 * (n + 1) = 8 + 8 * n by omega, Nat.pow_add, Nat.mod_mul]

end Sys2Proof.Laws
end

