-- ==== Sys2Proof/Laws/State.lean ====
section
/-! SUPPORT. What each named update of the state leaves alone: one lemma for each field of State, so that no later proof unfolds a
record update; and the registers after each update of the agent. -/

namespace Sys2Proof.Laws

open Sys2Proof.Machine Sys2Proof.Safety

set_option Elab.async false

/-! ### State.setX -/

@[simp] theorem setX_others (s : State) (r : XReg) (v : Word) : (s.setX r v).others = s.others := rfl
@[simp] theorem setX_stalled (s : State) (r : XReg) (v : Word) : (s.setX r v).stalled = s.stalled := rfl
@[simp] theorem setX_agenda (s : State) (r : XReg) (v : Word) : (s.setX r v).agenda = s.agenda := rfl
@[simp] theorem setX_policy (s : State) (r : XReg) (v : Word) : (s.setX r v).policy = s.policy := rfl
@[simp] theorem setX_fresh (s : State) (r : XReg) (v : Word) : (s.setX r v).fresh = s.fresh := rfl
@[simp] theorem setX_mem (s : State) (r : XReg) (v : Word) : (s.setX r v).mem = s.mem := rfl
@[simp] theorem setX_badUnit (s : State) (r : XReg) (v : Word) : (s.setX r v).badUnit = s.badUnit := rfl
@[simp] theorem setX_dues (s : State) (r : XReg) (v : Word) : (s.setX r v).dues = s.dues := rfl
@[simp] theorem setX_stops (s : State) (r : XReg) (v : Word) : (s.setX r v).stops = s.stops := rfl
@[simp] theorem setX_words (s : State) (r : XReg) (v : Word) : (s.setX r v).words = s.words := rfl
@[simp] theorem setX_allocs (s : State) (r : XReg) (v : Word) : (s.setX r v).allocs = s.allocs := rfl
@[simp] theorem setX_tiles (s : State) (r : XReg) (v : Word) : (s.setX r v).tiles = s.tiles := rfl
@[simp] theorem setX_halls (s : State) (r : XReg) (v : Word) : (s.setX r v).halls = s.halls := rfl
@[simp] theorem setX_ctxs (s : State) (r : XReg) (v : Word) : (s.setX r v).ctxs = s.ctxs := rfl
@[simp] theorem setX_sched (s : State) (r : XReg) (v : Word) : (s.setX r v).sched = s.sched := rfl
@[simp] theorem setX_xfers (s : State) (r : XReg) (v : Word) : (s.setX r v).xfers = s.xfers := rfl
@[simp] theorem setX_media (s : State) (r : XReg) (v : Word) : (s.setX r v).media = s.media := rfl
@[simp] theorem setX_spaces (s : State) (r : XReg) (v : Word) : (s.setX r v).spaces = s.spaces := rfl
@[simp] theorem setX_qps (s : State) (r : XReg) (v : Word) : (s.setX r v).qps = s.qps := rfl
@[simp] theorem setX_regions (s : State) (r : XReg) (v : Word) : (s.setX r v).regions = s.regions := rfl
@[simp] theorem setX_bounce (s : State) (r : XReg) (v : Word) : (s.setX r v).bounce = s.bounce := rfl
@[simp] theorem setX_netOut (s : State) (r : XReg) (v : Word) : (s.setX r v).netOut = s.netOut := rfl
@[simp] theorem setX_hiend (s : State) (r : XReg) (v : Word) : (s.setX r v).hiend = s.hiend := rfl
@[simp] theorem setX_peers (s : State) (r : XReg) (v : Word) : (s.setX r v).peers = s.peers := rfl
@[simp] theorem setX_ras (s : State) (r : XReg) (v : Word) : (s.setX r v).ras = s.ras := rfl
@[simp] theorem setX_svc (s : State) (r : XReg) (v : Word) : (s.setX r v).svc = s.svc := rfl
@[simp] theorem setX_power (s : State) (r : XReg) (v : Word) : (s.setX r v).power = s.power := rfl

/-! ### State.setTh -/

@[simp] theorem setTh_others (s : State) (t : Thread) : (s.setTh t).others = s.others := rfl
@[simp] theorem setTh_stalled (s : State) (t : Thread) : (s.setTh t).stalled = s.stalled := rfl
@[simp] theorem setTh_agenda (s : State) (t : Thread) : (s.setTh t).agenda = s.agenda := rfl
@[simp] theorem setTh_policy (s : State) (t : Thread) : (s.setTh t).policy = s.policy := rfl
@[simp] theorem setTh_fresh (s : State) (t : Thread) : (s.setTh t).fresh = s.fresh := rfl
@[simp] theorem setTh_mem (s : State) (t : Thread) : (s.setTh t).mem = s.mem := rfl
@[simp] theorem setTh_badUnit (s : State) (t : Thread) : (s.setTh t).badUnit = s.badUnit := rfl
@[simp] theorem setTh_dues (s : State) (t : Thread) : (s.setTh t).dues = s.dues := rfl
@[simp] theorem setTh_stops (s : State) (t : Thread) : (s.setTh t).stops = s.stops := rfl
@[simp] theorem setTh_words (s : State) (t : Thread) : (s.setTh t).words = s.words := rfl
@[simp] theorem setTh_allocs (s : State) (t : Thread) : (s.setTh t).allocs = s.allocs := rfl
@[simp] theorem setTh_tiles (s : State) (t : Thread) : (s.setTh t).tiles = s.tiles := rfl
@[simp] theorem setTh_halls (s : State) (t : Thread) : (s.setTh t).halls = s.halls := rfl
@[simp] theorem setTh_ctxs (s : State) (t : Thread) : (s.setTh t).ctxs = s.ctxs := rfl
@[simp] theorem setTh_sched (s : State) (t : Thread) : (s.setTh t).sched = s.sched := rfl
@[simp] theorem setTh_xfers (s : State) (t : Thread) : (s.setTh t).xfers = s.xfers := rfl
@[simp] theorem setTh_media (s : State) (t : Thread) : (s.setTh t).media = s.media := rfl
@[simp] theorem setTh_spaces (s : State) (t : Thread) : (s.setTh t).spaces = s.spaces := rfl
@[simp] theorem setTh_qps (s : State) (t : Thread) : (s.setTh t).qps = s.qps := rfl
@[simp] theorem setTh_regions (s : State) (t : Thread) : (s.setTh t).regions = s.regions := rfl
@[simp] theorem setTh_bounce (s : State) (t : Thread) : (s.setTh t).bounce = s.bounce := rfl
@[simp] theorem setTh_netOut (s : State) (t : Thread) : (s.setTh t).netOut = s.netOut := rfl
@[simp] theorem setTh_hiend (s : State) (t : Thread) : (s.setTh t).hiend = s.hiend := rfl
@[simp] theorem setTh_peers (s : State) (t : Thread) : (s.setTh t).peers = s.peers := rfl
@[simp] theorem setTh_ras (s : State) (t : Thread) : (s.setTh t).ras = s.ras := rfl
@[simp] theorem setTh_svc (s : State) (t : Thread) : (s.setTh t).svc = s.svc := rfl
@[simp] theorem setTh_power (s : State) (t : Thread) : (s.setTh t).power = s.power := rfl

/-! ### State.advance -/

@[simp] theorem advance_others (s : State) : (s.advance).others = s.others := rfl
@[simp] theorem advance_stalled (s : State) : (s.advance).stalled = s.stalled := rfl
@[simp] theorem advance_agenda (s : State) : (s.advance).agenda = s.agenda := rfl
@[simp] theorem advance_policy (s : State) : (s.advance).policy = s.policy := rfl
@[simp] theorem advance_fresh (s : State) : (s.advance).fresh = s.fresh := rfl
@[simp] theorem advance_mem (s : State) : (s.advance).mem = s.mem := rfl
@[simp] theorem advance_badUnit (s : State) : (s.advance).badUnit = s.badUnit := rfl
@[simp] theorem advance_dues (s : State) : (s.advance).dues = s.dues := rfl
@[simp] theorem advance_stops (s : State) : (s.advance).stops = s.stops := rfl
@[simp] theorem advance_words (s : State) : (s.advance).words = s.words := rfl
@[simp] theorem advance_allocs (s : State) : (s.advance).allocs = s.allocs := rfl
@[simp] theorem advance_tiles (s : State) : (s.advance).tiles = s.tiles := rfl
@[simp] theorem advance_halls (s : State) : (s.advance).halls = s.halls := rfl
@[simp] theorem advance_ctxs (s : State) : (s.advance).ctxs = s.ctxs := rfl
@[simp] theorem advance_sched (s : State) : (s.advance).sched = s.sched := rfl
@[simp] theorem advance_xfers (s : State) : (s.advance).xfers = s.xfers := rfl
@[simp] theorem advance_media (s : State) : (s.advance).media = s.media := rfl
@[simp] theorem advance_spaces (s : State) : (s.advance).spaces = s.spaces := rfl
@[simp] theorem advance_qps (s : State) : (s.advance).qps = s.qps := rfl
@[simp] theorem advance_regions (s : State) : (s.advance).regions = s.regions := rfl
@[simp] theorem advance_bounce (s : State) : (s.advance).bounce = s.bounce := rfl
@[simp] theorem advance_netOut (s : State) : (s.advance).netOut = s.netOut := rfl
@[simp] theorem advance_hiend (s : State) : (s.advance).hiend = s.hiend := rfl
@[simp] theorem advance_peers (s : State) : (s.advance).peers = s.peers := rfl
@[simp] theorem advance_ras (s : State) : (s.advance).ras = s.ras := rfl
@[simp] theorem advance_svc (s : State) : (s.advance).svc = s.svc := rfl
@[simp] theorem advance_power (s : State) : (s.advance).power = s.power := rfl

/-! ### State.enter -/

@[simp] theorem enter_others (s : State) (a : Word) : (s.enter a).others = s.others := rfl
@[simp] theorem enter_stalled (s : State) (a : Word) : (s.enter a).stalled = s.stalled := rfl
@[simp] theorem enter_agenda (s : State) (a : Word) : (s.enter a).agenda = s.agenda := rfl
@[simp] theorem enter_policy (s : State) (a : Word) : (s.enter a).policy = s.policy := rfl
@[simp] theorem enter_fresh (s : State) (a : Word) : (s.enter a).fresh = s.fresh := rfl
@[simp] theorem enter_mem (s : State) (a : Word) : (s.enter a).mem = s.mem := rfl
@[simp] theorem enter_badUnit (s : State) (a : Word) : (s.enter a).badUnit = s.badUnit := rfl
@[simp] theorem enter_dues (s : State) (a : Word) : (s.enter a).dues = s.dues := rfl
@[simp] theorem enter_stops (s : State) (a : Word) : (s.enter a).stops = s.stops := rfl
@[simp] theorem enter_words (s : State) (a : Word) : (s.enter a).words = s.words := rfl
@[simp] theorem enter_allocs (s : State) (a : Word) : (s.enter a).allocs = s.allocs := rfl
@[simp] theorem enter_tiles (s : State) (a : Word) : (s.enter a).tiles = s.tiles := rfl
@[simp] theorem enter_halls (s : State) (a : Word) : (s.enter a).halls = s.halls := rfl
@[simp] theorem enter_ctxs (s : State) (a : Word) : (s.enter a).ctxs = s.ctxs := rfl
@[simp] theorem enter_sched (s : State) (a : Word) : (s.enter a).sched = s.sched := rfl
@[simp] theorem enter_xfers (s : State) (a : Word) : (s.enter a).xfers = s.xfers := rfl
@[simp] theorem enter_media (s : State) (a : Word) : (s.enter a).media = s.media := rfl
@[simp] theorem enter_spaces (s : State) (a : Word) : (s.enter a).spaces = s.spaces := rfl
@[simp] theorem enter_qps (s : State) (a : Word) : (s.enter a).qps = s.qps := rfl
@[simp] theorem enter_regions (s : State) (a : Word) : (s.enter a).regions = s.regions := rfl
@[simp] theorem enter_bounce (s : State) (a : Word) : (s.enter a).bounce = s.bounce := rfl
@[simp] theorem enter_netOut (s : State) (a : Word) : (s.enter a).netOut = s.netOut := rfl
@[simp] theorem enter_hiend (s : State) (a : Word) : (s.enter a).hiend = s.hiend := rfl
@[simp] theorem enter_peers (s : State) (a : Word) : (s.enter a).peers = s.peers := rfl
@[simp] theorem enter_ras (s : State) (a : Word) : (s.enter a).ras = s.ras := rfl
@[simp] theorem enter_svc (s : State) (a : Word) : (s.enter a).svc = s.svc := rfl
@[simp] theorem enter_power (s : State) (a : Word) : (s.enter a).power = s.power := rfl

/-! ### State.orFlags -/

@[simp] theorem orFlags_others (s : State) (f : FFlags) (l : BitVec 3) : (s.orFlags f l).others = s.others := rfl
@[simp] theorem orFlags_stalled (s : State) (f : FFlags) (l : BitVec 3) : (s.orFlags f l).stalled = s.stalled := rfl
@[simp] theorem orFlags_agenda (s : State) (f : FFlags) (l : BitVec 3) : (s.orFlags f l).agenda = s.agenda := rfl
@[simp] theorem orFlags_policy (s : State) (f : FFlags) (l : BitVec 3) : (s.orFlags f l).policy = s.policy := rfl
@[simp] theorem orFlags_fresh (s : State) (f : FFlags) (l : BitVec 3) : (s.orFlags f l).fresh = s.fresh := rfl
@[simp] theorem orFlags_mem (s : State) (f : FFlags) (l : BitVec 3) : (s.orFlags f l).mem = s.mem := rfl
@[simp] theorem orFlags_badUnit (s : State) (f : FFlags) (l : BitVec 3) : (s.orFlags f l).badUnit = s.badUnit := rfl
@[simp] theorem orFlags_dues (s : State) (f : FFlags) (l : BitVec 3) : (s.orFlags f l).dues = s.dues := rfl
@[simp] theorem orFlags_stops (s : State) (f : FFlags) (l : BitVec 3) : (s.orFlags f l).stops = s.stops := rfl
@[simp] theorem orFlags_words (s : State) (f : FFlags) (l : BitVec 3) : (s.orFlags f l).words = s.words := rfl
@[simp] theorem orFlags_allocs (s : State) (f : FFlags) (l : BitVec 3) : (s.orFlags f l).allocs = s.allocs := rfl
@[simp] theorem orFlags_tiles (s : State) (f : FFlags) (l : BitVec 3) : (s.orFlags f l).tiles = s.tiles := rfl
@[simp] theorem orFlags_halls (s : State) (f : FFlags) (l : BitVec 3) : (s.orFlags f l).halls = s.halls := rfl
@[simp] theorem orFlags_ctxs (s : State) (f : FFlags) (l : BitVec 3) : (s.orFlags f l).ctxs = s.ctxs := rfl
@[simp] theorem orFlags_sched (s : State) (f : FFlags) (l : BitVec 3) : (s.orFlags f l).sched = s.sched := rfl
@[simp] theorem orFlags_xfers (s : State) (f : FFlags) (l : BitVec 3) : (s.orFlags f l).xfers = s.xfers := rfl
@[simp] theorem orFlags_media (s : State) (f : FFlags) (l : BitVec 3) : (s.orFlags f l).media = s.media := rfl
@[simp] theorem orFlags_spaces (s : State) (f : FFlags) (l : BitVec 3) : (s.orFlags f l).spaces = s.spaces := rfl
@[simp] theorem orFlags_qps (s : State) (f : FFlags) (l : BitVec 3) : (s.orFlags f l).qps = s.qps := rfl
@[simp] theorem orFlags_regions (s : State) (f : FFlags) (l : BitVec 3) : (s.orFlags f l).regions = s.regions := rfl
@[simp] theorem orFlags_bounce (s : State) (f : FFlags) (l : BitVec 3) : (s.orFlags f l).bounce = s.bounce := rfl
@[simp] theorem orFlags_netOut (s : State) (f : FFlags) (l : BitVec 3) : (s.orFlags f l).netOut = s.netOut := rfl
@[simp] theorem orFlags_hiend (s : State) (f : FFlags) (l : BitVec 3) : (s.orFlags f l).hiend = s.hiend := rfl
@[simp] theorem orFlags_peers (s : State) (f : FFlags) (l : BitVec 3) : (s.orFlags f l).peers = s.peers := rfl
@[simp] theorem orFlags_ras (s : State) (f : FFlags) (l : BitVec 3) : (s.orFlags f l).ras = s.ras := rfl
@[simp] theorem orFlags_svc (s : State) (f : FFlags) (l : BitVec 3) : (s.orFlags f l).svc = s.svc := rfl
@[simp] theorem orFlags_power (s : State) (f : FFlags) (l : BitVec 3) : (s.orFlags f l).power = s.power := rfl

/-! ### State.giveUpParts -/

@[simp] theorem giveUpParts_others (s : State) : (s.giveUpParts).others = s.others := rfl
@[simp] theorem giveUpParts_stalled (s : State) : (s.giveUpParts).stalled = s.stalled := rfl
@[simp] theorem giveUpParts_agenda (s : State) : (s.giveUpParts).agenda = s.agenda := rfl
@[simp] theorem giveUpParts_policy (s : State) : (s.giveUpParts).policy = s.policy := rfl
@[simp] theorem giveUpParts_fresh (s : State) : (s.giveUpParts).fresh = s.fresh := rfl
@[simp] theorem giveUpParts_mem (s : State) : (s.giveUpParts).mem = s.mem := rfl
@[simp] theorem giveUpParts_badUnit (s : State) : (s.giveUpParts).badUnit = s.badUnit := rfl
@[simp] theorem giveUpParts_dues (s : State) : (s.giveUpParts).dues = s.dues := rfl
@[simp] theorem giveUpParts_stops (s : State) : (s.giveUpParts).stops = s.stops := rfl
@[simp] theorem giveUpParts_words (s : State) : (s.giveUpParts).words = s.words := rfl
@[simp] theorem giveUpParts_allocs (s : State) : (s.giveUpParts).allocs = s.allocs := rfl
@[simp] theorem giveUpParts_tiles (s : State) : (s.giveUpParts).tiles = s.tiles := rfl
@[simp] theorem giveUpParts_ctxs (s : State) : (s.giveUpParts).ctxs = s.ctxs := rfl
@[simp] theorem giveUpParts_sched (s : State) : (s.giveUpParts).sched = s.sched := rfl
@[simp] theorem giveUpParts_xfers (s : State) : (s.giveUpParts).xfers = s.xfers := rfl
@[simp] theorem giveUpParts_media (s : State) : (s.giveUpParts).media = s.media := rfl
@[simp] theorem giveUpParts_spaces (s : State) : (s.giveUpParts).spaces = s.spaces := rfl
@[simp] theorem giveUpParts_qps (s : State) : (s.giveUpParts).qps = s.qps := rfl
@[simp] theorem giveUpParts_regions (s : State) : (s.giveUpParts).regions = s.regions := rfl
@[simp] theorem giveUpParts_bounce (s : State) : (s.giveUpParts).bounce = s.bounce := rfl
@[simp] theorem giveUpParts_netOut (s : State) : (s.giveUpParts).netOut = s.netOut := rfl
@[simp] theorem giveUpParts_hiend (s : State) : (s.giveUpParts).hiend = s.hiend := rfl
@[simp] theorem giveUpParts_peers (s : State) : (s.giveUpParts).peers = s.peers := rfl
@[simp] theorem giveUpParts_ras (s : State) : (s.giveUpParts).ras = s.ras := rfl
@[simp] theorem giveUpParts_svc (s : State) : (s.giveUpParts).svc = s.svc := rfl
@[simp] theorem giveUpParts_power (s : State) : (s.giveUpParts).power = s.power := rfl

/-! ### State.trap -/

@[simp] theorem trap_others (s : State) (c : Byte) (v : Word) : (s.trap c v).others = s.others := rfl
@[simp] theorem trap_agenda (s : State) (c : Byte) (v : Word) : (s.trap c v).agenda = s.agenda := rfl
@[simp] theorem trap_policy (s : State) (c : Byte) (v : Word) : (s.trap c v).policy = s.policy := rfl
@[simp] theorem trap_fresh (s : State) (c : Byte) (v : Word) : (s.trap c v).fresh = s.fresh := rfl
@[simp] theorem trap_mem (s : State) (c : Byte) (v : Word) : (s.trap c v).mem = s.mem := rfl
@[simp] theorem trap_badUnit (s : State) (c : Byte) (v : Word) : (s.trap c v).badUnit = s.badUnit := rfl
@[simp] theorem trap_dues (s : State) (c : Byte) (v : Word) : (s.trap c v).dues = s.dues := rfl
@[simp] theorem trap_stops (s : State) (c : Byte) (v : Word) : (s.trap c v).stops = s.stops := rfl
@[simp] theorem trap_words (s : State) (c : Byte) (v : Word) : (s.trap c v).words = s.words := rfl
@[simp] theorem trap_allocs (s : State) (c : Byte) (v : Word) : (s.trap c v).allocs = s.allocs := rfl
@[simp] theorem trap_tiles (s : State) (c : Byte) (v : Word) : (s.trap c v).tiles = s.tiles := rfl
@[simp] theorem trap_ctxs (s : State) (c : Byte) (v : Word) : (s.trap c v).ctxs = s.ctxs := rfl
@[simp] theorem trap_sched (s : State) (c : Byte) (v : Word) : (s.trap c v).sched = s.sched := rfl
@[simp] theorem trap_xfers (s : State) (c : Byte) (v : Word) : (s.trap c v).xfers = s.xfers := rfl
@[simp] theorem trap_media (s : State) (c : Byte) (v : Word) : (s.trap c v).media = s.media := rfl
@[simp] theorem trap_spaces (s : State) (c : Byte) (v : Word) : (s.trap c v).spaces = s.spaces := rfl
@[simp] theorem trap_qps (s : State) (c : Byte) (v : Word) : (s.trap c v).qps = s.qps := rfl
@[simp] theorem trap_regions (s : State) (c : Byte) (v : Word) : (s.trap c v).regions = s.regions := rfl
@[simp] theorem trap_bounce (s : State) (c : Byte) (v : Word) : (s.trap c v).bounce = s.bounce := rfl
@[simp] theorem trap_netOut (s : State) (c : Byte) (v : Word) : (s.trap c v).netOut = s.netOut := rfl
@[simp] theorem trap_hiend (s : State) (c : Byte) (v : Word) : (s.trap c v).hiend = s.hiend := rfl
@[simp] theorem trap_peers (s : State) (c : Byte) (v : Word) : (s.trap c v).peers = s.peers := rfl
@[simp] theorem trap_ras (s : State) (c : Byte) (v : Word) : (s.trap c v).ras = s.ras := rfl
@[simp] theorem trap_svc (s : State) (c : Byte) (v : Word) : (s.trap c v).svc = s.svc := rfl
@[simp] theorem trap_power (s : State) (c : Byte) (v : Word) : (s.trap c v).power = s.power := rfl

/-! ### State.trapElem -/

@[simp] theorem trapElem_others (s : State) (c : Byte) (w : Nat) (v : Word) : (s.trapElem c w v).others = s.others := rfl
@[simp] theorem trapElem_agenda (s : State) (c : Byte) (w : Nat) (v : Word) : (s.trapElem c w v).agenda = s.agenda := rfl
@[simp] theorem trapElem_policy (s : State) (c : Byte) (w : Nat) (v : Word) : (s.trapElem c w v).policy = s.policy := rfl
@[simp] theorem trapElem_fresh (s : State) (c : Byte) (w : Nat) (v : Word) : (s.trapElem c w v).fresh = s.fresh := rfl
@[simp] theorem trapElem_mem (s : State) (c : Byte) (w : Nat) (v : Word) : (s.trapElem c w v).mem = s.mem := rfl
@[simp] theorem trapElem_badUnit (s : State) (c : Byte) (w : Nat) (v : Word) : (s.trapElem c w v).badUnit = s.badUnit := rfl
@[simp] theorem trapElem_dues (s : State) (c : Byte) (w : Nat) (v : Word) : (s.trapElem c w v).dues = s.dues := rfl
@[simp] theorem trapElem_stops (s : State) (c : Byte) (w : Nat) (v : Word) : (s.trapElem c w v).stops = s.stops := rfl
@[simp] theorem trapElem_words (s : State) (c : Byte) (w : Nat) (v : Word) : (s.trapElem c w v).words = s.words := rfl
@[simp] theorem trapElem_allocs (s : State) (c : Byte) (w : Nat) (v : Word) : (s.trapElem c w v).allocs = s.allocs := rfl
@[simp] theorem trapElem_tiles (s : State) (c : Byte) (w : Nat) (v : Word) : (s.trapElem c w v).tiles = s.tiles := rfl
@[simp] theorem trapElem_ctxs (s : State) (c : Byte) (w : Nat) (v : Word) : (s.trapElem c w v).ctxs = s.ctxs := rfl
@[simp] theorem trapElem_sched (s : State) (c : Byte) (w : Nat) (v : Word) : (s.trapElem c w v).sched = s.sched := rfl
@[simp] theorem trapElem_xfers (s : State) (c : Byte) (w : Nat) (v : Word) : (s.trapElem c w v).xfers = s.xfers := rfl
@[simp] theorem trapElem_media (s : State) (c : Byte) (w : Nat) (v : Word) : (s.trapElem c w v).media = s.media := rfl
@[simp] theorem trapElem_spaces (s : State) (c : Byte) (w : Nat) (v : Word) : (s.trapElem c w v).spaces = s.spaces := rfl
@[simp] theorem trapElem_qps (s : State) (c : Byte) (w : Nat) (v : Word) : (s.trapElem c w v).qps = s.qps := rfl
@[simp] theorem trapElem_regions (s : State) (c : Byte) (w : Nat) (v : Word) : (s.trapElem c w v).regions = s.regions := rfl
@[simp] theorem trapElem_bounce (s : State) (c : Byte) (w : Nat) (v : Word) : (s.trapElem c w v).bounce = s.bounce := rfl
@[simp] theorem trapElem_netOut (s : State) (c : Byte) (w : Nat) (v : Word) : (s.trapElem c w v).netOut = s.netOut := rfl
@[simp] theorem trapElem_hiend (s : State) (c : Byte) (w : Nat) (v : Word) : (s.trapElem c w v).hiend = s.hiend := rfl
@[simp] theorem trapElem_peers (s : State) (c : Byte) (w : Nat) (v : Word) : (s.trapElem c w v).peers = s.peers := rfl
@[simp] theorem trapElem_ras (s : State) (c : Byte) (w : Nat) (v : Word) : (s.trapElem c w v).ras = s.ras := rfl
@[simp] theorem trapElem_svc (s : State) (c : Byte) (w : Nat) (v : Word) : (s.trapElem c w v).svc = s.svc := rfl
@[simp] theorem trapElem_power (s : State) (c : Byte) (w : Nat) (v : Word) : (s.trapElem c w v).power = s.power := rfl

/-! ### State.setHall -/

@[simp] theorem setHall_th (s : State) (h : Nat) (x : Hall) : (s.setHall h x).th = s.th := rfl
@[simp] theorem setHall_others (s : State) (h : Nat) (x : Hall) : (s.setHall h x).others = s.others := rfl
@[simp] theorem setHall_stalled (s : State) (h : Nat) (x : Hall) : (s.setHall h x).stalled = s.stalled := rfl
@[simp] theorem setHall_agenda (s : State) (h : Nat) (x : Hall) : (s.setHall h x).agenda = s.agenda := rfl
@[simp] theorem setHall_policy (s : State) (h : Nat) (x : Hall) : (s.setHall h x).policy = s.policy := rfl
@[simp] theorem setHall_fresh (s : State) (h : Nat) (x : Hall) : (s.setHall h x).fresh = s.fresh := rfl
@[simp] theorem setHall_mem (s : State) (h : Nat) (x : Hall) : (s.setHall h x).mem = s.mem := rfl
@[simp] theorem setHall_badUnit (s : State) (h : Nat) (x : Hall) : (s.setHall h x).badUnit = s.badUnit := rfl
@[simp] theorem setHall_dues (s : State) (h : Nat) (x : Hall) : (s.setHall h x).dues = s.dues := rfl
@[simp] theorem setHall_stops (s : State) (h : Nat) (x : Hall) : (s.setHall h x).stops = s.stops := rfl
@[simp] theorem setHall_words (s : State) (h : Nat) (x : Hall) : (s.setHall h x).words = s.words := rfl
@[simp] theorem setHall_allocs (s : State) (h : Nat) (x : Hall) : (s.setHall h x).allocs = s.allocs := rfl
@[simp] theorem setHall_tiles (s : State) (h : Nat) (x : Hall) : (s.setHall h x).tiles = s.tiles := rfl
@[simp] theorem setHall_ctxs (s : State) (h : Nat) (x : Hall) : (s.setHall h x).ctxs = s.ctxs := rfl
@[simp] theorem setHall_sched (s : State) (h : Nat) (x : Hall) : (s.setHall h x).sched = s.sched := rfl
@[simp] theorem setHall_xfers (s : State) (h : Nat) (x : Hall) : (s.setHall h x).xfers = s.xfers := rfl
@[simp] theorem setHall_media (s : State) (h : Nat) (x : Hall) : (s.setHall h x).media = s.media := rfl
@[simp] theorem setHall_spaces (s : State) (h : Nat) (x : Hall) : (s.setHall h x).spaces = s.spaces := rfl
@[simp] theorem setHall_qps (s : State) (h : Nat) (x : Hall) : (s.setHall h x).qps = s.qps := rfl
@[simp] theorem setHall_regions (s : State) (h : Nat) (x : Hall) : (s.setHall h x).regions = s.regions := rfl
@[simp] theorem setHall_bounce (s : State) (h : Nat) (x : Hall) : (s.setHall h x).bounce = s.bounce := rfl
@[simp] theorem setHall_netOut (s : State) (h : Nat) (x : Hall) : (s.setHall h x).netOut = s.netOut := rfl
@[simp] theorem setHall_hiend (s : State) (h : Nat) (x : Hall) : (s.setHall h x).hiend = s.hiend := rfl
@[simp] theorem setHall_peers (s : State) (h : Nat) (x : Hall) : (s.setHall h x).peers = s.peers := rfl
@[simp] theorem setHall_ras (s : State) (h : Nat) (x : Hall) : (s.setHall h x).ras = s.ras := rfl
@[simp] theorem setHall_svc (s : State) (h : Nat) (x : Hall) : (s.setHall h x).svc = s.svc := rfl
@[simp] theorem setHall_power (s : State) (h : Nat) (x : Hall) : (s.setHall h x).power = s.power := rfl

/-! ### State.setTile -/

@[simp] theorem setTile_th (s : State) (h i : Nat) (x : Tile) : (s.setTile h i x).th = s.th := rfl
@[simp] theorem setTile_others (s : State) (h i : Nat) (x : Tile) : (s.setTile h i x).others = s.others := rfl
@[simp] theorem setTile_stalled (s : State) (h i : Nat) (x : Tile) : (s.setTile h i x).stalled = s.stalled := rfl
@[simp] theorem setTile_agenda (s : State) (h i : Nat) (x : Tile) : (s.setTile h i x).agenda = s.agenda := rfl
@[simp] theorem setTile_policy (s : State) (h i : Nat) (x : Tile) : (s.setTile h i x).policy = s.policy := rfl
@[simp] theorem setTile_fresh (s : State) (h i : Nat) (x : Tile) : (s.setTile h i x).fresh = s.fresh := rfl
@[simp] theorem setTile_mem (s : State) (h i : Nat) (x : Tile) : (s.setTile h i x).mem = s.mem := rfl
@[simp] theorem setTile_badUnit (s : State) (h i : Nat) (x : Tile) : (s.setTile h i x).badUnit = s.badUnit := rfl
@[simp] theorem setTile_dues (s : State) (h i : Nat) (x : Tile) : (s.setTile h i x).dues = s.dues := rfl
@[simp] theorem setTile_stops (s : State) (h i : Nat) (x : Tile) : (s.setTile h i x).stops = s.stops := rfl
@[simp] theorem setTile_words (s : State) (h i : Nat) (x : Tile) : (s.setTile h i x).words = s.words := rfl
@[simp] theorem setTile_allocs (s : State) (h i : Nat) (x : Tile) : (s.setTile h i x).allocs = s.allocs := rfl
@[simp] theorem setTile_halls (s : State) (h i : Nat) (x : Tile) : (s.setTile h i x).halls = s.halls := rfl
@[simp] theorem setTile_ctxs (s : State) (h i : Nat) (x : Tile) : (s.setTile h i x).ctxs = s.ctxs := rfl
@[simp] theorem setTile_sched (s : State) (h i : Nat) (x : Tile) : (s.setTile h i x).sched = s.sched := rfl
@[simp] theorem setTile_xfers (s : State) (h i : Nat) (x : Tile) : (s.setTile h i x).xfers = s.xfers := rfl
@[simp] theorem setTile_media (s : State) (h i : Nat) (x : Tile) : (s.setTile h i x).media = s.media := rfl
@[simp] theorem setTile_spaces (s : State) (h i : Nat) (x : Tile) : (s.setTile h i x).spaces = s.spaces := rfl
@[simp] theorem setTile_qps (s : State) (h i : Nat) (x : Tile) : (s.setTile h i x).qps = s.qps := rfl
@[simp] theorem setTile_regions (s : State) (h i : Nat) (x : Tile) : (s.setTile h i x).regions = s.regions := rfl
@[simp] theorem setTile_bounce (s : State) (h i : Nat) (x : Tile) : (s.setTile h i x).bounce = s.bounce := rfl
@[simp] theorem setTile_netOut (s : State) (h i : Nat) (x : Tile) : (s.setTile h i x).netOut = s.netOut := rfl
@[simp] theorem setTile_hiend (s : State) (h i : Nat) (x : Tile) : (s.setTile h i x).hiend = s.hiend := rfl
@[simp] theorem setTile_peers (s : State) (h i : Nat) (x : Tile) : (s.setTile h i x).peers = s.peers := rfl
@[simp] theorem setTile_ras (s : State) (h i : Nat) (x : Tile) : (s.setTile h i x).ras = s.ras := rfl
@[simp] theorem setTile_svc (s : State) (h i : Nat) (x : Tile) : (s.setTile h i x).svc = s.svc := rfl
@[simp] theorem setTile_power (s : State) (h i : Nat) (x : Tile) : (s.setTile h i x).power = s.power := rfl

/-! ### State.queueWrite -/

@[simp] theorem queueWrite_th (s : State) (h i : Nat) (w : Write) : (s.queueWrite h i w).th = s.th := rfl
@[simp] theorem queueWrite_others (s : State) (h i : Nat) (w : Write) : (s.queueWrite h i w).others = s.others := rfl
@[simp] theorem queueWrite_stalled (s : State) (h i : Nat) (w : Write) : (s.queueWrite h i w).stalled = s.stalled := rfl
@[simp] theorem queueWrite_agenda (s : State) (h i : Nat) (w : Write) : (s.queueWrite h i w).agenda = s.agenda := rfl
@[simp] theorem queueWrite_policy (s : State) (h i : Nat) (w : Write) : (s.queueWrite h i w).policy = s.policy := rfl
@[simp] theorem queueWrite_fresh (s : State) (h i : Nat) (w : Write) : (s.queueWrite h i w).fresh = s.fresh := rfl
@[simp] theorem queueWrite_mem (s : State) (h i : Nat) (w : Write) : (s.queueWrite h i w).mem = s.mem := rfl
@[simp] theorem queueWrite_badUnit (s : State) (h i : Nat) (w : Write) : (s.queueWrite h i w).badUnit = s.badUnit := rfl
@[simp] theorem queueWrite_dues (s : State) (h i : Nat) (w : Write) : (s.queueWrite h i w).dues = s.dues := rfl
@[simp] theorem queueWrite_stops (s : State) (h i : Nat) (w : Write) : (s.queueWrite h i w).stops = s.stops := rfl
@[simp] theorem queueWrite_words (s : State) (h i : Nat) (w : Write) : (s.queueWrite h i w).words = s.words := rfl
@[simp] theorem queueWrite_allocs (s : State) (h i : Nat) (w : Write) : (s.queueWrite h i w).allocs = s.allocs := rfl
@[simp] theorem queueWrite_halls (s : State) (h i : Nat) (w : Write) : (s.queueWrite h i w).halls = s.halls := rfl
@[simp] theorem queueWrite_ctxs (s : State) (h i : Nat) (w : Write) : (s.queueWrite h i w).ctxs = s.ctxs := rfl
@[simp] theorem queueWrite_sched (s : State) (h i : Nat) (w : Write) : (s.queueWrite h i w).sched = s.sched := rfl
@[simp] theorem queueWrite_xfers (s : State) (h i : Nat) (w : Write) : (s.queueWrite h i w).xfers = s.xfers := rfl
@[simp] theorem queueWrite_media (s : State) (h i : Nat) (w : Write) : (s.queueWrite h i w).media = s.media := rfl
@[simp] theorem queueWrite_spaces (s : State) (h i : Nat) (w : Write) : (s.queueWrite h i w).spaces = s.spaces := rfl
@[simp] theorem queueWrite_qps (s : State) (h i : Nat) (w : Write) : (s.queueWrite h i w).qps = s.qps := rfl
@[simp] theorem queueWrite_regions (s : State) (h i : Nat) (w : Write) : (s.queueWrite h i w).regions = s.regions := rfl
@[simp] theorem queueWrite_bounce (s : State) (h i : Nat) (w : Write) : (s.queueWrite h i w).bounce = s.bounce := rfl
@[simp] theorem queueWrite_netOut (s : State) (h i : Nat) (w : Write) : (s.queueWrite h i w).netOut = s.netOut := rfl
@[simp] theorem queueWrite_hiend (s : State) (h i : Nat) (w : Write) : (s.queueWrite h i w).hiend = s.hiend := rfl
@[simp] theorem queueWrite_peers (s : State) (h i : Nat) (w : Write) : (s.queueWrite h i w).peers = s.peers := rfl
@[simp] theorem queueWrite_ras (s : State) (h i : Nat) (w : Write) : (s.queueWrite h i w).ras = s.ras := rfl
@[simp] theorem queueWrite_svc (s : State) (h i : Nat) (w : Write) : (s.queueWrite h i w).svc = s.svc := rfl
@[simp] theorem queueWrite_power (s : State) (h i : Nat) (w : Write) : (s.queueWrite h i w).power = s.power := rfl

/-! ### State.modCtx -/

@[simp] theorem modCtx_th (s : State) (c : BitVec 32) (f : Ctx → Ctx) : (s.modCtx c f).th = s.th := rfl
@[simp] theorem modCtx_others (s : State) (c : BitVec 32) (f : Ctx → Ctx) : (s.modCtx c f).others = s.others := rfl
@[simp] theorem modCtx_stalled (s : State) (c : BitVec 32) (f : Ctx → Ctx) : (s.modCtx c f).stalled = s.stalled := rfl
@[simp] theorem modCtx_agenda (s : State) (c : BitVec 32) (f : Ctx → Ctx) : (s.modCtx c f).agenda = s.agenda := rfl
@[simp] theorem modCtx_policy (s : State) (c : BitVec 32) (f : Ctx → Ctx) : (s.modCtx c f).policy = s.policy := rfl
@[simp] theorem modCtx_fresh (s : State) (c : BitVec 32) (f : Ctx → Ctx) : (s.modCtx c f).fresh = s.fresh := rfl
@[simp] theorem modCtx_mem (s : State) (c : BitVec 32) (f : Ctx → Ctx) : (s.modCtx c f).mem = s.mem := rfl
@[simp] theorem modCtx_badUnit (s : State) (c : BitVec 32) (f : Ctx → Ctx) : (s.modCtx c f).badUnit = s.badUnit := rfl
@[simp] theorem modCtx_dues (s : State) (c : BitVec 32) (f : Ctx → Ctx) : (s.modCtx c f).dues = s.dues := rfl
@[simp] theorem modCtx_stops (s : State) (c : BitVec 32) (f : Ctx → Ctx) : (s.modCtx c f).stops = s.stops := rfl
@[simp] theorem modCtx_words (s : State) (c : BitVec 32) (f : Ctx → Ctx) : (s.modCtx c f).words = s.words := rfl
@[simp] theorem modCtx_allocs (s : State) (c : BitVec 32) (f : Ctx → Ctx) : (s.modCtx c f).allocs = s.allocs := rfl
@[simp] theorem modCtx_tiles (s : State) (c : BitVec 32) (f : Ctx → Ctx) : (s.modCtx c f).tiles = s.tiles := rfl
@[simp] theorem modCtx_halls (s : State) (c : BitVec 32) (f : Ctx → Ctx) : (s.modCtx c f).halls = s.halls := rfl
@[simp] theorem modCtx_sched (s : State) (c : BitVec 32) (f : Ctx → Ctx) : (s.modCtx c f).sched = s.sched := rfl
@[simp] theorem modCtx_xfers (s : State) (c : BitVec 32) (f : Ctx → Ctx) : (s.modCtx c f).xfers = s.xfers := rfl
@[simp] theorem modCtx_media (s : State) (c : BitVec 32) (f : Ctx → Ctx) : (s.modCtx c f).media = s.media := rfl
@[simp] theorem modCtx_spaces (s : State) (c : BitVec 32) (f : Ctx → Ctx) : (s.modCtx c f).spaces = s.spaces := rfl
@[simp] theorem modCtx_qps (s : State) (c : BitVec 32) (f : Ctx → Ctx) : (s.modCtx c f).qps = s.qps := rfl
@[simp] theorem modCtx_regions (s : State) (c : BitVec 32) (f : Ctx → Ctx) : (s.modCtx c f).regions = s.regions := rfl
@[simp] theorem modCtx_bounce (s : State) (c : BitVec 32) (f : Ctx → Ctx) : (s.modCtx c f).bounce = s.bounce := rfl
@[simp] theorem modCtx_netOut (s : State) (c : BitVec 32) (f : Ctx → Ctx) : (s.modCtx c f).netOut = s.netOut := rfl
@[simp] theorem modCtx_hiend (s : State) (c : BitVec 32) (f : Ctx → Ctx) : (s.modCtx c f).hiend = s.hiend := rfl
@[simp] theorem modCtx_peers (s : State) (c : BitVec 32) (f : Ctx → Ctx) : (s.modCtx c f).peers = s.peers := rfl
@[simp] theorem modCtx_ras (s : State) (c : BitVec 32) (f : Ctx → Ctx) : (s.modCtx c f).ras = s.ras := rfl
@[simp] theorem modCtx_svc (s : State) (c : BitVec 32) (f : Ctx → Ctx) : (s.modCtx c f).svc = s.svc := rfl
@[simp] theorem modCtx_power (s : State) (c : BitVec 32) (f : Ctx → Ctx) : (s.modCtx c f).power = s.power := rfl

/-! ### State.apply -/

@[simp] theorem apply_th (s : State) (pa : Nat) (bs : List Byte) : (s.apply pa bs).th = s.th := rfl
@[simp] theorem apply_others (s : State) (pa : Nat) (bs : List Byte) : (s.apply pa bs).others = s.others := rfl
@[simp] theorem apply_stalled (s : State) (pa : Nat) (bs : List Byte) : (s.apply pa bs).stalled = s.stalled := rfl
@[simp] theorem apply_agenda (s : State) (pa : Nat) (bs : List Byte) : (s.apply pa bs).agenda = s.agenda := rfl
@[simp] theorem apply_policy (s : State) (pa : Nat) (bs : List Byte) : (s.apply pa bs).policy = s.policy := rfl
@[simp] theorem apply_fresh (s : State) (pa : Nat) (bs : List Byte) : (s.apply pa bs).fresh = s.fresh := rfl
@[simp] theorem apply_dues (s : State) (pa : Nat) (bs : List Byte) : (s.apply pa bs).dues = s.dues := rfl
@[simp] theorem apply_stops (s : State) (pa : Nat) (bs : List Byte) : (s.apply pa bs).stops = s.stops := rfl
@[simp] theorem apply_words (s : State) (pa : Nat) (bs : List Byte) : (s.apply pa bs).words = s.words := rfl
@[simp] theorem apply_allocs (s : State) (pa : Nat) (bs : List Byte) : (s.apply pa bs).allocs = s.allocs := rfl
@[simp] theorem apply_tiles (s : State) (pa : Nat) (bs : List Byte) : (s.apply pa bs).tiles = s.tiles := rfl
@[simp] theorem apply_halls (s : State) (pa : Nat) (bs : List Byte) : (s.apply pa bs).halls = s.halls := rfl
@[simp] theorem apply_ctxs (s : State) (pa : Nat) (bs : List Byte) : (s.apply pa bs).ctxs = s.ctxs := rfl
@[simp] theorem apply_sched (s : State) (pa : Nat) (bs : List Byte) : (s.apply pa bs).sched = s.sched := rfl
@[simp] theorem apply_xfers (s : State) (pa : Nat) (bs : List Byte) : (s.apply pa bs).xfers = s.xfers := rfl
@[simp] theorem apply_media (s : State) (pa : Nat) (bs : List Byte) : (s.apply pa bs).media = s.media := rfl
@[simp] theorem apply_spaces (s : State) (pa : Nat) (bs : List Byte) : (s.apply pa bs).spaces = s.spaces := rfl
@[simp] theorem apply_qps (s : State) (pa : Nat) (bs : List Byte) : (s.apply pa bs).qps = s.qps := rfl
@[simp] theorem apply_regions (s : State) (pa : Nat) (bs : List Byte) : (s.apply pa bs).regions = s.regions := rfl
@[simp] theorem apply_bounce (s : State) (pa : Nat) (bs : List Byte) : (s.apply pa bs).bounce = s.bounce := rfl
@[simp] theorem apply_netOut (s : State) (pa : Nat) (bs : List Byte) : (s.apply pa bs).netOut = s.netOut := rfl
@[simp] theorem apply_hiend (s : State) (pa : Nat) (bs : List Byte) : (s.apply pa bs).hiend = s.hiend := rfl
@[simp] theorem apply_peers (s : State) (pa : Nat) (bs : List Byte) : (s.apply pa bs).peers = s.peers := rfl
@[simp] theorem apply_ras (s : State) (pa : Nat) (bs : List Byte) : (s.apply pa bs).ras = s.ras := rfl
@[simp] theorem apply_svc (s : State) (pa : Nat) (bs : List Byte) : (s.apply pa bs).svc = s.svc := rfl
@[simp] theorem apply_power (s : State) (pa : Nat) (bs : List Byte) : (s.apply pa bs).power = s.power := rfl

/-! ### State.meetBad -/

@[simp] theorem meetBad_th (s : State) (c : BitVec 32) (pa : Nat) : (s.meetBad c pa).th = s.th := by unfold State.meetBad; split <;> rfl
@[simp] theorem meetBad_others (s : State) (c : BitVec 32) (pa : Nat) : (s.meetBad c pa).others = s.others := by unfold State.meetBad; split <;> rfl
@[simp] theorem meetBad_stalled (s : State) (c : BitVec 32) (pa : Nat) : (s.meetBad c pa).stalled = s.stalled := by unfold State.meetBad; split <;> rfl
@[simp] theorem meetBad_agenda (s : State) (c : BitVec 32) (pa : Nat) : (s.meetBad c pa).agenda = s.agenda := by unfold State.meetBad; split <;> rfl
@[simp] theorem meetBad_policy (s : State) (c : BitVec 32) (pa : Nat) : (s.meetBad c pa).policy = s.policy := by unfold State.meetBad; split <;> rfl
@[simp] theorem meetBad_fresh (s : State) (c : BitVec 32) (pa : Nat) : (s.meetBad c pa).fresh = s.fresh := by unfold State.meetBad; split <;> rfl
@[simp] theorem meetBad_mem (s : State) (c : BitVec 32) (pa : Nat) : (s.meetBad c pa).mem = s.mem := by unfold State.meetBad; split <;> rfl
@[simp] theorem meetBad_badUnit (s : State) (c : BitVec 32) (pa : Nat) : (s.meetBad c pa).badUnit = s.badUnit := by unfold State.meetBad; split <;> rfl
@[simp] theorem meetBad_stops (s : State) (c : BitVec 32) (pa : Nat) : (s.meetBad c pa).stops = s.stops := by unfold State.meetBad; split <;> rfl
@[simp] theorem meetBad_words (s : State) (c : BitVec 32) (pa : Nat) : (s.meetBad c pa).words = s.words := by unfold State.meetBad; split <;> rfl
@[simp] theorem meetBad_allocs (s : State) (c : BitVec 32) (pa : Nat) : (s.meetBad c pa).allocs = s.allocs := by unfold State.meetBad; split <;> rfl
@[simp] theorem meetBad_tiles (s : State) (c : BitVec 32) (pa : Nat) : (s.meetBad c pa).tiles = s.tiles := by unfold State.meetBad; split <;> rfl
@[simp] theorem meetBad_halls (s : State) (c : BitVec 32) (pa : Nat) : (s.meetBad c pa).halls = s.halls := by unfold State.meetBad; split <;> rfl
@[simp] theorem meetBad_ctxs (s : State) (c : BitVec 32) (pa : Nat) : (s.meetBad c pa).ctxs = s.ctxs := by unfold State.meetBad; split <;> rfl
@[simp] theorem meetBad_sched (s : State) (c : BitVec 32) (pa : Nat) : (s.meetBad c pa).sched = s.sched := by unfold State.meetBad; split <;> rfl
@[simp] theorem meetBad_xfers (s : State) (c : BitVec 32) (pa : Nat) : (s.meetBad c pa).xfers = s.xfers := by unfold State.meetBad; split <;> rfl
@[simp] theorem meetBad_media (s : State) (c : BitVec 32) (pa : Nat) : (s.meetBad c pa).media = s.media := by unfold State.meetBad; split <;> rfl
@[simp] theorem meetBad_spaces (s : State) (c : BitVec 32) (pa : Nat) : (s.meetBad c pa).spaces = s.spaces := by unfold State.meetBad; split <;> rfl
@[simp] theorem meetBad_qps (s : State) (c : BitVec 32) (pa : Nat) : (s.meetBad c pa).qps = s.qps := by unfold State.meetBad; split <;> rfl
@[simp] theorem meetBad_regions (s : State) (c : BitVec 32) (pa : Nat) : (s.meetBad c pa).regions = s.regions := by unfold State.meetBad; split <;> rfl
@[simp] theorem meetBad_bounce (s : State) (c : BitVec 32) (pa : Nat) : (s.meetBad c pa).bounce = s.bounce := by unfold State.meetBad; split <;> rfl
@[simp] theorem meetBad_netOut (s : State) (c : BitVec 32) (pa : Nat) : (s.meetBad c pa).netOut = s.netOut := by unfold State.meetBad; split <;> rfl
@[simp] theorem meetBad_hiend (s : State) (c : BitVec 32) (pa : Nat) : (s.meetBad c pa).hiend = s.hiend := by unfold State.meetBad; split <;> rfl
@[simp] theorem meetBad_peers (s : State) (c : BitVec 32) (pa : Nat) : (s.meetBad c pa).peers = s.peers := by unfold State.meetBad; split <;> rfl
@[simp] theorem meetBad_ras (s : State) (c : BitVec 32) (pa : Nat) : (s.meetBad c pa).ras = s.ras := by unfold State.meetBad; split <;> rfl
@[simp] theorem meetBad_svc (s : State) (c : BitVec 32) (pa : Nat) : (s.meetBad c pa).svc = s.svc := by unfold State.meetBad; split <;> rfl
@[simp] theorem meetBad_power (s : State) (c : BitVec 32) (pa : Nat) : (s.meetBad c pa).power = s.power := by unfold State.meetBad; split <;> rfl

/-! ### State.applyFor -/

@[simp] theorem applyFor_th (s : State) (c : BitVec 32) (pa : Nat) (bs : List Byte) : (s.applyFor c pa bs).th = s.th := by unfold State.applyFor; split; exact meetBad_th ..; exact apply_th ..
@[simp] theorem applyFor_others (s : State) (c : BitVec 32) (pa : Nat) (bs : List Byte) : (s.applyFor c pa bs).others = s.others := by unfold State.applyFor; split; exact meetBad_others ..; exact apply_others ..
@[simp] theorem applyFor_stalled (s : State) (c : BitVec 32) (pa : Nat) (bs : List Byte) : (s.applyFor c pa bs).stalled = s.stalled := by unfold State.applyFor; split; exact meetBad_stalled ..; exact apply_stalled ..
@[simp] theorem applyFor_agenda (s : State) (c : BitVec 32) (pa : Nat) (bs : List Byte) : (s.applyFor c pa bs).agenda = s.agenda := by unfold State.applyFor; split; exact meetBad_agenda ..; exact apply_agenda ..
@[simp] theorem applyFor_policy (s : State) (c : BitVec 32) (pa : Nat) (bs : List Byte) : (s.applyFor c pa bs).policy = s.policy := by unfold State.applyFor; split; exact meetBad_policy ..; exact apply_policy ..
@[simp] theorem applyFor_fresh (s : State) (c : BitVec 32) (pa : Nat) (bs : List Byte) : (s.applyFor c pa bs).fresh = s.fresh := by unfold State.applyFor; split; exact meetBad_fresh ..; exact apply_fresh ..
@[simp] theorem applyFor_stops (s : State) (c : BitVec 32) (pa : Nat) (bs : List Byte) : (s.applyFor c pa bs).stops = s.stops := by unfold State.applyFor; split; exact meetBad_stops ..; exact apply_stops ..
@[simp] theorem applyFor_words (s : State) (c : BitVec 32) (pa : Nat) (bs : List Byte) : (s.applyFor c pa bs).words = s.words := by unfold State.applyFor; split; exact meetBad_words ..; exact apply_words ..
@[simp] theorem applyFor_allocs (s : State) (c : BitVec 32) (pa : Nat) (bs : List Byte) : (s.applyFor c pa bs).allocs = s.allocs := by unfold State.applyFor; split; exact meetBad_allocs ..; exact apply_allocs ..
@[simp] theorem applyFor_tiles (s : State) (c : BitVec 32) (pa : Nat) (bs : List Byte) : (s.applyFor c pa bs).tiles = s.tiles := by unfold State.applyFor; split; exact meetBad_tiles ..; exact apply_tiles ..
@[simp] theorem applyFor_halls (s : State) (c : BitVec 32) (pa : Nat) (bs : List Byte) : (s.applyFor c pa bs).halls = s.halls := by unfold State.applyFor; split; exact meetBad_halls ..; exact apply_halls ..
@[simp] theorem applyFor_ctxs (s : State) (c : BitVec 32) (pa : Nat) (bs : List Byte) : (s.applyFor c pa bs).ctxs = s.ctxs := by unfold State.applyFor; split; exact meetBad_ctxs ..; exact apply_ctxs ..
@[simp] theorem applyFor_sched (s : State) (c : BitVec 32) (pa : Nat) (bs : List Byte) : (s.applyFor c pa bs).sched = s.sched := by unfold State.applyFor; split; exact meetBad_sched ..; exact apply_sched ..
@[simp] theorem applyFor_xfers (s : State) (c : BitVec 32) (pa : Nat) (bs : List Byte) : (s.applyFor c pa bs).xfers = s.xfers := by unfold State.applyFor; split; exact meetBad_xfers ..; exact apply_xfers ..
@[simp] theorem applyFor_media (s : State) (c : BitVec 32) (pa : Nat) (bs : List Byte) : (s.applyFor c pa bs).media = s.media := by unfold State.applyFor; split; exact meetBad_media ..; exact apply_media ..
@[simp] theorem applyFor_spaces (s : State) (c : BitVec 32) (pa : Nat) (bs : List Byte) : (s.applyFor c pa bs).spaces = s.spaces := by unfold State.applyFor; split; exact meetBad_spaces ..; exact apply_spaces ..
@[simp] theorem applyFor_qps (s : State) (c : BitVec 32) (pa : Nat) (bs : List Byte) : (s.applyFor c pa bs).qps = s.qps := by unfold State.applyFor; split; exact meetBad_qps ..; exact apply_qps ..
@[simp] theorem applyFor_regions (s : State) (c : BitVec 32) (pa : Nat) (bs : List Byte) : (s.applyFor c pa bs).regions = s.regions := by unfold State.applyFor; split; exact meetBad_regions ..; exact apply_regions ..
@[simp] theorem applyFor_bounce (s : State) (c : BitVec 32) (pa : Nat) (bs : List Byte) : (s.applyFor c pa bs).bounce = s.bounce := by unfold State.applyFor; split; exact meetBad_bounce ..; exact apply_bounce ..
@[simp] theorem applyFor_netOut (s : State) (c : BitVec 32) (pa : Nat) (bs : List Byte) : (s.applyFor c pa bs).netOut = s.netOut := by unfold State.applyFor; split; exact meetBad_netOut ..; exact apply_netOut ..
@[simp] theorem applyFor_hiend (s : State) (c : BitVec 32) (pa : Nat) (bs : List Byte) : (s.applyFor c pa bs).hiend = s.hiend := by unfold State.applyFor; split; exact meetBad_hiend ..; exact apply_hiend ..
@[simp] theorem applyFor_peers (s : State) (c : BitVec 32) (pa : Nat) (bs : List Byte) : (s.applyFor c pa bs).peers = s.peers := by unfold State.applyFor; split; exact meetBad_peers ..; exact apply_peers ..
@[simp] theorem applyFor_ras (s : State) (c : BitVec 32) (pa : Nat) (bs : List Byte) : (s.applyFor c pa bs).ras = s.ras := by unfold State.applyFor; split; exact meetBad_ras ..; exact apply_ras ..
@[simp] theorem applyFor_svc (s : State) (c : BitVec 32) (pa : Nat) (bs : List Byte) : (s.applyFor c pa bs).svc = s.svc := by unfold State.applyFor; split; exact meetBad_svc ..; exact apply_svc ..
@[simp] theorem applyFor_power (s : State) (c : BitVec 32) (pa : Nat) (bs : List Byte) : (s.applyFor c pa bs).power = s.power := by unfold State.applyFor; split; exact meetBad_power ..; exact apply_power ..

/-! ### State.mendUnits -/

@[simp] theorem mendUnits_th (s : State) (pa n : Nat) : (s.mendUnits pa n).th = s.th := rfl
@[simp] theorem mendUnits_others (s : State) (pa n : Nat) : (s.mendUnits pa n).others = s.others := rfl
@[simp] theorem mendUnits_stalled (s : State) (pa n : Nat) : (s.mendUnits pa n).stalled = s.stalled := rfl
@[simp] theorem mendUnits_agenda (s : State) (pa n : Nat) : (s.mendUnits pa n).agenda = s.agenda := rfl
@[simp] theorem mendUnits_policy (s : State) (pa n : Nat) : (s.mendUnits pa n).policy = s.policy := rfl
@[simp] theorem mendUnits_fresh (s : State) (pa n : Nat) : (s.mendUnits pa n).fresh = s.fresh := rfl
@[simp] theorem mendUnits_mem (s : State) (pa n : Nat) : (s.mendUnits pa n).mem = s.mem := rfl
@[simp] theorem mendUnits_dues (s : State) (pa n : Nat) : (s.mendUnits pa n).dues = s.dues := rfl
@[simp] theorem mendUnits_stops (s : State) (pa n : Nat) : (s.mendUnits pa n).stops = s.stops := rfl
@[simp] theorem mendUnits_words (s : State) (pa n : Nat) : (s.mendUnits pa n).words = s.words := rfl
@[simp] theorem mendUnits_allocs (s : State) (pa n : Nat) : (s.mendUnits pa n).allocs = s.allocs := rfl
@[simp] theorem mendUnits_tiles (s : State) (pa n : Nat) : (s.mendUnits pa n).tiles = s.tiles := rfl
@[simp] theorem mendUnits_halls (s : State) (pa n : Nat) : (s.mendUnits pa n).halls = s.halls := rfl
@[simp] theorem mendUnits_ctxs (s : State) (pa n : Nat) : (s.mendUnits pa n).ctxs = s.ctxs := rfl
@[simp] theorem mendUnits_sched (s : State) (pa n : Nat) : (s.mendUnits pa n).sched = s.sched := rfl
@[simp] theorem mendUnits_xfers (s : State) (pa n : Nat) : (s.mendUnits pa n).xfers = s.xfers := rfl
@[simp] theorem mendUnits_media (s : State) (pa n : Nat) : (s.mendUnits pa n).media = s.media := rfl
@[simp] theorem mendUnits_spaces (s : State) (pa n : Nat) : (s.mendUnits pa n).spaces = s.spaces := rfl
@[simp] theorem mendUnits_qps (s : State) (pa n : Nat) : (s.mendUnits pa n).qps = s.qps := rfl
@[simp] theorem mendUnits_regions (s : State) (pa n : Nat) : (s.mendUnits pa n).regions = s.regions := rfl
@[simp] theorem mendUnits_bounce (s : State) (pa n : Nat) : (s.mendUnits pa n).bounce = s.bounce := rfl
@[simp] theorem mendUnits_netOut (s : State) (pa n : Nat) : (s.mendUnits pa n).netOut = s.netOut := rfl
@[simp] theorem mendUnits_hiend (s : State) (pa n : Nat) : (s.mendUnits pa n).hiend = s.hiend := rfl
@[simp] theorem mendUnits_peers (s : State) (pa n : Nat) : (s.mendUnits pa n).peers = s.peers := rfl
@[simp] theorem mendUnits_ras (s : State) (pa n : Nat) : (s.mendUnits pa n).ras = s.ras := rfl
@[simp] theorem mendUnits_svc (s : State) (pa n : Nat) : (s.mendUnits pa n).svc = s.svc := rfl
@[simp] theorem mendUnits_power (s : State) (pa n : Nat) : (s.mendUnits pa n).power = s.power := rfl

/-! ### State.arrive -/

@[simp] theorem arrive_th (s : State) (pa u : Nat) : (s.arrive pa u).th = s.th := by unfold State.arrive; split; rfl; exact apply_th ..
@[simp] theorem arrive_others (s : State) (pa u : Nat) : (s.arrive pa u).others = s.others := by unfold State.arrive; split; rfl; exact apply_others ..
@[simp] theorem arrive_stalled (s : State) (pa u : Nat) : (s.arrive pa u).stalled = s.stalled := by unfold State.arrive; split; rfl; exact apply_stalled ..
@[simp] theorem arrive_agenda (s : State) (pa u : Nat) : (s.arrive pa u).agenda = s.agenda := by unfold State.arrive; split; rfl; exact apply_agenda ..
@[simp] theorem arrive_policy (s : State) (pa u : Nat) : (s.arrive pa u).policy = s.policy := by unfold State.arrive; split; rfl; exact apply_policy ..
@[simp] theorem arrive_fresh (s : State) (pa u : Nat) : (s.arrive pa u).fresh = s.fresh := by unfold State.arrive; split; rfl; exact apply_fresh ..
@[simp] theorem arrive_dues (s : State) (pa u : Nat) : (s.arrive pa u).dues = s.dues := by unfold State.arrive; split; rfl; exact apply_dues ..
@[simp] theorem arrive_stops (s : State) (pa u : Nat) : (s.arrive pa u).stops = s.stops := by unfold State.arrive; split; rfl; exact apply_stops ..
@[simp] theorem arrive_allocs (s : State) (pa u : Nat) : (s.arrive pa u).allocs = s.allocs := by unfold State.arrive; split; rfl; exact apply_allocs ..
@[simp] theorem arrive_tiles (s : State) (pa u : Nat) : (s.arrive pa u).tiles = s.tiles := by unfold State.arrive; split; rfl; exact apply_tiles ..
@[simp] theorem arrive_halls (s : State) (pa u : Nat) : (s.arrive pa u).halls = s.halls := by unfold State.arrive; split; rfl; exact apply_halls ..
@[simp] theorem arrive_ctxs (s : State) (pa u : Nat) : (s.arrive pa u).ctxs = s.ctxs := by unfold State.arrive; split; rfl; exact apply_ctxs ..
@[simp] theorem arrive_sched (s : State) (pa u : Nat) : (s.arrive pa u).sched = s.sched := by unfold State.arrive; split; rfl; exact apply_sched ..
@[simp] theorem arrive_xfers (s : State) (pa u : Nat) : (s.arrive pa u).xfers = s.xfers := by unfold State.arrive; split; rfl; exact apply_xfers ..
@[simp] theorem arrive_media (s : State) (pa u : Nat) : (s.arrive pa u).media = s.media := by unfold State.arrive; split; rfl; exact apply_media ..
@[simp] theorem arrive_spaces (s : State) (pa u : Nat) : (s.arrive pa u).spaces = s.spaces := by unfold State.arrive; split; rfl; exact apply_spaces ..
@[simp] theorem arrive_qps (s : State) (pa u : Nat) : (s.arrive pa u).qps = s.qps := by unfold State.arrive; split; rfl; exact apply_qps ..
@[simp] theorem arrive_regions (s : State) (pa u : Nat) : (s.arrive pa u).regions = s.regions := by unfold State.arrive; split; rfl; exact apply_regions ..
@[simp] theorem arrive_bounce (s : State) (pa u : Nat) : (s.arrive pa u).bounce = s.bounce := by unfold State.arrive; split; rfl; exact apply_bounce ..
@[simp] theorem arrive_netOut (s : State) (pa u : Nat) : (s.arrive pa u).netOut = s.netOut := by unfold State.arrive; split; rfl; exact apply_netOut ..
@[simp] theorem arrive_hiend (s : State) (pa u : Nat) : (s.arrive pa u).hiend = s.hiend := by unfold State.arrive; split; rfl; exact apply_hiend ..
@[simp] theorem arrive_peers (s : State) (pa u : Nat) : (s.arrive pa u).peers = s.peers := by unfold State.arrive; split; rfl; exact apply_peers ..
@[simp] theorem arrive_ras (s : State) (pa u : Nat) : (s.arrive pa u).ras = s.ras := by unfold State.arrive; split; rfl; exact apply_ras ..
@[simp] theorem arrive_svc (s : State) (pa u : Nat) : (s.arrive pa u).svc = s.svc := by unfold State.arrive; split; rfl; exact apply_svc ..
@[simp] theorem arrive_power (s : State) (pa u : Nat) : (s.arrive pa u).power = s.power := by unfold State.arrive; split; rfl; exact apply_power ..

/-! ### State.answer -/

@[simp] theorem answer_th (s : State) (r : BitVec 24) (n : BitVec 32) (a : Reply) : (s.answer r n a).th = s.th := rfl
@[simp] theorem answer_others (s : State) (r : BitVec 24) (n : BitVec 32) (a : Reply) : (s.answer r n a).others = s.others := rfl
@[simp] theorem answer_stalled (s : State) (r : BitVec 24) (n : BitVec 32) (a : Reply) : (s.answer r n a).stalled = s.stalled := rfl
@[simp] theorem answer_agenda (s : State) (r : BitVec 24) (n : BitVec 32) (a : Reply) : (s.answer r n a).agenda = s.agenda := rfl
@[simp] theorem answer_policy (s : State) (r : BitVec 24) (n : BitVec 32) (a : Reply) : (s.answer r n a).policy = s.policy := rfl
@[simp] theorem answer_fresh (s : State) (r : BitVec 24) (n : BitVec 32) (a : Reply) : (s.answer r n a).fresh = s.fresh := rfl
@[simp] theorem answer_mem (s : State) (r : BitVec 24) (n : BitVec 32) (a : Reply) : (s.answer r n a).mem = s.mem := rfl
@[simp] theorem answer_badUnit (s : State) (r : BitVec 24) (n : BitVec 32) (a : Reply) : (s.answer r n a).badUnit = s.badUnit := rfl
@[simp] theorem answer_dues (s : State) (r : BitVec 24) (n : BitVec 32) (a : Reply) : (s.answer r n a).dues = s.dues := rfl
@[simp] theorem answer_stops (s : State) (r : BitVec 24) (n : BitVec 32) (a : Reply) : (s.answer r n a).stops = s.stops := rfl
@[simp] theorem answer_words (s : State) (r : BitVec 24) (n : BitVec 32) (a : Reply) : (s.answer r n a).words = s.words := rfl
@[simp] theorem answer_allocs (s : State) (r : BitVec 24) (n : BitVec 32) (a : Reply) : (s.answer r n a).allocs = s.allocs := rfl
@[simp] theorem answer_tiles (s : State) (r : BitVec 24) (n : BitVec 32) (a : Reply) : (s.answer r n a).tiles = s.tiles := rfl
@[simp] theorem answer_halls (s : State) (r : BitVec 24) (n : BitVec 32) (a : Reply) : (s.answer r n a).halls = s.halls := rfl
@[simp] theorem answer_ctxs (s : State) (r : BitVec 24) (n : BitVec 32) (a : Reply) : (s.answer r n a).ctxs = s.ctxs := rfl
@[simp] theorem answer_sched (s : State) (r : BitVec 24) (n : BitVec 32) (a : Reply) : (s.answer r n a).sched = s.sched := rfl
@[simp] theorem answer_xfers (s : State) (r : BitVec 24) (n : BitVec 32) (a : Reply) : (s.answer r n a).xfers = s.xfers := rfl
@[simp] theorem answer_media (s : State) (r : BitVec 24) (n : BitVec 32) (a : Reply) : (s.answer r n a).media = s.media := rfl
@[simp] theorem answer_spaces (s : State) (r : BitVec 24) (n : BitVec 32) (a : Reply) : (s.answer r n a).spaces = s.spaces := rfl
@[simp] theorem answer_qps (s : State) (r : BitVec 24) (n : BitVec 32) (a : Reply) : (s.answer r n a).qps = s.qps := rfl
@[simp] theorem answer_regions (s : State) (r : BitVec 24) (n : BitVec 32) (a : Reply) : (s.answer r n a).regions = s.regions := rfl
@[simp] theorem answer_bounce (s : State) (r : BitVec 24) (n : BitVec 32) (a : Reply) : (s.answer r n a).bounce = s.bounce := rfl
@[simp] theorem answer_netOut (s : State) (r : BitVec 24) (n : BitVec 32) (a : Reply) : (s.answer r n a).netOut = s.netOut := rfl
@[simp] theorem answer_peers (s : State) (r : BitVec 24) (n : BitVec 32) (a : Reply) : (s.answer r n a).peers = s.peers := rfl
@[simp] theorem answer_ras (s : State) (r : BitVec 24) (n : BitVec 32) (a : Reply) : (s.answer r n a).ras = s.ras := rfl
@[simp] theorem answer_svc (s : State) (r : BitVec 24) (n : BitVec 32) (a : Reply) : (s.answer r n a).svc = s.svc := rfl
@[simp] theorem answer_power (s : State) (r : BitVec 24) (n : BitVec 32) (a : Reply) : (s.answer r n a).power = s.power := rfl

/-! ### State.netReply -/

@[simp] theorem netReply_th (s : State) (a : NetReply) : (s.netReply a).th = s.th := rfl
@[simp] theorem netReply_others (s : State) (a : NetReply) : (s.netReply a).others = s.others := rfl
@[simp] theorem netReply_stalled (s : State) (a : NetReply) : (s.netReply a).stalled = s.stalled := rfl
@[simp] theorem netReply_agenda (s : State) (a : NetReply) : (s.netReply a).agenda = s.agenda := rfl
@[simp] theorem netReply_policy (s : State) (a : NetReply) : (s.netReply a).policy = s.policy := rfl
@[simp] theorem netReply_fresh (s : State) (a : NetReply) : (s.netReply a).fresh = s.fresh := rfl
@[simp] theorem netReply_mem (s : State) (a : NetReply) : (s.netReply a).mem = s.mem := rfl
@[simp] theorem netReply_badUnit (s : State) (a : NetReply) : (s.netReply a).badUnit = s.badUnit := rfl
@[simp] theorem netReply_dues (s : State) (a : NetReply) : (s.netReply a).dues = s.dues := rfl
@[simp] theorem netReply_stops (s : State) (a : NetReply) : (s.netReply a).stops = s.stops := rfl
@[simp] theorem netReply_words (s : State) (a : NetReply) : (s.netReply a).words = s.words := rfl
@[simp] theorem netReply_allocs (s : State) (a : NetReply) : (s.netReply a).allocs = s.allocs := rfl
@[simp] theorem netReply_tiles (s : State) (a : NetReply) : (s.netReply a).tiles = s.tiles := rfl
@[simp] theorem netReply_halls (s : State) (a : NetReply) : (s.netReply a).halls = s.halls := rfl
@[simp] theorem netReply_ctxs (s : State) (a : NetReply) : (s.netReply a).ctxs = s.ctxs := rfl
@[simp] theorem netReply_sched (s : State) (a : NetReply) : (s.netReply a).sched = s.sched := rfl
@[simp] theorem netReply_xfers (s : State) (a : NetReply) : (s.netReply a).xfers = s.xfers := rfl
@[simp] theorem netReply_media (s : State) (a : NetReply) : (s.netReply a).media = s.media := rfl
@[simp] theorem netReply_spaces (s : State) (a : NetReply) : (s.netReply a).spaces = s.spaces := rfl
@[simp] theorem netReply_qps (s : State) (a : NetReply) : (s.netReply a).qps = s.qps := rfl
@[simp] theorem netReply_regions (s : State) (a : NetReply) : (s.netReply a).regions = s.regions := rfl
@[simp] theorem netReply_bounce (s : State) (a : NetReply) : (s.netReply a).bounce = s.bounce := rfl
@[simp] theorem netReply_hiend (s : State) (a : NetReply) : (s.netReply a).hiend = s.hiend := rfl
@[simp] theorem netReply_peers (s : State) (a : NetReply) : (s.netReply a).peers = s.peers := rfl
@[simp] theorem netReply_ras (s : State) (a : NetReply) : (s.netReply a).ras = s.ras := rfl
@[simp] theorem netReply_svc (s : State) (a : NetReply) : (s.netReply a).svc = s.svc := rfl
@[simp] theorem netReply_power (s : State) (a : NetReply) : (s.netReply a).power = s.power := rfl

/-! ### State.setPeer -/

@[simp] theorem setPeer_th (s : State) (p : Peer) : (s.setPeer p).th = s.th := rfl
@[simp] theorem setPeer_others (s : State) (p : Peer) : (s.setPeer p).others = s.others := rfl
@[simp] theorem setPeer_stalled (s : State) (p : Peer) : (s.setPeer p).stalled = s.stalled := rfl
@[simp] theorem setPeer_agenda (s : State) (p : Peer) : (s.setPeer p).agenda = s.agenda := rfl
@[simp] theorem setPeer_policy (s : State) (p : Peer) : (s.setPeer p).policy = s.policy := rfl
@[simp] theorem setPeer_fresh (s : State) (p : Peer) : (s.setPeer p).fresh = s.fresh := rfl
@[simp] theorem setPeer_mem (s : State) (p : Peer) : (s.setPeer p).mem = s.mem := rfl
@[simp] theorem setPeer_badUnit (s : State) (p : Peer) : (s.setPeer p).badUnit = s.badUnit := rfl
@[simp] theorem setPeer_dues (s : State) (p : Peer) : (s.setPeer p).dues = s.dues := rfl
@[simp] theorem setPeer_stops (s : State) (p : Peer) : (s.setPeer p).stops = s.stops := rfl
@[simp] theorem setPeer_words (s : State) (p : Peer) : (s.setPeer p).words = s.words := rfl
@[simp] theorem setPeer_allocs (s : State) (p : Peer) : (s.setPeer p).allocs = s.allocs := rfl
@[simp] theorem setPeer_tiles (s : State) (p : Peer) : (s.setPeer p).tiles = s.tiles := rfl
@[simp] theorem setPeer_halls (s : State) (p : Peer) : (s.setPeer p).halls = s.halls := rfl
@[simp] theorem setPeer_ctxs (s : State) (p : Peer) : (s.setPeer p).ctxs = s.ctxs := rfl
@[simp] theorem setPeer_sched (s : State) (p : Peer) : (s.setPeer p).sched = s.sched := rfl
@[simp] theorem setPeer_xfers (s : State) (p : Peer) : (s.setPeer p).xfers = s.xfers := rfl
@[simp] theorem setPeer_media (s : State) (p : Peer) : (s.setPeer p).media = s.media := rfl
@[simp] theorem setPeer_spaces (s : State) (p : Peer) : (s.setPeer p).spaces = s.spaces := rfl
@[simp] theorem setPeer_qps (s : State) (p : Peer) : (s.setPeer p).qps = s.qps := rfl
@[simp] theorem setPeer_regions (s : State) (p : Peer) : (s.setPeer p).regions = s.regions := rfl
@[simp] theorem setPeer_bounce (s : State) (p : Peer) : (s.setPeer p).bounce = s.bounce := rfl
@[simp] theorem setPeer_netOut (s : State) (p : Peer) : (s.setPeer p).netOut = s.netOut := rfl
@[simp] theorem setPeer_hiend (s : State) (p : Peer) : (s.setPeer p).hiend = s.hiend := rfl
@[simp] theorem setPeer_ras (s : State) (p : Peer) : (s.setPeer p).ras = s.ras := rfl
@[simp] theorem setPeer_svc (s : State) (p : Peer) : (s.setPeer p).svc = s.svc := rfl
@[simp] theorem setPeer_power (s : State) (p : Peer) : (s.setPeer p).power = s.power := rfl

/-! ### State.setQueue -/

@[simp] theorem setQueue_th (s : State) (q : Nat) (x : Queue) : (s.setQueue q x).th = s.th := rfl
@[simp] theorem setQueue_others (s : State) (q : Nat) (x : Queue) : (s.setQueue q x).others = s.others := rfl
@[simp] theorem setQueue_stalled (s : State) (q : Nat) (x : Queue) : (s.setQueue q x).stalled = s.stalled := rfl
@[simp] theorem setQueue_agenda (s : State) (q : Nat) (x : Queue) : (s.setQueue q x).agenda = s.agenda := rfl
@[simp] theorem setQueue_policy (s : State) (q : Nat) (x : Queue) : (s.setQueue q x).policy = s.policy := rfl
@[simp] theorem setQueue_fresh (s : State) (q : Nat) (x : Queue) : (s.setQueue q x).fresh = s.fresh := rfl
@[simp] theorem setQueue_mem (s : State) (q : Nat) (x : Queue) : (s.setQueue q x).mem = s.mem := rfl
@[simp] theorem setQueue_badUnit (s : State) (q : Nat) (x : Queue) : (s.setQueue q x).badUnit = s.badUnit := rfl
@[simp] theorem setQueue_dues (s : State) (q : Nat) (x : Queue) : (s.setQueue q x).dues = s.dues := rfl
@[simp] theorem setQueue_stops (s : State) (q : Nat) (x : Queue) : (s.setQueue q x).stops = s.stops := rfl
@[simp] theorem setQueue_words (s : State) (q : Nat) (x : Queue) : (s.setQueue q x).words = s.words := rfl
@[simp] theorem setQueue_allocs (s : State) (q : Nat) (x : Queue) : (s.setQueue q x).allocs = s.allocs := rfl
@[simp] theorem setQueue_tiles (s : State) (q : Nat) (x : Queue) : (s.setQueue q x).tiles = s.tiles := rfl
@[simp] theorem setQueue_halls (s : State) (q : Nat) (x : Queue) : (s.setQueue q x).halls = s.halls := rfl
@[simp] theorem setQueue_ctxs (s : State) (q : Nat) (x : Queue) : (s.setQueue q x).ctxs = s.ctxs := rfl
@[simp] theorem setQueue_xfers (s : State) (q : Nat) (x : Queue) : (s.setQueue q x).xfers = s.xfers := rfl
@[simp] theorem setQueue_media (s : State) (q : Nat) (x : Queue) : (s.setQueue q x).media = s.media := rfl
@[simp] theorem setQueue_spaces (s : State) (q : Nat) (x : Queue) : (s.setQueue q x).spaces = s.spaces := rfl
@[simp] theorem setQueue_qps (s : State) (q : Nat) (x : Queue) : (s.setQueue q x).qps = s.qps := rfl
@[simp] theorem setQueue_regions (s : State) (q : Nat) (x : Queue) : (s.setQueue q x).regions = s.regions := rfl
@[simp] theorem setQueue_bounce (s : State) (q : Nat) (x : Queue) : (s.setQueue q x).bounce = s.bounce := rfl
@[simp] theorem setQueue_netOut (s : State) (q : Nat) (x : Queue) : (s.setQueue q x).netOut = s.netOut := rfl
@[simp] theorem setQueue_hiend (s : State) (q : Nat) (x : Queue) : (s.setQueue q x).hiend = s.hiend := rfl
@[simp] theorem setQueue_peers (s : State) (q : Nat) (x : Queue) : (s.setQueue q x).peers = s.peers := rfl
@[simp] theorem setQueue_ras (s : State) (q : Nat) (x : Queue) : (s.setQueue q x).ras = s.ras := rfl
@[simp] theorem setQueue_svc (s : State) (q : Nat) (x : Queue) : (s.setQueue q x).svc = s.svc := rfl
@[simp] theorem setQueue_power (s : State) (q : Nat) (x : Queue) : (s.setQueue q x).power = s.power := rfl

/-! ### State.addLaunch -/

@[simp] theorem addLaunch_th (s : State) (l : Launch) : (s.addLaunch l).th = s.th := rfl
@[simp] theorem addLaunch_others (s : State) (l : Launch) : (s.addLaunch l).others = s.others := rfl
@[simp] theorem addLaunch_stalled (s : State) (l : Launch) : (s.addLaunch l).stalled = s.stalled := rfl
@[simp] theorem addLaunch_agenda (s : State) (l : Launch) : (s.addLaunch l).agenda = s.agenda := rfl
@[simp] theorem addLaunch_policy (s : State) (l : Launch) : (s.addLaunch l).policy = s.policy := rfl
@[simp] theorem addLaunch_fresh (s : State) (l : Launch) : (s.addLaunch l).fresh = s.fresh := rfl
@[simp] theorem addLaunch_mem (s : State) (l : Launch) : (s.addLaunch l).mem = s.mem := rfl
@[simp] theorem addLaunch_badUnit (s : State) (l : Launch) : (s.addLaunch l).badUnit = s.badUnit := rfl
@[simp] theorem addLaunch_dues (s : State) (l : Launch) : (s.addLaunch l).dues = s.dues := rfl
@[simp] theorem addLaunch_stops (s : State) (l : Launch) : (s.addLaunch l).stops = s.stops := rfl
@[simp] theorem addLaunch_words (s : State) (l : Launch) : (s.addLaunch l).words = s.words := rfl
@[simp] theorem addLaunch_allocs (s : State) (l : Launch) : (s.addLaunch l).allocs = s.allocs := rfl
@[simp] theorem addLaunch_tiles (s : State) (l : Launch) : (s.addLaunch l).tiles = s.tiles := rfl
@[simp] theorem addLaunch_halls (s : State) (l : Launch) : (s.addLaunch l).halls = s.halls := rfl
@[simp] theorem addLaunch_ctxs (s : State) (l : Launch) : (s.addLaunch l).ctxs = s.ctxs := rfl
@[simp] theorem addLaunch_xfers (s : State) (l : Launch) : (s.addLaunch l).xfers = s.xfers := rfl
@[simp] theorem addLaunch_media (s : State) (l : Launch) : (s.addLaunch l).media = s.media := rfl
@[simp] theorem addLaunch_spaces (s : State) (l : Launch) : (s.addLaunch l).spaces = s.spaces := rfl
@[simp] theorem addLaunch_qps (s : State) (l : Launch) : (s.addLaunch l).qps = s.qps := rfl
@[simp] theorem addLaunch_regions (s : State) (l : Launch) : (s.addLaunch l).regions = s.regions := rfl
@[simp] theorem addLaunch_bounce (s : State) (l : Launch) : (s.addLaunch l).bounce = s.bounce := rfl
@[simp] theorem addLaunch_netOut (s : State) (l : Launch) : (s.addLaunch l).netOut = s.netOut := rfl
@[simp] theorem addLaunch_hiend (s : State) (l : Launch) : (s.addLaunch l).hiend = s.hiend := rfl
@[simp] theorem addLaunch_peers (s : State) (l : Launch) : (s.addLaunch l).peers = s.peers := rfl
@[simp] theorem addLaunch_ras (s : State) (l : Launch) : (s.addLaunch l).ras = s.ras := rfl
@[simp] theorem addLaunch_svc (s : State) (l : Launch) : (s.addLaunch l).svc = s.svc := rfl
@[simp] theorem addLaunch_power (s : State) (l : Launch) : (s.addLaunch l).power = s.power := rfl

/-! ### State.modGen -/

@[simp] theorem modGen_th (s : State) (g : Nat) (f : Gen → Gen) : (s.modGen g f).th = s.th := rfl
@[simp] theorem modGen_others (s : State) (g : Nat) (f : Gen → Gen) : (s.modGen g f).others = s.others := rfl
@[simp] theorem modGen_stalled (s : State) (g : Nat) (f : Gen → Gen) : (s.modGen g f).stalled = s.stalled := rfl
@[simp] theorem modGen_agenda (s : State) (g : Nat) (f : Gen → Gen) : (s.modGen g f).agenda = s.agenda := rfl
@[simp] theorem modGen_policy (s : State) (g : Nat) (f : Gen → Gen) : (s.modGen g f).policy = s.policy := rfl
@[simp] theorem modGen_fresh (s : State) (g : Nat) (f : Gen → Gen) : (s.modGen g f).fresh = s.fresh := rfl
@[simp] theorem modGen_mem (s : State) (g : Nat) (f : Gen → Gen) : (s.modGen g f).mem = s.mem := rfl
@[simp] theorem modGen_badUnit (s : State) (g : Nat) (f : Gen → Gen) : (s.modGen g f).badUnit = s.badUnit := rfl
@[simp] theorem modGen_dues (s : State) (g : Nat) (f : Gen → Gen) : (s.modGen g f).dues = s.dues := rfl
@[simp] theorem modGen_stops (s : State) (g : Nat) (f : Gen → Gen) : (s.modGen g f).stops = s.stops := rfl
@[simp] theorem modGen_words (s : State) (g : Nat) (f : Gen → Gen) : (s.modGen g f).words = s.words := rfl
@[simp] theorem modGen_allocs (s : State) (g : Nat) (f : Gen → Gen) : (s.modGen g f).allocs = s.allocs := rfl
@[simp] theorem modGen_tiles (s : State) (g : Nat) (f : Gen → Gen) : (s.modGen g f).tiles = s.tiles := rfl
@[simp] theorem modGen_halls (s : State) (g : Nat) (f : Gen → Gen) : (s.modGen g f).halls = s.halls := rfl
@[simp] theorem modGen_ctxs (s : State) (g : Nat) (f : Gen → Gen) : (s.modGen g f).ctxs = s.ctxs := rfl
@[simp] theorem modGen_xfers (s : State) (g : Nat) (f : Gen → Gen) : (s.modGen g f).xfers = s.xfers := rfl
@[simp] theorem modGen_media (s : State) (g : Nat) (f : Gen → Gen) : (s.modGen g f).media = s.media := rfl
@[simp] theorem modGen_spaces (s : State) (g : Nat) (f : Gen → Gen) : (s.modGen g f).spaces = s.spaces := rfl
@[simp] theorem modGen_qps (s : State) (g : Nat) (f : Gen → Gen) : (s.modGen g f).qps = s.qps := rfl
@[simp] theorem modGen_regions (s : State) (g : Nat) (f : Gen → Gen) : (s.modGen g f).regions = s.regions := rfl
@[simp] theorem modGen_bounce (s : State) (g : Nat) (f : Gen → Gen) : (s.modGen g f).bounce = s.bounce := rfl
@[simp] theorem modGen_netOut (s : State) (g : Nat) (f : Gen → Gen) : (s.modGen g f).netOut = s.netOut := rfl
@[simp] theorem modGen_hiend (s : State) (g : Nat) (f : Gen → Gen) : (s.modGen g f).hiend = s.hiend := rfl
@[simp] theorem modGen_peers (s : State) (g : Nat) (f : Gen → Gen) : (s.modGen g f).peers = s.peers := rfl
@[simp] theorem modGen_ras (s : State) (g : Nat) (f : Gen → Gen) : (s.modGen g f).ras = s.ras := rfl
@[simp] theorem modGen_svc (s : State) (g : Nat) (f : Gen → Gen) : (s.modGen g f).svc = s.svc := rfl
@[simp] theorem modGen_power (s : State) (g : Nat) (f : Gen → Gen) : (s.modGen g f).power = s.power := rfl

/-! ### State.skipFailed -/

@[simp] theorem skipFailed_th (s : State) : (s.skipFailed).th = s.th := rfl
@[simp] theorem skipFailed_others (s : State) : (s.skipFailed).others = s.others := rfl
@[simp] theorem skipFailed_stalled (s : State) : (s.skipFailed).stalled = s.stalled := rfl
@[simp] theorem skipFailed_agenda (s : State) : (s.skipFailed).agenda = s.agenda := rfl
@[simp] theorem skipFailed_policy (s : State) : (s.skipFailed).policy = s.policy := rfl
@[simp] theorem skipFailed_fresh (s : State) : (s.skipFailed).fresh = s.fresh := rfl
@[simp] theorem skipFailed_mem (s : State) : (s.skipFailed).mem = s.mem := rfl
@[simp] theorem skipFailed_badUnit (s : State) : (s.skipFailed).badUnit = s.badUnit := rfl
@[simp] theorem skipFailed_dues (s : State) : (s.skipFailed).dues = s.dues := rfl
@[simp] theorem skipFailed_stops (s : State) : (s.skipFailed).stops = s.stops := rfl
@[simp] theorem skipFailed_words (s : State) : (s.skipFailed).words = s.words := rfl
@[simp] theorem skipFailed_allocs (s : State) : (s.skipFailed).allocs = s.allocs := rfl
@[simp] theorem skipFailed_tiles (s : State) : (s.skipFailed).tiles = s.tiles := rfl
@[simp] theorem skipFailed_halls (s : State) : (s.skipFailed).halls = s.halls := rfl
@[simp] theorem skipFailed_ctxs (s : State) : (s.skipFailed).ctxs = s.ctxs := rfl
@[simp] theorem skipFailed_xfers (s : State) : (s.skipFailed).xfers = s.xfers := rfl
@[simp] theorem skipFailed_media (s : State) : (s.skipFailed).media = s.media := rfl
@[simp] theorem skipFailed_spaces (s : State) : (s.skipFailed).spaces = s.spaces := rfl
@[simp] theorem skipFailed_qps (s : State) : (s.skipFailed).qps = s.qps := rfl
@[simp] theorem skipFailed_regions (s : State) : (s.skipFailed).regions = s.regions := rfl
@[simp] theorem skipFailed_bounce (s : State) : (s.skipFailed).bounce = s.bounce := rfl
@[simp] theorem skipFailed_netOut (s : State) : (s.skipFailed).netOut = s.netOut := rfl
@[simp] theorem skipFailed_hiend (s : State) : (s.skipFailed).hiend = s.hiend := rfl
@[simp] theorem skipFailed_peers (s : State) : (s.skipFailed).peers = s.peers := rfl
@[simp] theorem skipFailed_ras (s : State) : (s.skipFailed).ras = s.ras := rfl
@[simp] theorem skipFailed_svc (s : State) : (s.skipFailed).svc = s.svc := rfl
@[simp] theorem skipFailed_power (s : State) : (s.skipFailed).power = s.power := rfl

/-! ### The agent after an update -/

@[simp] theorem setX_th (s : State) (r : XReg) (v : Word) : (s.setX r v).th = s.th.setX r v := rfl
@[simp] theorem setTh_th (s : State) (t : Thread) : (s.setTh t).th = t := rfl
@[simp] theorem advance_th (s : State) : s.advance.th = s.th.advance := rfl
@[simp] theorem enter_th (s : State) (a : Word) : (s.enter a).th = s.th.enter a := rfl

@[simp] theorem threadSetX_tid (t : Thread) (r : XReg) (v : Word) : (t.setX r v).tid = t.tid := by unfold Thread.setX; split <;> rfl
@[simp] theorem threadSetX_who (t : Thread) (r : XReg) (v : Word) : (t.setX r v).who = t.who := by unfold Thread.setX; split <;> rfl
@[simp] theorem threadSetX_run (t : Thread) (r : XReg) (v : Word) : (t.setX r v).run = t.run := by unfold Thread.setX; split <;> rfl
@[simp] theorem threadSetX_ctx (t : Thread) (r : XReg) (v : Word) : (t.setX r v).ctx = t.ctx := by unfold Thread.setX; split <;> rfl
@[simp] theorem threadSetX_launch (t : Thread) (r : XReg) (v : Word) : (t.setX r v).launch = t.launch := by unfold Thread.setX; split <;> rfl
@[simp] theorem threadSetX_rank (t : Thread) (r : XReg) (v : Word) : (t.setX r v).rank = t.rank := by unfold Thread.setX; split <;> rfl
@[simp] theorem threadSetX_tcount (t : Thread) (r : XReg) (v : Word) : (t.setX r v).tcount = t.tcount := by unfold Thread.setX; split <;> rfl
@[simp] theorem threadSetX_stage (t : Thread) (r : XReg) (v : Word) : (t.setX r v).stage = t.stage := by unfold Thread.setX; split <;> rfl
@[simp] theorem threadSetX_prio (t : Thread) (r : XReg) (v : Word) : (t.setX r v).prio = t.prio := by unfold Thread.setX; split <;> rfl
@[simp] theorem threadSetX_startNo (t : Thread) (r : XReg) (v : Word) : (t.setX r v).startNo = t.startNo := by unfold Thread.setX; split <;> rfl
@[simp] theorem threadSetX_pc (t : Thread) (r : XReg) (v : Word) : (t.setX r v).pc = t.pc := by unfold Thread.setX; split <;> rfl
@[simp] theorem threadSetX_entering (t : Thread) (r : XReg) (v : Word) : (t.setX r v).entering = t.entering := by unfold Thread.setX; split <;> rfl
@[simp] theorem threadSetX_cameFrom (t : Thread) (r : XReg) (v : Word) : (t.setX r v).cameFrom = t.cameFrom := by unfold Thread.setX; split <;> rfl
@[simp] theorem threadSetX_line (t : Thread) (r : XReg) (v : Word) : (t.setX r v).line = t.line := by unfold Thread.setX; split <;> rfl
@[simp] theorem threadSetX_lineIn (t : Thread) (r : XReg) (v : Word) : (t.setX r v).lineIn = t.lineIn := by unfold Thread.setX; split <;> rfl
@[simp] theorem threadSetX_prefetched (t : Thread) (r : XReg) (v : Word) : (t.setX r v).prefetched = t.prefetched := by unfold Thread.setX; split <;> rfl
@[simp] theorem threadSetX_vl (t : Thread) (r : XReg) (v : Word) : (t.setX r v).vl = t.vl := by unfold Thread.setX; split <;> rfl
@[simp] theorem threadSetX_vtype (t : Thread) (r : XReg) (v : Word) : (t.setX r v).vtype = t.vtype := by unfold Thread.setX; split <;> rfl
@[simp] theorem threadSetX_grant (t : Thread) (r : XReg) (v : Word) : (t.setX r v).grant = t.grant := by unfold Thread.setX; split <;> rfl
@[simp] theorem threadSetX_fsr (t : Thread) (r : XReg) (v : Word) : (t.setX r v).fsr = t.fsr := by unfold Thread.setX; split <;> rfl
@[simp] theorem threadSetX_fcsr (t : Thread) (r : XReg) (v : Word) : (t.setX r v).fcsr = t.fcsr := by unfold Thread.setX; split <;> rfl
@[simp] theorem threadSetX_lsat (t : Thread) (r : XReg) (v : Word) : (t.setX r v).lsat = t.lsat := by unfold Thread.setX; split <;> rfl
@[simp] theorem threadSetX_stall (t : Thread) (r : XReg) (v : Word) : (t.setX r v).stall = t.stall := by unfold Thread.setX; split <;> rfl
@[simp] theorem threadSetX_remind (t : Thread) (r : XReg) (v : Word) : (t.setX r v).remind = t.remind := by unfold Thread.setX; split <;> rfl
@[simp] theorem threadSetX_pl (t : Thread) (r : XReg) (v : Word) : (t.setX r v).pl = t.pl := by unfold Thread.setX; split <;> rfl
@[simp] theorem threadSetX_sregs (t : Thread) (r : XReg) (v : Word) : (t.setX r v).sregs = t.sregs := by unfold Thread.setX; split <;> rfl
@[simp] theorem threadSetX_mregs (t : Thread) (r : XReg) (v : Word) : (t.setX r v).mregs = t.mregs := by unfold Thread.setX; split <;> rfl
@[simp] theorem threadSetX_winrec (t : Thread) (r : XReg) (v : Word) : (t.setX r v).winrec = t.winrec := by unfold Thread.setX; split <;> rfl
@[simp] theorem threadSetX_vowner (t : Thread) (r : XReg) (v : Word) : (t.setX r v).vowner = t.vowner := by unfold Thread.setX; split <;> rfl
@[simp] theorem threadSetX_sscratch (t : Thread) (r : XReg) (v : Word) : (t.setX r v).sscratch = t.sscratch := by unfold Thread.setX; split <;> rfl
@[simp] theorem threadSetX_featen0 (t : Thread) (r : XReg) (v : Word) : (t.setX r v).featen0 = t.featen0 := by unfold Thread.setX; split <;> rfl
@[simp] theorem threadSetX_rc (t : Thread) (r : XReg) (v : Word) : (t.setX r v).rc = t.rc := by unfold Thread.setX; split <;> rfl
@[simp] theorem threadSetX_irq (t : Thread) (r : XReg) (v : Word) : (t.setX r v).irq = t.irq := by unfold Thread.setX; split <;> rfl
@[simp] theorem threadSetX_part (t : Thread) (r : XReg) (v : Word) : (t.setX r v).part = t.part := by unfold Thread.setX; split <;> rfl
@[simp] theorem threadSetX_window (t : Thread) (r : XReg) (v : Word) : (t.setX r v).window = t.window := by unfold Thread.setX; split <;> rfl
@[simp] theorem threadSetX_frozen (t : Thread) (r : XReg) (v : Word) : (t.setX r v).frozen = t.frozen := by unfold Thread.setX; split <;> rfl
@[simp] theorem threadSetX_seqn (t : Thread) (r : XReg) (v : Word) : (t.setX r v).seqn = t.seqn := by unfold Thread.setX; split <;> rfl
@[simp] theorem threadSetX_posts (t : Thread) (r : XReg) (v : Word) : (t.setX r v).posts = t.posts := by unfold Thread.setX; split <;> rfl
@[simp] theorem threadSetX_cursors (t : Thread) (r : XReg) (v : Word) : (t.setX r v).cursors = t.cursors := by unfold Thread.setX; split <;> rfl
@[simp] theorem threadSetX_pendPre (t : Thread) (r : XReg) (v : Word) : (t.setX r v).pendPre = t.pendPre := by unfold Thread.setX; split <;> rfl
@[simp] theorem threadSetX_spaceOf (t : Thread) (r : XReg) (v : Word) : (t.setX r v).spaceOf = t.spaceOf := by unfold Thread.setX; split <;> rfl
@[simp] theorem threadSetX_gaveAway (t : Thread) (r : XReg) (v : Word) : (t.setX r v).gaveAway = t.gaveAway := by unfold Thread.setX; split <;> rfl
@[simp] theorem threadSetX_fabPend (t : Thread) (r : XReg) (v : Word) : (t.setX r v).fabPend = t.fabPend := by unfold Thread.setX; split <;> rfl
@[simp] theorem threadSetX_stripC (t : Thread) (r : XReg) (v : Word) : (t.setX r v).stripC = t.stripC := by unfold Thread.setX; split <;> rfl
@[simp] theorem threadSetX_await (t : Thread) (r : XReg) (v : Word) : (t.setX r v).await = t.await := by unfold Thread.setX; split <;> rfl
@[simp] theorem threadSetX_unchecked (t : Thread) (r : XReg) (v : Word) : (t.setX r v).unchecked = t.unchecked := by unfold Thread.setX; split <;> rfl
@[simp] theorem threadSetX_loads (t : Thread) (r : XReg) (v : Word) : (t.setX r v).loads = t.loads := by unfold Thread.setX; split <;> rfl
@[simp] theorem threadSetX_saved (t : Thread) (r : XReg) (v : Word) : (t.setX r v).saved = t.saved := by unfold Thread.setX; split <;> rfl
@[simp] theorem threadSetX_lateF (t : Thread) (r : XReg) (v : Word) : (t.setX r v).lateF = t.lateF := by unfold Thread.setX; split <;> rfl
@[simp] theorem threadSetX_lateL (t : Thread) (r : XReg) (v : Word) : (t.setX r v).lateL = t.lateL := by unfold Thread.setX; split <;> rfl
@[simp] theorem threadSetX_rests (t : Thread) (r : XReg) (v : Word) : (t.setX r v).rests = t.rests := by unfold Thread.setX; split <;> rfl

@[simp] theorem threadAdvance_tid (t : Thread) : t.advance.tid = t.tid := by unfold Thread.advance; split <;> rfl
@[simp] theorem threadAdvance_who (t : Thread) : t.advance.who = t.who := by unfold Thread.advance; split <;> rfl
@[simp] theorem threadAdvance_run (t : Thread) : t.advance.run = t.run := by unfold Thread.advance; split <;> rfl
@[simp] theorem threadAdvance_ctx (t : Thread) : t.advance.ctx = t.ctx := by unfold Thread.advance; split <;> rfl
@[simp] theorem threadAdvance_launch (t : Thread) : t.advance.launch = t.launch := by unfold Thread.advance; split <;> rfl
@[simp] theorem threadAdvance_rank (t : Thread) : t.advance.rank = t.rank := by unfold Thread.advance; split <;> rfl
@[simp] theorem threadAdvance_tcount (t : Thread) : t.advance.tcount = t.tcount := by unfold Thread.advance; split <;> rfl
@[simp] theorem threadAdvance_stage (t : Thread) : t.advance.stage = t.stage := by unfold Thread.advance; split <;> rfl
@[simp] theorem threadAdvance_prio (t : Thread) : t.advance.prio = t.prio := by unfold Thread.advance; split <;> rfl
@[simp] theorem threadAdvance_startNo (t : Thread) : t.advance.startNo = t.startNo := by unfold Thread.advance; split <;> rfl
@[simp] theorem threadAdvance_line (t : Thread) : t.advance.line = t.line := by unfold Thread.advance; split <;> rfl
@[simp] theorem threadAdvance_lineIn (t : Thread) : t.advance.lineIn = t.lineIn := by unfold Thread.advance; split <;> rfl
@[simp] theorem threadAdvance_prefetched (t : Thread) : t.advance.prefetched = t.prefetched := by unfold Thread.advance; split <;> rfl
@[simp] theorem threadAdvance_vl (t : Thread) : t.advance.vl = t.vl := by unfold Thread.advance; split <;> rfl
@[simp] theorem threadAdvance_vtype (t : Thread) : t.advance.vtype = t.vtype := by unfold Thread.advance; split <;> rfl
@[simp] theorem threadAdvance_grant (t : Thread) : t.advance.grant = t.grant := by unfold Thread.advance; split <;> rfl
@[simp] theorem threadAdvance_fsr (t : Thread) : t.advance.fsr = t.fsr := by unfold Thread.advance; split <;> rfl
@[simp] theorem threadAdvance_fcsr (t : Thread) : t.advance.fcsr = t.fcsr := by unfold Thread.advance; split <;> rfl
@[simp] theorem threadAdvance_lsat (t : Thread) : t.advance.lsat = t.lsat := by unfold Thread.advance; split <;> rfl
@[simp] theorem threadAdvance_stall (t : Thread) : t.advance.stall = t.stall := by unfold Thread.advance; split <;> rfl
@[simp] theorem threadAdvance_remind (t : Thread) : t.advance.remind = t.remind := by unfold Thread.advance; split <;> rfl
@[simp] theorem threadAdvance_pl (t : Thread) : t.advance.pl = t.pl := by unfold Thread.advance; split <;> rfl
@[simp] theorem threadAdvance_sregs (t : Thread) : t.advance.sregs = t.sregs := by unfold Thread.advance; split <;> rfl
@[simp] theorem threadAdvance_mregs (t : Thread) : t.advance.mregs = t.mregs := by unfold Thread.advance; split <;> rfl
@[simp] theorem threadAdvance_winrec (t : Thread) : t.advance.winrec = t.winrec := by unfold Thread.advance; split <;> rfl
@[simp] theorem threadAdvance_vowner (t : Thread) : t.advance.vowner = t.vowner := by unfold Thread.advance; split <;> rfl
@[simp] theorem threadAdvance_sscratch (t : Thread) : t.advance.sscratch = t.sscratch := by unfold Thread.advance; split <;> rfl
@[simp] theorem threadAdvance_featen0 (t : Thread) : t.advance.featen0 = t.featen0 := by unfold Thread.advance; split <;> rfl
@[simp] theorem threadAdvance_rc (t : Thread) : t.advance.rc = t.rc := by unfold Thread.advance; split <;> rfl
@[simp] theorem threadAdvance_irq (t : Thread) : t.advance.irq = t.irq := by unfold Thread.advance; split <;> rfl
@[simp] theorem threadAdvance_part (t : Thread) : t.advance.part = t.part := by unfold Thread.advance; split <;> rfl
@[simp] theorem threadAdvance_window (t : Thread) : t.advance.window = t.window := by unfold Thread.advance; split <;> rfl
@[simp] theorem threadAdvance_frozen (t : Thread) : t.advance.frozen = t.frozen := by unfold Thread.advance; split <;> rfl
@[simp] theorem threadAdvance_seqn (t : Thread) : t.advance.seqn = t.seqn := by unfold Thread.advance; split <;> rfl
@[simp] theorem threadAdvance_posts (t : Thread) : t.advance.posts = t.posts := by unfold Thread.advance; split <;> rfl
@[simp] theorem threadAdvance_cursors (t : Thread) : t.advance.cursors = t.cursors := by unfold Thread.advance; split <;> rfl
@[simp] theorem threadAdvance_pendPre (t : Thread) : t.advance.pendPre = t.pendPre := by unfold Thread.advance; split <;> rfl
@[simp] theorem threadAdvance_spaceOf (t : Thread) : t.advance.spaceOf = t.spaceOf := by unfold Thread.advance; split <;> rfl
@[simp] theorem threadAdvance_gaveAway (t : Thread) : t.advance.gaveAway = t.gaveAway := by unfold Thread.advance; split <;> rfl
@[simp] theorem threadAdvance_fabPend (t : Thread) : t.advance.fabPend = t.fabPend := by unfold Thread.advance; split <;> rfl
@[simp] theorem threadAdvance_stripC (t : Thread) : t.advance.stripC = t.stripC := by unfold Thread.advance; split <;> rfl
@[simp] theorem threadAdvance_await (t : Thread) : t.advance.await = t.await := by unfold Thread.advance; split <;> rfl
@[simp] theorem threadAdvance_unchecked (t : Thread) : t.advance.unchecked = t.unchecked := by unfold Thread.advance; split <;> rfl
@[simp] theorem threadAdvance_loads (t : Thread) : t.advance.loads = t.loads := by unfold Thread.advance; split <;> rfl
@[simp] theorem threadAdvance_saved (t : Thread) : t.advance.saved = t.saved := by unfold Thread.advance; split <;> rfl
@[simp] theorem threadAdvance_lateF (t : Thread) : t.advance.lateF = t.lateF := by unfold Thread.advance; split <;> rfl
@[simp] theorem threadAdvance_lateL (t : Thread) : t.advance.lateL = t.lateL := by unfold Thread.advance; split <;> rfl
@[simp] theorem threadAdvance_rests (t : Thread) : t.advance.rests = t.rests := by unfold Thread.advance; split <;> rfl
@[simp] theorem threadAdvance_x (t : Thread) : t.advance.x = t.x := by unfold Thread.advance; split <;> rfl

@[simp] theorem threadEnter_tid (t : Thread) (a : Word) : (t.enter a).tid = t.tid := rfl
@[simp] theorem threadEnter_who (t : Thread) (a : Word) : (t.enter a).who = t.who := rfl
@[simp] theorem threadEnter_run (t : Thread) (a : Word) : (t.enter a).run = t.run := rfl
@[simp] theorem threadEnter_ctx (t : Thread) (a : Word) : (t.enter a).ctx = t.ctx := rfl
@[simp] theorem threadEnter_launch (t : Thread) (a : Word) : (t.enter a).launch = t.launch := rfl
@[simp] theorem threadEnter_rank (t : Thread) (a : Word) : (t.enter a).rank = t.rank := rfl
@[simp] theorem threadEnter_tcount (t : Thread) (a : Word) : (t.enter a).tcount = t.tcount := rfl
@[simp] theorem threadEnter_stage (t : Thread) (a : Word) : (t.enter a).stage = t.stage := rfl
@[simp] theorem threadEnter_prio (t : Thread) (a : Word) : (t.enter a).prio = t.prio := rfl
@[simp] theorem threadEnter_startNo (t : Thread) (a : Word) : (t.enter a).startNo = t.startNo := rfl
@[simp] theorem threadEnter_line (t : Thread) (a : Word) : (t.enter a).line = t.line := rfl
@[simp] theorem threadEnter_lineIn (t : Thread) (a : Word) : (t.enter a).lineIn = t.lineIn := rfl
@[simp] theorem threadEnter_prefetched (t : Thread) (a : Word) : (t.enter a).prefetched = t.prefetched := rfl
@[simp] theorem threadEnter_vl (t : Thread) (a : Word) : (t.enter a).vl = t.vl := rfl
@[simp] theorem threadEnter_vtype (t : Thread) (a : Word) : (t.enter a).vtype = t.vtype := rfl
@[simp] theorem threadEnter_grant (t : Thread) (a : Word) : (t.enter a).grant = t.grant := rfl
@[simp] theorem threadEnter_fsr (t : Thread) (a : Word) : (t.enter a).fsr = t.fsr := rfl
@[simp] theorem threadEnter_fcsr (t : Thread) (a : Word) : (t.enter a).fcsr = t.fcsr := rfl
@[simp] theorem threadEnter_lsat (t : Thread) (a : Word) : (t.enter a).lsat = t.lsat := rfl
@[simp] theorem threadEnter_stall (t : Thread) (a : Word) : (t.enter a).stall = t.stall := rfl
@[simp] theorem threadEnter_remind (t : Thread) (a : Word) : (t.enter a).remind = t.remind := rfl
@[simp] theorem threadEnter_pl (t : Thread) (a : Word) : (t.enter a).pl = t.pl := rfl
@[simp] theorem threadEnter_sregs (t : Thread) (a : Word) : (t.enter a).sregs = t.sregs := rfl
@[simp] theorem threadEnter_mregs (t : Thread) (a : Word) : (t.enter a).mregs = t.mregs := rfl
@[simp] theorem threadEnter_winrec (t : Thread) (a : Word) : (t.enter a).winrec = t.winrec := rfl
@[simp] theorem threadEnter_vowner (t : Thread) (a : Word) : (t.enter a).vowner = t.vowner := rfl
@[simp] theorem threadEnter_sscratch (t : Thread) (a : Word) : (t.enter a).sscratch = t.sscratch := rfl
@[simp] theorem threadEnter_featen0 (t : Thread) (a : Word) : (t.enter a).featen0 = t.featen0 := rfl
@[simp] theorem threadEnter_rc (t : Thread) (a : Word) : (t.enter a).rc = t.rc := rfl
@[simp] theorem threadEnter_irq (t : Thread) (a : Word) : (t.enter a).irq = t.irq := rfl
@[simp] theorem threadEnter_part (t : Thread) (a : Word) : (t.enter a).part = t.part := rfl
@[simp] theorem threadEnter_window (t : Thread) (a : Word) : (t.enter a).window = t.window := rfl
@[simp] theorem threadEnter_frozen (t : Thread) (a : Word) : (t.enter a).frozen = t.frozen := rfl
@[simp] theorem threadEnter_seqn (t : Thread) (a : Word) : (t.enter a).seqn = t.seqn := rfl
@[simp] theorem threadEnter_posts (t : Thread) (a : Word) : (t.enter a).posts = t.posts := rfl
@[simp] theorem threadEnter_cursors (t : Thread) (a : Word) : (t.enter a).cursors = t.cursors := rfl
@[simp] theorem threadEnter_pendPre (t : Thread) (a : Word) : (t.enter a).pendPre = t.pendPre := rfl
@[simp] theorem threadEnter_spaceOf (t : Thread) (a : Word) : (t.enter a).spaceOf = t.spaceOf := rfl
@[simp] theorem threadEnter_gaveAway (t : Thread) (a : Word) : (t.enter a).gaveAway = t.gaveAway := rfl
@[simp] theorem threadEnter_fabPend (t : Thread) (a : Word) : (t.enter a).fabPend = t.fabPend := rfl
@[simp] theorem threadEnter_stripC (t : Thread) (a : Word) : (t.enter a).stripC = t.stripC := rfl
@[simp] theorem threadEnter_await (t : Thread) (a : Word) : (t.enter a).await = t.await := rfl
@[simp] theorem threadEnter_unchecked (t : Thread) (a : Word) : (t.enter a).unchecked = t.unchecked := rfl
@[simp] theorem threadEnter_loads (t : Thread) (a : Word) : (t.enter a).loads = t.loads := rfl
@[simp] theorem threadEnter_saved (t : Thread) (a : Word) : (t.enter a).saved = t.saved := rfl
@[simp] theorem threadEnter_lateF (t : Thread) (a : Word) : (t.enter a).lateF = t.lateF := rfl
@[simp] theorem threadEnter_lateL (t : Thread) (a : Word) : (t.enter a).lateL = t.lateL := rfl
@[simp] theorem threadEnter_rests (t : Thread) (a : Word) : (t.enter a).rests = t.rests := rfl
@[simp] theorem threadEnter_x (t : Thread) (a : Word) : (t.enter a).x = t.x := rfl

/-! ### Registers (R61, R77) -/

/-- A register after a write: the value written, or what it held; x0 reads 0. -/
theorem getX_setX (t : Thread) (d r : XReg) (v : Word) : (t.setX d v).getX r = if r = d ∧ d ≠ 0 then v else t.getX r := by
  unfold Thread.setX Thread.getX
  by_cases hd : d = 0
  · simp [hd]
  · simp only [hd, if_false, ne_eq, not_false_iff, and_true]
    by_cases hr : r = d
    · subst hr; rw [if_neg hd, if_pos rfl]; exact Vector.getElem_set_self ..
    · have : d.toNat ≠ r.toNat := fun h => hr (BitVec.eq_of_toNat_eq h.symm)
      simp [hr, this]

@[simp] theorem getX_zero (t : Thread) : t.getX 0 = 0 := rfl
@[simp] theorem getX_advance (t : Thread) (r : XReg) : t.advance.getX r = t.getX r := by unfold Thread.advance; split <;> rfl
@[simp] theorem getX_enter (t : Thread) (a : Word) (r : XReg) : (t.enter a).getX r = t.getX r := rfl
@[simp] theorem nextPc_setX (t : Thread) (r : XReg) (v : Word) : (t.setX r v).nextPc = t.nextPc := by unfold Thread.setX; split <;> rfl

/-- Control passes to the next head (R47). -/
@[simp] theorem advance_pc (t : Thread) : t.advance.pc = t.nextPc := by unfold Thread.advance; split <;> rfl

@[simp] theorem enter_pc (t : Thread) (a : Word) : (t.enter a).pc = a := rfl
@[simp] theorem enter_entering (t : Thread) (a : Word) : (t.enter a).entering = true := rfl

@[simp] theorem written_passed (s : State) (d : XReg) (v : Word) : (written s d v).th.pc = s.th.nextPc := by
  show (s.th.setX d v).advance.pc = _
  rw [advance_pc, nextPc_setX]

/-- What a register reads after `written`. -/
theorem getX_written (s : State) (d r : XReg) (v : Word) : (written s d v).getX r = if r = d ∧ d ≠ 0 then v else s.getX r := by
  show (s.th.setX d v).advance.getX r = _
  rw [getX_advance, getX_setX]
  rfl

/-! ### Tiles and halls by number -/

theorem assocGet_assocSet {κ β : Type} [DecidableEq κ] (l : List (κ × β)) (k j : κ) (v : β) :
    assocGet (assocSet l k v) j = if j = k then some v else assocGet l j := by
  induction l with
  | nil =>
    by_cases h : j = k
    · simp [assocSet, assocGet, h]
    · simp [assocSet, assocGet, h, Ne.symm h]
  | cons p r ih =>
    obtain ⟨k', v'⟩ := p
    unfold assocSet
    by_cases hk : k' = k
    · subst hk
      rw [if_pos rfl]
      by_cases h : j = k'
      · simp [assocGet, h]
      · simp [assocGet, h, Ne.symm h]
    · rw [if_neg hk]
      simp only [assocGet]
      by_cases h : k' = j
      · subst h; simp [hk]
      · rw [if_neg h, if_neg h, ih]

/-- A tile after a write: the one written, or what stood there. -/
theorem tile_setTile (s : State) (h i h' i' : Nat) (x : Tile) :
    (s.setTile h i x).tile h' i' = if (h', i') = (h, i) then x else s.tile h' i' := by
  unfold State.tile State.setTile
  simp only [assocGet_assocSet]
  split <;> rfl

@[simp] theorem hall_setTile (s : State) (h i k : Nat) (x : Tile) : (s.setTile h i x).hall k = s.hall k := rfl
@[simp] theorem tile_setHall (s : State) (h k i : Nat) (x : Hall) : (s.setHall h x).tile k i = s.tile k i := rfl

end Sys2Proof.Laws
end

