-- ==== Sys2Proof/Laws/Act.lean ====
section
/-! SUPPORT. How actions compose and end, what each shared check answers, and what the shared accesses of memory do: the lemmas a proof
about an instruction cites instead of unfolding them. -/

namespace Sys2Proof.Laws

open Sys2Proof.Machine Sys2Proof.Safety
open Host (Outcome)

set_option Elab.async false

variable {α β : Type} {s t : State}

/-! ### Sequencing -/

theorem act_bind_ok {a : Act α} {k : α → Act β} {x : α} (h : a s = .ok (x, t)) : (a >>= k) s = k x t := by
  simp [bind, StateT.bind, h, Except.bind]

theorem act_bind_error {a : Act α} {k : α → Act β} {e : Exit} (h : a s = .error (e, t)) : (a >>= k) s = .error (e, t) := by
  simp [bind, StateT.bind, h, Except.bind]

/-- What a sequence answered, taken apart: its first part ended it, or handed a result and a state to the rest. -/
theorem act_bind_cases {a : Act α} {k : α → Act β} {r : Except (Exit × State) (β × State)} (h : (a >>= k) s = r) :
    (∃ e t, a s = .error (e, t) ∧ r = .error (e, t)) ∨ ∃ x t, a s = .ok (x, t) ∧ k x t = r := by
  cases ha : a s with
  | error p => exact .inl ⟨p.1, p.2, rfl, by rw [← h, act_bind_error (e := p.1) (t := p.2) ha]⟩
  | ok p => exact .inr ⟨p.1, p.2, rfl, by rw [← h, act_bind_ok (x := p.1) (t := p.2) ha]⟩

theorem act_get : (get : Act State) s = .ok (s, s) := rfl
theorem act_set : (set t : Act PUnit) s = .ok (⟨⟩, t) := rfl
theorem act_pure (x : α) : (pure x : Act α) s = .ok (x, s) := rfl
theorem act_modify (f : State → State) : (modify f : Act PUnit) s = .ok (⟨⟩, f s) := rfl
theorem act_endWith (e : Exit) : (endWith e : Act α) s = .error (e, s) := rfl
theorem act_trapWith (c : Byte) (v : Word) : (trapWith c v : Act α) s = .error (.trap c v, s) := rfl
theorem act_illegal : (illegal : Act α) s = .error (.trap cILL s.codeVal, s) := rfl

/-! ### How an action's end becomes the step's outcome -/

theorem runAct_ok {a : Act Unit} {x : Unit} (h : a s = .ok (x, t)) : runAct a s = .next t := by simp [runAct, h]

theorem runAct_trapOrWait {a : Act Unit} {c : Byte} {v : Word} (h : a s = .error (.trap c v, t)) : runAct a s = .next (t.trapOrWait c v) := by
  simp [runAct, h]

/-- Where nothing holds the trap back it is taken (R241, R275, R338). -/
theorem runAct_trap {a : Act Unit} {c : Byte} {v : Word} (h : a s = .error (.trap c v, t)) (hr : trapReady t) :
    runAct a s = .next (t.trap c v) := by
  simp [runAct, h, State.trapOrWait, hr.1, hr.2]

theorem runAct_wait {a : Act Unit} (h : a s = .error (.wait, t)) : runAct a s = .next { t with stalled := true } := by simp [runAct, h]
theorem runAct_abort {a : Act Unit} {pa : Option Nat} (h : a s = .error (.abort pa, t)) : runAct a s = .next (t.dabort pa) := by
  simp [runAct, h]

/-- Every action answers a next state: none ends the run. -/
theorem runAct_next (a : Act Unit) (s : State) : ∃ t, runAct a s = .next t := by
  unfold runAct
  split <;> exact ⟨_, rfl⟩

/-! ### The checks an instruction makes -/

theorem notOnCore_ok (h : s.th.isCore = false) : notOnCore s = .ok ((), s) := by
  unfold notOnCore; rw [act_bind_ok act_get]; simp [h]; rfl

theorem notOnCore_error (h : s.th.isCore = true) : notOnCore s = .error (.trap cILL s.codeVal, s) := by
  unfold notOnCore; rw [act_bind_ok act_get]; simp [h]; rfl

theorem needFeature_ok {bit : Nat} (h : s.th.featen0.getLsbD bit = true) : needFeature bit s = .ok ((), s) := by
  unfold needFeature; rw [act_bind_ok act_get]; simp only [h]; rfl

theorem needFeature_error {bit : Nat} (h : s.th.featen0.getLsbD bit = false) : needFeature bit s = .error (.trap cILL s.codeVal, s) := by
  unfold needFeature; rw [act_bind_ok act_get]; simp only [h]; rfl

theorem needS_ok (h : s.th.pl ≠ 0) : needS s = .ok ((), s) := by
  unfold needS; rw [act_bind_ok act_get]; simp only [h]; rfl

theorem needS_error (h : s.th.pl = 0) : needS s = .error (.trap cPRIV s.codeVal, s) := by
  unfold needS; rw [act_bind_ok act_get]; simp only [h]; rfl

theorem needAlign_ok {va : Word} {n : Nat} (h : va.toNat % n = 0) : needAlign va n s = .ok ((), s) := by
  unfold needAlign; rw [if_pos h]; rfl

theorem needAlign_error {va : Word} {n : Nat} (h : va.toNat % n ≠ 0) : needAlign va n s = .error (.trap cALIGN va, s) := by
  unfold needAlign; rw [if_neg h]; rfl

theorem waitTrims_ok (h : s.th.trimPending = false) : waitTrims s = .ok ((), s) := by
  unfold waitTrims; rw [act_bind_ok act_get]; simp [h]; rfl

theorem waitTrims_error (h : s.th.trimPending = true) : waitTrims s = .error (.wait, s) := by
  unfold waitTrims; rw [act_bind_ok act_get]; simp [h]; rfl

theorem needEmpty_ok (h : s.th.window = []) (hu : s.th.unchecked = []) : needEmpty s = .ok ((), s) := by
  unfold needEmpty
  rw [act_bind_ok (x := ()) (t := s)]
  · rw [act_bind_ok act_get]; simp [h, hu]; rfl
  · unfold needWindow; rw [act_bind_ok act_get]; simp [Thread.windowAway, h]; rfl

/-- Earlier accesses are ordered where none is under way: the thread's queued writes are at home (R91, R208). -/
theorem needQuiet_ok {r : Bool} (hw : s.th.windowAway = false) (hf : s.th.frozen = false)
    (hd : ∀ e ∈ s.th.window, e.mustDrain s.th.frozen = false) (ho : s.openSerials r = false) : needQuiet r s = .ok ((), s.drainOwn) := by
  unfold needQuiet
  rw [act_bind_ok (x := ()) (t := s), act_bind_ok (act_modify _), hf, if_neg (by simp), act_bind_ok act_get]
  · have : (s.th.window.any fun e => e.mustDrain s.th.frozen) = false := by simpa using hd
    rw [this, ho]; rfl
  · unfold needWindow; rw [act_bind_ok act_get]; simp only [hw]; rfl

/-! ### Translation and accesses of this device's memory -/

/-- A translated address: the translation is cached. -/
theorem xlate_ok {va : Word} {acc : Access} {l : Loc} {e : Option TlbEnt} (h : s.locate va acc = .ok (l, e)) :
    xlate va acc s = .ok (l, s.cacheTlb s.th.hall? e) := by
  unfold xlate; rw [h]

/-- An address that does not translate: PAGE or PROT with the address, or the end of the context, and nothing has changed (R90,
R341). -/
theorem xlate_error {va : Word} {acc : Access} {c : Byte} (h : s.locate va acc = .error c) :
    xlate va acc s = .error (if c = cDABORT then .abort none else .trap c va, s) := by
  unfold xlate; rw [h]

/-- A load of memory hands back the bytes as the thread reads them and changes nothing. -/
theorem loadHere_ok {pa n : Nat} (hk : paKind pa ≠ .reg) (hb : s.touchesBad pa n = false) :
    loadHere pa n s = .ok (s.readBytes s.th.place pa n, s) := by
  unfold loadHere; split
  · contradiction
  · simp [hb]

/-- A load of uncorrectable data aborts (R340). -/
theorem loadHere_abort {pa n : Nat} (hk : paKind pa ≠ .reg) (hb : s.touchesBad pa n = true) : loadHere pa n s = .error (.abort (some pa), s) := by
  unfold loadHere; split
  · contradiction
  · simp [hb]

/-- A store that is applied at once: what is queued on its way for its bytes reaches their home first, then the bytes are written.
-/
theorem storeHere_apply {pa : Nat} {bs : List Byte} (hk : paKind pa ≠ .reg) (hb : s.partlyBad pa bs.length = false)
    (hp : s.th.place = none ∨ s.policy.apply = true) : storeHere pa bs s = .ok ((), (s.drainAt pa bs.length).apply pa bs) := by
  unfold storeHere; split
  · contradiction
  · rw [hb]
    cases hq : s.th.place with
    | none => simp [State.drainAt, hq]
    | some q => simp [hp.resolve_left (by simp [hq])]

/-- A tile thread's store that is not applied at once waits in its tile's store queue (R208). -/
theorem storeHere_queue {pa h u : Nat} {bs : List Byte} (hk : paKind pa ≠ .reg) (hb : s.partlyBad pa bs.length = false)
    (hp : s.th.place = some (h, u)) (ha : s.policy.apply = false) :
    storeHere pa bs s = .ok ((), s.queueWrite h u { pa := pa, bytes := bs, tid := s.th.tid, last := false }) := by
  unfold storeHere; split
  · contradiction
  · rw [hb]; simp [hp, ha]

/-- A store of uncorrectable data aborts (R340). -/
theorem storeHere_abort {pa : Nat} {bs : List Byte} (hk : paKind pa ≠ .reg) (hb : s.partlyBad pa bs.length = true) :
    storeHere pa bs s = .error (.abort (some pa), s) := by
  unfold storeHere; split
  · contradiction
  · rw [hb]; rfl

/-- The state that a read-modify-write leaves: the new value, where there is one, is written at its home (R94). -/
def rmwState (s : State) (pa n : Nat) (f : Nat → Option Nat) : State :=
  match f (leNat (memRead (s.drainAt pa n).mem pa n)) with
  | none => s.drainAt pa n
  | some v => (s.drainAt pa n).apply pa (leBytes n v)

/-- A read-modify-write of memory: the old value is handed back (R94). -/
theorem rmwHere_ok {pa n : Nat} {f : Nat → Option Nat} (hk : paKind pa ≠ .reg) (hb : s.touchesBad pa n = false) :
    rmwHere pa n f s = .ok (leNat (memRead (s.drainAt pa n).mem pa n), rmwState s pa n f) := by
  unfold rmwHere rmwState; split
  · contradiction
  · simp only [hb]
    cases f (leNat (memRead (s.drainAt pa n).mem pa n)) <;> rfl

/-- A plain store that is applied at once: the landing words, objects and graph fields it touches become unpredictable (R149,
R214). -/
theorem storePlain_apply {pa : Nat} {bs : List Byte} (hk : paKind pa ≠ .reg) (hb : s.partlyBad pa bs.length = false)
    (hp : s.th.place = none ∨ s.policy.apply = true) :
    storePlain pa bs s = .ok ((), (s.wordsAt pa bs.length).foldl State.spoil ((s.drainAt pa bs.length).apply pa bs)) := by
  unfold storePlain
  rw [act_bind_ok act_get, act_bind_ok (storeHere_apply hk hb hp)]
  rfl

/-- An atomic: a read-modify-write, after which what it touches of those is unpredictable. -/
theorem amoHere_ok {pa n : Nat} {f : Nat → Option Nat} (hk : paKind pa ≠ .reg) (hb : s.touchesBad pa n = false) :
    amoHere pa n f s = .ok (leNat (memRead (s.drainAt pa n).mem pa n), (rmwState s pa n f).spoilHome (s.wordsAt pa n)) := by
  unfold amoHere
  rw [act_bind_ok act_get, act_bind_ok (rmwHere_ok hk hb)]
  rfl

/-- Where an access touches no landing word, object or graph field, nothing becomes unpredictable. -/
theorem spoil_none (s : State) : ([] : List Nat).foldl State.spoil s = s ∧ s.spoilHome [] = s := ⟨rfl, rfl⟩

/-! ### What an action keeps -/

/-- However the action ends, it leaves a state of which `P` holds where `P` held before. -/
def Keeps (P : State → Prop) (a : Act α) : Prop := ∀ s, P s → match a s with
  | .ok (_, t) => P t
  | .error (_, t) => P t

variable {P : State → Prop}

theorem keeps_pure (x : α) : Keeps P (pure x : Act α) := fun _ h => h
theorem keeps_get : Keeps P (get : Act State) := fun _ h => h
theorem keeps_endWith (e : Exit) : Keeps P (endWith e : Act α) := fun _ h => h
theorem keeps_trapWith (c : Byte) (v : Word) : Keeps P (trapWith c v : Act α) := fun _ h => h
theorem keeps_illegal : Keeps P (illegal : Act α) := fun _ h => h
theorem keeps_modify {f : State → State} (hf : ∀ s, P s → P (f s)) : Keeps P (modify f) := hf

theorem keeps_bind {a : Act α} {k : α → Act β} (ha : Keeps P a) (hk : ∀ x, Keeps P (k x)) : Keeps P (a >>= k) := by
  intro s h
  have := ha s h
  cases hs : a s with
  | error p => rw [act_bind_error (e := p.1) (t := p.2) hs]; rw [hs] at this; exact this
  | ok p => rw [act_bind_ok (x := p.1) (t := p.2) hs]; rw [hs] at this; exact hk p.1 p.2 this

theorem keeps_ite {c : Prop} [Decidable c] {a b : Act α} (ha : Keeps P a) (hb : Keeps P b) : Keeps P (if c then a else b) := by
  split <;> assumption

/-- An action that keeps `P` leaves it where the step goes on, if a trap, a wait and an abort leave it too. -/
theorem runAct_keeps {a : Act Unit} (ha : Keeps P a) (ht : ∀ s c v, P s → P (s.trapOrWait c v)) (hw : ∀ s, P s → P { s with stalled := true })
    (hd : ∀ s pa, P s → P (s.dabort pa)) (h : P s) (hr : runAct a s = .next t) : P t := by
  have := ha s h
  unfold runAct at hr
  split at hr <;> rename_i he <;> rw [he] at this
  · cases hr; exact this
  · cases hr; exact ht _ _ _ this
  · cases hr; exact hw _ this
  · cases hr; exact hd _ _ this

end Sys2Proof.Laws
end

