-- ==== Sys2Proof/Laws/PerInstr.lean ====
section
/-! SUPPORT. One lemma for each constructor of Instr: the encoding of the instruction uses no tail bit above those its head's tail length
gives it (R44). -/

namespace Sys2Proof.Laws.EncodingFits

set_option Elab.async false

/-- The instruction's encoding fits in its head and as many tail bytes as its head says (R44); a step that is no instruction has no
encoding, and the statement holds of it. -/
def Statement (i : Instr) : Prop := ∀ c, encode i = some c → c.tail.toNat < 2 ^ (8 * tailBytes c.tl.toNat)

/-- The tail length that a head's bits 8:6 give. -/
theorem tl_headOf (major : BitVec 7) (tl : BitVec 3) (f : BitVec 6) (t : BitVec 64) : (Code.mk (headOf major tl f) t).tl = tl := by
  apply BitVec.eq_of_getLsbD_eq
  intro i hi
  show ((major ++ tl ++ f : BitVec (7 + 3 + 6)).extractLsb' 6 3).getLsbD i = _
  rw [BitVec.getLsbD_extractLsb', BitVec.getLsbD_append, BitVec.getLsbD_append]
  have h : 6 + i - 6 = i := by omega
  simp [hi, h]

/-- A tail of `n` bits fits where the tail length gives at least as many. -/
theorem fits {i : Instr} {n : Nat} {major : BitVec 7} {tl : BitVec 3} {f : BitVec 6} {t : BitVec n}
    (h : encode i = some (codeOf major tl f t)) (hn : n ≤ 8 * tailBytes tl.toNat) : Statement i := by
  intro c hc
  rw [h] at hc
  cases hc
  simp only [codeOf, tl_headOf, BitVec.toNat_setWidth]
  exact Nat.lt_of_le_of_lt (Nat.mod_le _ _) (Nat.lt_of_lt_of_le t.isLt (Nat.pow_le_pow_right (by decide) hn))

theorem fits_none {i : Instr} (h : encode i = none) : Statement i := by
  intro c hc; rw [h] at hc; cases hc

theorem udf (t : BitVec 3) (f : BitVec 6) : Statement (.udf t f) := fun c h => by cases h; rw [tl_headOf]; exact Nat.pos_of_neZero _
theorem add (d a b : XReg) : Statement (.add d a b) := fits rfl (by decide)
theorem sub (d a b : XReg) : Statement (.sub d a b) := fits rfl (by decide)
theorem and (d a b : XReg) : Statement (.and d a b) := fits rfl (by decide)
theorem or (d a b : XReg) : Statement (.or d a b) := fits rfl (by decide)
theorem xor (d a b : XReg) : Statement (.xor d a b) := fits rfl (by decide)
theorem sll (d a b : XReg) : Statement (.sll d a b) := fits rfl (by decide)
theorem srl (d a b : XReg) : Statement (.srl d a b) := fits rfl (by decide)
theorem sra (d a b : XReg) : Statement (.sra d a b) := fits rfl (by decide)
theorem slt (d a b : XReg) : Statement (.slt d a b) := fits rfl (by decide)
theorem sltN (d a b : XReg) : Statement (.sltN d a b) := fits rfl (by decide)
theorem mul (d a b : XReg) : Statement (.mul d a b) := fits rfl (by decide)
theorem mulh (d a b : XReg) : Statement (.mulh d a b) := fits rfl (by decide)
theorem mulhN (d a b : XReg) : Statement (.mulhN d a b) := fits rfl (by decide)
theorem div (d a b : XReg) : Statement (.div d a b) := fits rfl (by decide)
theorem divN (d a b : XReg) : Statement (.divN d a b) := fits rfl (by decide)
theorem rem (d a b : XReg) : Statement (.rem d a b) := fits rfl (by decide)
theorem remN (d a b : XReg) : Statement (.remN d a b) := fits rfl (by decide)
theorem min (d a b : XReg) : Statement (.min d a b) := fits rfl (by decide)
theorem max (d a b : XReg) : Statement (.max d a b) := fits rfl (by decide)
theorem minN (d a b : XReg) : Statement (.minN d a b) := fits rfl (by decide)
theorem maxN (d a b : XReg) : Statement (.maxN d a b) := fits rfl (by decide)
theorem andn (d a b : XReg) : Statement (.andn d a b) := fits rfl (by decide)
theorem orn (d a b : XReg) : Statement (.orn d a b) := fits rfl (by decide)
theorem clz (d a : XReg) : Statement (.clz d a) := fits rfl (by decide)
theorem ctz (d a : XReg) : Statement (.ctz d a) := fits rfl (by decide)
theorem cpop (d a : XReg) : Statement (.cpop d a) := fits rfl (by decide)
theorem sext8 (d a : XReg) : Statement (.sext8 d a) := fits rfl (by decide)
theorem sext16 (d a : XReg) : Statement (.sext16 d a) := fits rfl (by decide)
theorem sext32 (d a : XReg) : Statement (.sext32 d a) := fits rfl (by decide)
theorem zext32 (d a : XReg) : Statement (.zext32 d a) := fits rfl (by decide)
theorem addi (d a : XReg) (imm : BitVec 24) : Statement (.addi d a imm) := fits rfl (by decide)
theorem andi (d a : XReg) (imm : BitVec 24) : Statement (.andi d a imm) := fits rfl (by decide)
theorem ori (d a : XReg) (imm : BitVec 24) : Statement (.ori d a imm) := fits rfl (by decide)
theorem xori (d a : XReg) (imm : BitVec 24) : Statement (.xori d a imm) := fits rfl (by decide)
theorem slli (d a : XReg) (imm : BitVec 24) : Statement (.slli d a imm) := fits rfl (by decide)
theorem srli (d a : XReg) (imm : BitVec 24) : Statement (.srli d a imm) := fits rfl (by decide)
theorem srai (d a : XReg) (imm : BitVec 24) : Statement (.srai d a imm) := fits rfl (by decide)
theorem slti (d a : XReg) (imm : BitVec 24) : Statement (.slti d a imm) := fits rfl (by decide)
theorem li (d : XReg) (imm : Word) : Statement (.li d imm) := fits rfl (by decide)
theorem adr (d : XReg) (imm : BitVec 32) : Statement (.adr d imm) := fits rfl (by decide)
theorem jal (l : XReg) (off : BitVec 32) : Statement (.jal l off) := fits rfl (by decide)
theorem jalr (l a : XReg) (off : BitVec 24) : Statement (.jalr l a off) := fits rfl (by decide)
theorem beq (a b : XReg) (off : BitVec 17) : Statement (.beq a b off) := fits rfl (by decide)
theorem bne (a b : XReg) (off : BitVec 17) : Statement (.bne a b off) := fits rfl (by decide)
theorem blt (a b : XReg) (off : BitVec 17) : Statement (.blt a b off) := fits rfl (by decide)
theorem bge (a b : XReg) (off : BitVec 17) : Statement (.bge a b off) := fits rfl (by decide)
theorem bltN (a b : XReg) (off : BitVec 17) : Statement (.bltN a b off) := fits rfl (by decide)
theorem bgeN (a b : XReg) (off : BitVec 17) : Statement (.bgeN a b off) := fits rfl (by decide)
theorem strip (c : XReg) (o : StripOp) : Statement (.strip c o) := fits rfl (by decide)
theorem setvl (d a : XReg) (vt : BitVec 8) : Statement (.setvl d a vt) := fits rfl (by decide)
theorem claim (d req c : XReg) : Statement (.claim d req c) := fits rfl (by decide)
theorem crd (d : XReg) (n : BitVec 12) : Statement (.crd d n) := fits rfl (by decide)
theorem cwr (n : BitVec 12) (a : XReg) : Statement (.cwr n a) := fits rfl (by decide)
theorem trap (code : BitVec 24) : Statement (.trap code) := fits rfl (by decide)
theorem tlbinvPage (a : XReg) : Statement (.tlbinvPage a) := fits rfl (by decide)
theorem tlbinvCtx (a : XReg) : Statement (.tlbinvCtx a) := fits rfl (by decide)
theorem vsave (a : XReg) : Statement (.vsave a) := fits rfl (by decide)
theorem vrest (a : XReg) : Statement (.vrest a) := fits rfl (by decide)
theorem ld (d b : XReg) (off : BitVec 21) (ty : BitVec 4) (acq : Bool) : Statement (.ld d b off ty acq) := fits rfl (by decide)
theorem st (v b : XReg) (off : BitVec 21) (ty : BitVec 4) (rel : Bool) : Statement (.st v b off ty rel) := fits rfl (by decide)
theorem amoSwap (d a b : XReg) (o : AmoOp) : Statement (.amoSwap d a b o) := fits rfl (by decide)
theorem amoAdd (d a b : XReg) (o : AmoOp) : Statement (.amoAdd d a b o) := fits rfl (by decide)
theorem amoAnd (d a b : XReg) (o : AmoOp) : Statement (.amoAnd d a b o) := fits rfl (by decide)
theorem amoOr (d a b : XReg) (o : AmoOp) : Statement (.amoOr d a b o) := fits rfl (by decide)
theorem amoXor (d a b : XReg) (o : AmoOp) : Statement (.amoXor d a b o) := fits rfl (by decide)
theorem amoMin (d a b : XReg) (o : AmoOp) : Statement (.amoMin d a b o) := fits rfl (by decide)
theorem amoMax (d a b : XReg) (o : AmoOp) : Statement (.amoMax d a b o) := fits rfl (by decide)
theorem amoMinN (d a b : XReg) (o : AmoOp) : Statement (.amoMinN d a b o) := fits rfl (by decide)
theorem amoMaxN (d a b : XReg) (o : AmoOp) : Statement (.amoMaxN d a b o) := fits rfl (by decide)
theorem amoCas (d a e n : XReg) (o : AmoOp) : Statement (.amoCas d a e n o) := fits rfl (by decide)
theorem bind (obj base len : XReg) (sc : BitVec 8) : Statement (.bind obj base len sc) := fits rfl (by decide)
theorem unbind (obj : XReg) (sc : BitVec 8) : Statement (.unbind obj sc) := fits rfl (by decide)
theorem acq (d obj min : XReg) (sc : BitVec 8) : Statement (.acq d obj min sc) := fits rfl (by decide)
theorem rel (obj : XReg) (sc : BitVec 8) : Statement (.rel obj sc) := fits rfl (by decide)
theorem fence (sc : BitVec 8) : Statement (.fence sc) := fits rfl (by decide)
theorem fadd (d a b : XReg) (t : BitVec 8) : Statement (.fadd d a b t) := fits rfl (by decide)
theorem fsub (d a b : XReg) (t : BitVec 8) : Statement (.fsub d a b t) := fits rfl (by decide)
theorem fmul (d a b : XReg) (t : BitVec 8) : Statement (.fmul d a b t) := fits rfl (by decide)
theorem fdiv (d a b : XReg) (t : BitVec 8) : Statement (.fdiv d a b t) := fits rfl (by decide)
theorem fsqrt (d a : XReg) (t : BitVec 8) : Statement (.fsqrt d a t) := fits rfl (by decide)
theorem fmin (d a b : XReg) (t : BitVec 8) : Statement (.fmin d a b t) := fits rfl (by decide)
theorem fmax (d a b : XReg) (t : BitVec 8) : Statement (.fmax d a b t) := fits rfl (by decide)
theorem fma (d a b c : XReg) (t : BitVec 8) : Statement (.fma d a b c t) := fits rfl (by decide)
theorem fcvt (d a : XReg) (t : BitVec 8) : Statement (.fcvt d a t) := fits rfl (by decide)
theorem fcmpEq (d a b : XReg) (t : BitVec 8) : Statement (.fcmpEq d a b t) := fits rfl (by decide)
theorem fcmpLt (d a b : XReg) (t : BitVec 8) : Statement (.fcmpLt d a b t) := fits rfl (by decide)
theorem fcmpLe (d a b : XReg) (t : BitVec 8) : Statement (.fcmpLe d a b t) := fits rfl (by decide)
theorem fclass (d a : XReg) (t : BitVec 8) : Statement (.fclass d a t) := fits rfl (by decide)
theorem larm (l t : XReg) : Statement (.larm l t) := fits rfl (by decide)
theorem lwait (d l g : XReg) : Statement (.lwait d l g) := fits rfl (by decide)
theorem lread (d l : XReg) : Statement (.lread d l) := fits rfl (by decide)
theorem linit (l g : XReg) : Statement (.linit l g) := fits rfl (by decide)
theorem cpy (d p l : XReg) : Statement (.cpy d p l) := fits rfl (by decide)
theorem cpy2d (d p l : XReg) : Statement (.cpy2d d p l) := fits rfl (by decide)
theorem sxfer (d p l : XReg) : Statement (.sxfer d p l) := fits rfl (by decide)
theorem mdec (d p l : XReg) : Statement (.mdec d p l) := fits rfl (by decide)
theorem nxfer (d p l : XReg) : Statement (.nxfer d p l) := fits rfl (by decide)
theorem lpost (d p q : XReg) : Statement (.lpost d p q) := fits rfl (by decide)
theorem glaunch (d g : XReg) : Statement (.glaunch d g) := fits rfl (by decide)
theorem gwait (d g gen : XReg) : Statement (.gwait d g gen) := fits rfl (by decide)
theorem getid (d : XReg) : Statement (.getid d) := fits rfl (by decide)
theorem fcfg (a : XReg) : Statement (.fcfg a) := fits rfl (by decide)
theorem frun (d n : XReg) : Statement (.frun d n) := fits rfl (by decide)
theorem sopen (c : BitVec 2) (base len : XReg) (k64 : Bool) : Statement (.sopen c base len k64) := fits rfl (by decide)
theorem smatch (d : XReg) (va vb : VReg) (ca cb : BitVec 2) : Statement (.smatch d va vb ca cb) := fits rfl (by decide)
theorem sseek (d : XReg) (c : BitVec 2) (key : XReg) : Statement (.sseek d c key) := fits rfl (by decide)
theorem sclose (c : BitVec 2) : Statement (.sclose c) := fits rfl (by decide)
theorem vaddInt (o : VOp) : Statement (.vaddInt o) := fits rfl (by decide)
theorem vsubInt (o : VOp) : Statement (.vsubInt o) := fits rfl (by decide)
theorem vmulInt (o : VOp) : Statement (.vmulInt o) := fits rfl (by decide)
theorem vmulh (o : VOp) : Statement (.vmulh o) := fits rfl (by decide)
theorem vmulhN (o : VOp) : Statement (.vmulhN o) := fits rfl (by decide)
theorem vdivInt (o : VOp) : Statement (.vdivInt o) := fits rfl (by decide)
theorem vdivN (o : VOp) : Statement (.vdivN o) := fits rfl (by decide)
theorem vrem (o : VOp) : Statement (.vrem o) := fits rfl (by decide)
theorem vremN (o : VOp) : Statement (.vremN o) := fits rfl (by decide)
theorem vminInt (o : VOp) : Statement (.vminInt o) := fits rfl (by decide)
theorem vminN (o : VOp) : Statement (.vminN o) := fits rfl (by decide)
theorem vmaxInt (o : VOp) : Statement (.vmaxInt o) := fits rfl (by decide)
theorem vmaxN (o : VOp) : Statement (.vmaxN o) := fits rfl (by decide)
theorem vand (o : VOp) : Statement (.vand o) := fits rfl (by decide)
theorem vor (o : VOp) : Statement (.vor o) := fits rfl (by decide)
theorem vxor (o : VOp) : Statement (.vxor o) := fits rfl (by decide)
theorem vsll (o : VOp) : Statement (.vsll o) := fits rfl (by decide)
theorem vsrl (o : VOp) : Statement (.vsrl o) := fits rfl (by decide)
theorem vsra (o : VOp) : Statement (.vsra o) := fits rfl (by decide)
theorem vaddsat (o : VOp) : Statement (.vaddsat o) := fits rfl (by decide)
theorem vaddsatN (o : VOp) : Statement (.vaddsatN o) := fits rfl (by decide)
theorem vsubsat (o : VOp) : Statement (.vsubsat o) := fits rfl (by decide)
theorem vsubsatN (o : VOp) : Statement (.vsubsatN o) := fits rfl (by decide)
theorem vabsInt (o : VOp) : Statement (.vabsInt o) := fits rfl (by decide)
theorem vnegInt (o : VOp) : Statement (.vnegInt o) := fits rfl (by decide)
theorem vmacc (o : VOp) : Statement (.vmacc o) := fits rfl (by decide)
theorem vclz (o : VOp) : Statement (.vclz o) := fits rfl (by decide)
theorem vcpop (o : VOp) : Statement (.vcpop o) := fits rfl (by decide)
theorem vaddFp (o : VOp) : Statement (.vaddFp o) := fits rfl (by decide)
theorem vsubFp (o : VOp) : Statement (.vsubFp o) := fits rfl (by decide)
theorem vmulFp (o : VOp) : Statement (.vmulFp o) := fits rfl (by decide)
theorem vdivFp (o : VOp) : Statement (.vdivFp o) := fits rfl (by decide)
theorem vsqrt (o : VOp) : Statement (.vsqrt o) := fits rfl (by decide)
theorem vminFp (o : VOp) : Statement (.vminFp o) := fits rfl (by decide)
theorem vmaxFp (o : VOp) : Statement (.vmaxFp o) := fits rfl (by decide)
theorem vfma (o : VOp) : Statement (.vfma o) := fits rfl (by decide)
theorem vfms (o : VOp) : Statement (.vfms o) := fits rfl (by decide)
theorem vfnma (o : VOp) : Statement (.vfnma o) := fits rfl (by decide)
theorem vrsqrte (o : VOp) : Statement (.vrsqrte o) := fits rfl (by decide)
theorem vrcpe (o : VOp) : Statement (.vrcpe o) := fits rfl (by decide)
theorem vabsFp (o : VOp) : Statement (.vabsFp o) := fits rfl (by decide)
theorem vnegFp (o : VOp) : Statement (.vnegFp o) := fits rfl (by decide)
theorem vsgnj (o : VOp) : Statement (.vsgnj o) := fits rfl (by decide)
theorem vclass (o : VOp) : Statement (.vclass o) := fits rfl (by decide)
theorem vround (o : VOp) : Statement (.vround o) := fits rfl (by decide)
theorem veq (o : VOp) : Statement (.veq o) := fits rfl (by decide)
theorem vne (o : VOp) : Statement (.vne o) := fits rfl (by decide)
theorem vlt (o : VOp) : Statement (.vlt o) := fits rfl (by decide)
theorem vle (o : VOp) : Statement (.vle o) := fits rfl (by decide)
theorem vgt (o : VOp) : Statement (.vgt o) := fits rfl (by decide)
theorem vge (o : VOp) : Statement (.vge o) := fits rfl (by decide)
theorem vltN (o : VOp) : Statement (.vltN o) := fits rfl (by decide)
theorem vleN (o : VOp) : Statement (.vleN o) := fits rfl (by decide)
theorem vgtN (o : VOp) : Statement (.vgtN o) := fits rfl (by decide)
theorem vgeN (o : VOp) : Statement (.vgeN o) := fits rfl (by decide)
theorem vnz (o : VOp) : Statement (.vnz o) := fits rfl (by decide)
theorem vnan (o : VOp) : Statement (.vnan o) := fits rfl (by decide)
theorem vcvt (o : VOp) : Statement (.vcvt o) := fits rfl (by decide)
theorem vcvtSat (o : VOp) : Statement (.vcvtSat o) := fits rfl (by decide)
theorem vretag (o : VOp) : Statement (.vretag o) := fits rfl (by decide)
theorem vquant (o : VOp) : Statement (.vquant o) := fits rfl (by decide)
theorem vredsumOrd (o : VOp) : Statement (.vredsumOrd o) := fits rfl (by decide)
theorem vredsumTree (o : VOp) : Statement (.vredsumTree o) := fits rfl (by decide)
theorem vredmax (o : VOp) : Statement (.vredmax o) := fits rfl (by decide)
theorem vredmin (o : VOp) : Statement (.vredmin o) := fits rfl (by decide)
theorem vredand (o : VOp) : Statement (.vredand o) := fits rfl (by decide)
theorem vredor (o : VOp) : Statement (.vredor o) := fits rfl (by decide)
theorem vredxor (o : VOp) : Statement (.vredxor o) := fits rfl (by decide)
theorem vslideup (o : VOp) : Statement (.vslideup o) := fits rfl (by decide)
theorem vslidedown (o : VOp) : Statement (.vslidedown o) := fits rfl (by decide)
theorem vslide1up (o : VOp) : Statement (.vslide1up o) := fits rfl (by decide)
theorem vslide1down (o : VOp) : Statement (.vslide1down o) := fits rfl (by decide)
theorem vgather (o : VOp) : Statement (.vgather o) := fits rfl (by decide)
theorem vcompress (o : VOp) : Statement (.vcompress o) := fits rfl (by decide)
theorem vexpand (o : VOp) : Statement (.vexpand o) := fits rfl (by decide)
theorem vrev (o : VOp) : Statement (.vrev o) := fits rfl (by decide)
theorem kand (o : VOp) : Statement (.kand o) := fits rfl (by decide)
theorem kor (o : VOp) : Statement (.kor o) := fits rfl (by decide)
theorem kxor (o : VOp) : Statement (.kxor o) := fits rfl (by decide)
theorem knot (o : VOp) : Statement (.knot o) := fits rfl (by decide)
theorem kandn (o : VOp) : Statement (.kandn o) := fits rfl (by decide)
theorem kbrkb (o : VOp) : Statement (.kbrkb o) := fits rfl (by decide)
theorem kbrka (o : VOp) : Statement (.kbrka o) := fits rfl (by decide)
theorem kbrkf (o : VOp) : Statement (.kbrkf o) := fits rfl (by decide)
theorem kfirst (o : VOp) : Statement (.kfirst o) := fits rfl (by decide)
theorem kcount (o : VOp) : Statement (.kcount o) := fits rfl (by decide)
theorem kiota (o : VOp) : Statement (.kiota o) := fits rfl (by decide)
theorem vid (o : VOp) : Statement (.vid o) := fits rfl (by decide)
theorem vmv (o : VOp) : Statement (.vmv o) := fits rfl (by decide)
theorem vsplat (o : VOp) : Statement (.vsplat o) := fits rfl (by decide)
theorem vsplati (o : VOp) : Statement (.vsplati o) := fits rfl (by decide)
theorem vmvxs (o : VOp) : Statement (.vmvxs o) := fits rfl (by decide)
theorem vmvsx (o : VOp) : Statement (.vmvsx o) := fits rfl (by decide)
theorem vmerge (o : VOp) : Statement (.vmerge o) := fits rfl (by decide)
theorem vextract (o : VOp) : Statement (.vextract o) := fits rfl (by decide)
theorem vladd (o : VOp) : Statement (.vladd o) := fits rfl (by decide)
theorem vlsub (o : VOp) : Statement (.vlsub o) := fits rfl (by decide)
theorem vlpow (o : VOp) : Statement (.vlpow o) := fits rfl (by decide)
theorem vlrecip (o : VOp) : Statement (.vlrecip o) := fits rfl (by decide)
theorem vld (o : VMOp) : Statement (.vld o) := fits rfl (by decide)
theorem vlds (o : VMOp) : Statement (.vlds o) := fits rfl (by decide)
theorem vldx (o : VMOp) : Statement (.vldx o) := fits rfl (by decide)
theorem vldxo (o : VMOp) : Statement (.vldxo o) := fits rfl (by decide)
theorem vldc (o : VMOp) : Statement (.vldc o) := fits rfl (by decide)
theorem vst (o : VMOp) : Statement (.vst o) := fits rfl (by decide)
theorem vsts (o : VMOp) : Statement (.vsts o) := fits rfl (by decide)
theorem vstx (o : VMOp) : Statement (.vstx o) := fits rfl (by decide)
theorem vstxo (o : VMOp) : Statement (.vstxo o) := fits rfl (by decide)
theorem vstc (o : VMOp) : Statement (.vstc o) := fits rfl (by decide)
theorem vamoAdd (mode : BitVec 3) (o : VMOp) : Statement (.vamoAdd mode o) := fits rfl (by decide)
theorem vamoMin (mode : BitVec 3) (o : VMOp) : Statement (.vamoMin mode o) := fits rfl (by decide)
theorem vamoMax (mode : BitVec 3) (o : VMOp) : Statement (.vamoMax mode o) := fits rfl (by decide)
theorem vamoMinN (mode : BitVec 3) (o : VMOp) : Statement (.vamoMinN mode o) := fits rfl (by decide)
theorem vamoMaxN (mode : BitVec 3) (o : VMOp) : Statement (.vamoMaxN mode o) := fits rfl (by decide)
theorem vamoAnd (mode : BitVec 3) (o : VMOp) : Statement (.vamoAnd mode o) := fits rfl (by decide)
theorem vamoOr (mode : BitVec 3) (o : VMOp) : Statement (.vamoOr mode o) := fits rfl (by decide)
theorem vamoXor (mode : BitVec 3) (o : VMOp) : Statement (.vamoXor mode o) := fits rfl (by decide)
theorem vamoSwap (mode : BitVec 3) (o : VMOp) : Statement (.vamoSwap mode o) := fits rfl (by decide)
theorem vamoFadd (mode : BitVec 3) (o : VMOp) : Statement (.vamoFadd mode o) := fits rfl (by decide)
theorem tmma (o : MXOp) : Statement (.tmma o) := fits rfl (by decide)
theorem tmms (o : MXOp) : Statement (.tmms o) := fits rfl (by decide)
theorem vopa (o : VOp) : Statement (.vopa o) := fits rfl (by decide)
theorem tzero (z : BitVec 3) : Statement (.tzero z) := fits rfl (by decide)
theorem tmovr (vd : VReg) (z : BitVec 3) (r : XReg) : Statement (.tmovr vd z r) := fits rfl (by decide)
theorem tmvr (z : BitVec 3) (vs : VReg) (r : XReg) : Statement (.tmvr z vs r) := fits rfl (by decide)
theorem tld (o : TMOp) : Statement (.tld o) := fits rfl (by decide)
theorem tst (o : TMOp) : Statement (.tst o) := fits rfl (by decide)
theorem reservedEncoding (head : BitVec 16) (tail : BitVec 64) : Statement (.reservedEncoding head tail) := fits_none rfl
theorem elementFire (tid seq elem : Nat) (u : Upset) : Statement (.elementFire tid seq elem u) := fits_none rfl
theorem tileStep (tid seq : Nat) (u : Upset) : Statement (.tileStep tid seq u) := fits_none rfl
theorem writeAppliedAtHome (src : QueueName) (k : Nat) : Statement (.writeAppliedAtHome src k) := fits_none rfl
theorem transferComplete (xfer : Nat) (inp : EngineInput) : Statement (.transferComplete xfer inp) := fits_none rfl
theorem graphInstanceStart (gen node : Nat) : Statement (.graphInstanceStart gen node) := fits_none rfl
theorem graphGenerationFinish (gen : Nat) : Statement (.graphGenerationFinish gen) := fits_none rfl
theorem ganderCheck (tid seq elem : Nat) (mismatch : Bool) : Statement (.ganderCheck tid seq elem mismatch) := fits_none rfl
theorem hallQuiesce (hall : Nat) : Statement (.hallQuiesce hall) := fits_none rfl
theorem ztileDrop (tile z : Nat) : Statement (.ztileDrop tile z) := fits_none rfl
theorem preempt (tid : Nat) : Statement (.preempt tid) := fits_none rfl
theorem preemptTimeout (tid : Nat) : Statement (.preemptTimeout tid) := fits_none rfl
theorem threadResume (tid : Nat) : Statement (.threadResume tid) := fits_none rfl
theorem copyDrainTimeout (xfer bytes : Nat) : Statement (.copyDrainTimeout xfer bytes) := fits_none rfl
theorem landingArrival (pa units : Nat) : Statement (.landingArrival pa units) := fits_none rfl
theorem fabricNodeFire (hall node : Nat) : Statement (.fabricNodeFire hall node) := fits_none rfl
theorem collectiveCombine (hall bnd : Nat) (vals : List (BitVec 32)) : Statement (.collectiveCombine hall bnd vals) := fits_none rfl
theorem collectiveTimeout (hall bnd : Nat) : Statement (.collectiveTimeout hall bnd) := fits_none rfl
theorem trainReceive (t : Train) : Statement (.trainReceive t) := fits_none rfl
theorem ackTagExpiry (src : BitVec 14) (tag : Nat) : Statement (.ackTagExpiry src tag) := fits_none rfl
theorem idempotentRetransmit (tid : Nat) : Statement (.idempotentRetransmit tid) := fits_none rfl
theorem idempotentTimeout (tid : Nat) : Statement (.idempotentTimeout tid) := fits_none rfl
theorem nonidempotentRetransmit (ctx : Nat) (serial : BitVec 32) : Statement (.nonidempotentRetransmit ctx serial) := fits_none rfl
theorem nonidempotentTimeout (ctx : Nat) (serial : BitVec 32) : Statement (.nonidempotentTimeout ctx serial) := fits_none rfl
theorem ownerRequest (dev : BitVec 14) (r : Request) : Statement (.ownerRequest dev r) := fits_none rfl
theorem ownerAckPacket (dev : BitVec 14) (rvid : BitVec 24) (wm : BitVec 32) : Statement (.ownerAckPacket dev rvid wm) := fits_none rfl
theorem partialTrainDiscard (rvid : BitVec 24) (serial : BitVec 32) : Statement (.partialTrainDiscard rvid serial) := fits_none rfl
theorem remoteReply (ctx : Nat) (serial : BitVec 32) (r : Reply) : Statement (.remoteReply ctx serial r) := fits_none rfl
theorem watermarkReport (ctx : Nat) (dev : BitVec 14) : Statement (.watermarkReport ctx dev) := fits_none rfl
theorem rvidSilenceTimeout (dev : BitVec 14) (rvid : BitVec 24) : Statement (.rvidSilenceTimeout dev rvid) := fits_none rfl
theorem quarantineEnd (dev : BitVec 14) (rvid : BitVec 24) : Statement (.quarantineEnd dev rvid) := fits_none rfl
theorem rvidRelease (dev : BitVec 14) (rvid : BitVec 24) : Statement (.rvidRelease dev rvid) := fits_none rfl
theorem warmReset (dev : BitVec 14) : Statement (.warmReset dev) := fits_none rfl
theorem coldRestart (dev : BitVec 14) (keepHbm : Bool) : Statement (.coldRestart dev keepHbm) := fits_none rfl
theorem liveMigration (ctxs : List Nat) (dev : BitVec 14) : Statement (.liveMigration ctxs dev) := fits_none rfl
theorem netRdmaWriteIn (m : NetMsg) : Statement (.netRdmaWriteIn m) := fits_none rfl
theorem netRdmaReadIn (m : NetMsg) : Statement (.netRdmaReadIn m) := fits_none rfl
theorem netSendIn (m : NetMsg) : Statement (.netSendIn m) := fits_none rfl
theorem netAtomicIn (m : NetMsg) : Statement (.netAtomicIn m) := fits_none rfl
theorem throttleUpdate (watts tj : Nat) : Statement (.throttleUpdate watts tj) := fits_none rfl
theorem updreqWrite (v : Word) : Statement (.updreqWrite v) := fits_none rfl
theorem registerWrite (pa : Nat) (v : Word) : Statement (.registerWrite pa v) := fits_none rfl
theorem checkpointRestore (n : Nat) : Statement (.checkpointRestore n) := fits_none rfl
theorem negotiateAlgorithms (sm2 sm3 : Bool) : Statement (.negotiateAlgorithms sm2 sm3) := fits_none rfl
theorem getCertificate (slot : Nat) : Statement (.getCertificate slot) := fits_none rfl
theorem challenge (slot : Nat) (nonce : List Byte) : Statement (.challenge slot nonce) := fits_none rfl
theorem getMeasurements (index : Nat) : Statement (.getMeasurements index) := fits_none rfl
theorem spdmUnsupported (code : Byte) : Statement (.spdmUnsupported code) := fits_none rfl
theorem remoteAccessIn (m : AccessIn) : Statement (.remoteAccessIn m) := fits_none rfl
theorem linkCrcRetry (port : Nat) (past : Bool) : Statement (.linkCrcRetry port past) := fits_none rfl
theorem galleryAllocation (ctx hall tile off len : Nat) : Statement (.galleryAllocation ctx hall tile off len) := fits_none rfl
theorem nop : Statement .nop := fun c h => by cases h; decide
theorem yield : Statement .yield := fun c h => by cases h; decide
theorem exit : Statement .exit := fun c h => by cases h; decide
theorem eret : Statement .eret := fun c h => by cases h; decide
theorem wfi : Statement .wfi := fun c h => by cases h; decide
theorem fenceI : Statement .fenceI := fun c h => by cases h; decide
theorem twait : Statement .twait := fun c h => by cases h; decide
theorem fwait : Statement .fwait := fun c h => by cases h; decide
theorem tlbinvAll : Statement .tlbinvAll := fits rfl (by decide)
theorem fcfgRelease : Statement .fcfgRelease := fits rfl (by decide)
theorem threadStart : Statement .threadStart := fits_none rfl
theorem thermalShutdown : Statement .thermalShutdown := fits_none rfl
theorem boot : Statement .boot := fits_none rfl
theorem bootComplete : Statement .bootComplete := fits_none rfl
theorem updreqRead : Statement .updreqRead := fits_none rfl
theorem hbeat : Statement .hbeat := fits_none rfl
theorem updateHeartbeatTimeout : Statement .updateHeartbeatTimeout := fits_none rfl
theorem checkpoint : Statement .checkpoint := fits_none rfl
theorem getVersion : Statement .getVersion := fits_none rfl
theorem getCapabilities : Statement .getCapabilities := fits_none rfl
theorem getDigests : Statement .getDigests := fits_none rfl
theorem powerFailure : Statement .powerFailure := fits_none rfl

end Sys2Proof.Laws.EncodingFits
end

