-- ==== Sys2Proof/Tests/Slice0.lean ====
section
/-! SUPPORT. Tests and witnesses: ill-formed terms, words written out from the encodings of spec/, single steps, and a state for the
hypotheses of every statement. -/

namespace Sys2Proof.Tests

set_option Elab.async false

open Sys2Proof Sys2Proof.Machine Sys2Proof.Safety

/-! ### Ill-formed terms: each check of Machine/Fields.lean refuses one -/

/-- A good format V operand list: v2, v1, v3 of i32. -/
def vo : VOp := { vd := 2, vs1 := 1, src2 := .v 3, vs3 := 0, k := 0, zm := false, et := 2, rm := 0, opt := 0 }

/-- A good format VM operand list: v4 of f32 at x5. -/
def mo : VMOp := { v := 4, base := 5, idx := 0, iw := 0, k := 0, zm := false, et := 6, ff := false, nt := false, r := false, aux := 0, imm := 0 }

/-- A good format TM operand list: q0 of f16 at x5. -/
def tm : TMOp := { xd := 0, imm := 0, xcols := 0, xrows := 0, stride := 13, base := 5, sl := false, ff := false, mtype := 4, tile := 12 }

/-- A good `strip` operand list with two pointers. -/
def sp : StripOp := { off := 0, y := false, p1 := 4, p2 := 5, p3 := 0, p4 := 0, e1 := 0, e2 := 1, e3 := 0, e4 := 0 }

theorem test_wellFormed_good :
    check (.vaddInt vo) = none ∧ check (.vld mo) = none ∧ check (.vst mo) = none ∧ check (.tld tm) = none ∧ check (.strip 6 sp) = none := by
  decide

theorem test_illFormed_V :
    check (.vaddInt { vo with et := 4 }) = some .elementType ∧ check (.vabsInt { vo with src2 := .imm 1 }) = some .noImmediate ∧
    check (.kand { vo with et := 0, vd := 1, src2 := .v 9 }) = some .maskRegister ∧ check (.vabsInt vo) = some .secondSource ∧
    check (.vaddInt { vo with vs3 := 1 }) = some .reservedField ∧ check (.vid { vo with src2 := .v 0 }) = some .reservedField ∧
    check (.kand { vo with et := 0, vd := 1, vs1 := 8, src2 := .v 1 }) = some .maskRegister ∧
    check (.vaddFp { vo with et := 6, rm := 3 }) = some .rounding ∧ check (.vaddInt { vo with rm := 1 }) = some .rounding := by decide

theorem test_illFormed_V_masks :
    check (.vaddInt { vo with zm := true }) = some .zeroUnderK0 ∧ check (.vredmax { vo with k := 1, zm := true }) = some .maskForbidden ∧
    check (.vmvsx { vo with vs1 := 0, src2 := .x 1, k := 1 }) = some .maskForbidden ∧ check (.veq { vo with vd := 0 }) = some .maskRegister ∧
    check (.vopa { vo with et := 9, vd := 8 }) = some .reservedField ∧ check (.vaddInt { vo with opt := 1 }) = some .options ∧
    check (.vcvt { vo with et := 6, src2 := .v 0, opt := 2 }) = some .options ∧ check (.vredand { vo with opt := 2 }) = some .options ∧
    check (.vaddInt { vo with et := 3 }) = some .registerPair ∧ check (.vgather { vo with src2 := .v 2 }) = some .gatherOverlap := by decide

theorem test_illFormed_VM :
    check (.vld { mo with et := 13 }) = some .elementType ∧ check (.vld { mo with r := true }) = some .reservedField ∧
    check (.vld { mo with idx := 1 }) = some .reservedField ∧ check (.vlds { mo with iw := 1 }) = some .reservedField ∧
    check (.vldx { mo with idx := 32 }) = some .reservedField ∧ check (.vst { mo with ff := true }) = some .reservedField ∧
    check (.vldc { mo with ff := true }) = some .reservedField ∧ check (.vld { mo with nt := true }) = some .reservedField ∧
    check (.vst { mo with aux := 1 }) = some .reservedField ∧ check (.vld { mo with zm := true }) = some .zeroUnderK0 ∧
    check (.vlds { mo with et := 12 }) = some .elementType ∧ check (.vld { mo with et := 12, k := 1 }) = some .maskForbidden ∧
    check (.vld { mo with et := 7, v := 5 }) = some .registerPair ∧ check (.vldx { mo with idx := 7, iw := 1 }) = some .registerPair ∧
    check (.vldx { mo with idx := 4 }) = some .gatherOverlap := by decide

theorem test_illFormed_vamo :
    check (.vamoAdd 1 { mo with et := 2, idx := 8 }) = some .unassigned ∧ check (.vamoAdd 2 { mo with idx := 8 }) = some .elementType ∧
    check (.vamoFadd 2 { mo with et := 2, idx := 8 }) = some .elementType ∧ check (.vamoAdd 2 { mo with et := 2, iw := 2 }) = some .reservedField ∧
    check (.vamoAdd 2 { mo with et := 2, nt := true }) = some .reservedField ∧ check (.vamoAdd 2 { mo with et := 2, aux := 1 }) = some .reservedField ∧
    check (.vamoAdd 2 { mo with et := 2, r := true, aux := 32 }) = some .reservedField ∧
    check (.vamoAdd 2 { mo with et := 2, zm := true }) = some .zeroUnderK0 ∧ check (.vamoAdd 2 { mo with et := 3, v := 5 }) = some .registerPair ∧
    check (.vamoAdd 2 { mo with et := 2, iw := 1, idx := 9 }) = some .registerPair ∧
    check (.vamoAdd 2 { mo with et := 2, r := true, idx := 4 }) = some .gatherOverlap := by decide

theorem test_illFormed_tile :
    check (.tld { tm with tile := 14 }) = some .tileOperand ∧ check (.tld { tm with mtype := 2 }) = some .elementType ∧
    check (.tld { tm with xrows := 1 }) = some .reservedField ∧ check (.tld { tm with xd := 1 }) = some .reservedField ∧
    check (.tld { tm with sl := true }) = some .tileOperand ∧ check (.tst tm) = some .tileOperand ∧
    check (.tst { tm with tile := 0, mtype := 10 }) = some .elementType ∧ check (.tst { tm with tile := 0, sl := true }) = some .reservedField := by
  decide

theorem test_illFormed_scalar :
    check (.strip 0 sp) = some .reservedField ∧ check (.strip 6 { sp with p1 := 0 }) = some .sameRegister ∧
    check (.strip 6 { sp with p2 := 0, p3 := 7 }) = some .sameRegister ∧ check (.strip 6 { sp with p4 := 7 }) = some .sameRegister ∧
    check (.strip 4 sp) = some .sameRegister ∧ check (.strip 6 { sp with p2 := 4 }) = some .sameRegister ∧
    check (.strip 6 { sp with p3 := 5 }) = some .sameRegister ∧ check (.strip 6 { sp with p3 := 7, p4 := 7 }) = some .sameRegister ∧
    check (.strip 6 { sp with e3 := 1 }) = some .reservedField ∧ check (.setvl 1 2 0x0D) = some .vtype ∧ check (.setvl 1 2 0x42) = some .vtype ∧
    check (.claim 3 3 4) = some .sameRegister ∧ check (.crd 1 0x009) = some .controlRegister ∧ check (.cwr 0x10C 1) = some .controlRegister ∧
    check (.ld 1 2 0 7 false) = some .unassigned ∧ check (.st 1 2 0 4 false) = some .unassigned ∧ check (.bind 1 2 3 0) = some .scope ∧
    check (.fence 5) = some .scope ∧ check (.fadd 1 2 3 2) = some .options ∧ check (.fcvt 1 2 0x88) = some .options ∧
    check (.amoAdd 1 2 3 { rel := false, acq := false, w := 1 }) = some .options ∧ check (.fcfg 0) = some .reservedField := by decide

/-! ### Words written out from the encodings of spec/ -/

/-- The instruction that one head and one tail decode to. -/
def dec (head : BitVec 16) (tail : BitVec 64) : Option Instr := (decode { head := head, tail := tail }).toOption

/-- R101: format A. -/
theorem test_decode_misc :
    dec 0x0000 0 = some .nop ∧ dec 0x0001 0 = some .yield ∧ dec 0x0002 0 = some .exit ∧ dec 0x0003 0 = some .eret ∧ dec 0x0004 0 = some .wfi ∧
    dec 0x0005 0 = some .fenceI ∧ dec 0x0006 0 = some .twait ∧ dec 0x0007 0 = some .fwait ∧ dec 0x0008 0 = none ∧ dec 0xFE05 0 = some (.udf 0 5) := by
  decide

/-- R56, R79, R80: `srl x23, x23, x31`, `addi x5, x3, 0`, `sub x1, x2, x3`, `remn x1, x2, x3`, `clz x4, x5`, `srai x1, x2, 3`. -/
theorem test_decode_integer :
    dec 0x0257 0x67D7 = some (.srl 23 23 31) ∧ dec 0x0685 0x00000003 = some (.addi 5 3 0) ∧ dec 0x0241 0x10C2 = some (.sub 1 2 3) ∧
    dec 0x0441 0x00C2 = some (.remN 1 2 3) ∧ dec 0x0444 0x7005 = some (.clz 4 5) ∧ dec 0x0881 0x00000382 = some (.srai 1 2 3) ∧
    dec 0x0B07 0x0123456789ABCDEF = some (.li 7 0x0123456789ABCDEF) ∧ dec 0x0C83 0xFFFFFFFE = some (.adr 3 0xFFFFFFFE) := by decide

/-- R83–R86, R143, R145: the worked examples of spec/08 among them. -/
theorem test_decode_control :
    dec 0x0E81 0x00000010 = some (.jal 1 16) ∧ dec 0x1080 0x00000001 = some (.jalr 0 1 0) ∧ dec 0x1280 0x00011083 = some (.bne 3 2 2) ∧
    dec 0x1687 0x00002406 = some (.setvl 7 6 0x24) ∧
    dec 0x1506 0xFFE2000004000144 = some (.strip 6 { off := 0xFFE2, y := false, p1 := 4, p2 := 5, p3 := 0, p4 := 0, e1 := 0, e2 := 1, e3 := 0, e4 := 0 }) ∧
    dec 0x1848 0x0254 = some (.claim 8 9 20) ∧ dec 0x1A80 0x00000445 = some (.cwr 4 5) ∧ dec 0x1A85 0x00000400 = some (.crd 5 4) := by decide

/-- R88–R100: a load, a store, an atomic and a floating-point operation, from the fields of formats LS and C. -/
theorem test_decode_scalar_memory :
    dec 0x2085 0x00004586 = some (.ld 5 6 8 6 true) ∧ dec 0x2285 0x000040C6 = some (.st 5 6 8 3 false) ∧
    dec 0x2485 0x020400C2 = some (.amoAdd 5 2 3 { rel := false, acq := false, w := 2 }) := by decide

/-- R151, R152, R213, R215–R218: the worked examples of spec/08 and spec/12. -/
theorem test_decode_sync :
    dec 0x2A40 0x02CA = some (.larm 10 11) ∧ dec 0x2A4C 0x134A = some (.lwait 12 10 13) ∧ dec 0x2A4E 0x200A = some (.lread 14 10) ∧
    dec 0x2A40 0x300A = some (.linit 10 0) ∧ dec 0x2680 0x01100000 = some (.fence 1) ∧ dec 0x2680 0x03018257 = some (.bind 23 9 24 3) ∧
    dec 0x2680 0x03040017 = some (.unbind 23 3) ∧ dec 0x2696 0x03080554 = some (.acq 22 20 21 3) ∧ dec 0x2680 0x030C0017 = some (.rel 23 3) := by
  decide

/-- R111, R112, R118, R123: the worked examples of spec/06. -/
theorem test_decode_vector :
    dec 0x60E6 0x000019203122 = some (.vmacc { vo with vd := 6, vs1 := 2, src2 := .x 9, vs3 := 6 }) ∧
    dec 0x60C3 0x00C834000001 = some (.vaddsatN { vo with vd := 3, vs1 := 1, src2 := .imm 200, et := 0 }) ∧
    dec 0x62C7 0x000007621841 = some (.vfma { vo with vd := 7, vs1 := 1, src2 := .v 2, vs3 := 3, k := 2, et := 6 }) ∧
    dec 0x62C2 0x000043400083 = some (.vdivFp { vo with vd := 2, vs1 := 3, src2 := .v 4, et := 4, rm := 1 }) ∧
    dec 0x66C2 0x000000900001 = some (.vcvt { vo with vd := 2, src2 := .v 0, et := 9 }) ∧
    dec 0x66C3 0x000301100002 = some (.vcvtSat { vo with vd := 3, vs1 := 2, src2 := .v 0, et := 1, opt := 3 }) ∧
    dec 0x66C5 0x000002100005 = some (.vretag { vo with vd := 5, vs1 := 5, src2 := .v 0, et := 1 }) ∧
    dec 0x66C9 0x000003C00008 = some (.vquant { vo with vd := 9, vs1 := 8, src2 := .v 0, et := 12 }) ∧
    dec 0x70C3 0x000000900042 = some (.vladd { vo with vd := 3, vs1 := 2, src2 := .v 2, et := 9 }) ∧
    dec 0x70E4 0x000002900183 = some (.vlpow { vo with vd := 4, vs1 := 3, src2 := .x 12, et := 9 }) ∧
    dec 0x70C4 0x000003900003 = some (.vlrecip { vo with vd := 4, vs1 := 3, src2 := .v 0, et := 9 }) := by decide

/-- R128–R138: the worked examples of spec/07. -/
theorem test_decode_masks :
    dec 0x64C1 0x000022600001 = some (.vlt { vo with vd := 1, src2 := .imm 0, et := 6 }) ∧
    dec 0x6CC2 0x000005000001 = some (.kbrkb { vo with vd := 2, src2 := .v 0, et := 0 }) ∧
    dec 0x68F1 0x000100620221 = some (.vredsumOrd { vo with vd := 17, src2 := .x 17, k := 2, et := 6, opt := 1 }) ∧
    dec 0x6CCE 0x000008000001 = some (.kfirst { vo with vd := 14, src2 := .v 0, et := 0 }) ∧
    dec 0x6EC7 0x000003200004 = some (.vmvxs { vo with vd := 7, vs1 := 4, src2 := .v 0, et := 2 }) ∧
    dec 0x6EC2 0x3E0002400000 = some (.vsplati { vo with vs1 := 0, src2 := .v 0, et := 4, opt := 0x3E00 }) ∧
    dec 0x6EC4 0x000005630041 = some (.vmerge { vo with vd := 4, src2 := .v 2, k := 3, et := 6 }) := by decide

/-- R156–R167: the worked examples of spec/09. -/
theorem test_decode_vector_memory :
    dec 0xA102 0x00000400001601C4 = some (.vlds { mo with v := 2, base := 4, idx := 7, imm := 16 }) ∧
    dec 0xA104 0x0000000000A60185 = some (.vldx { mo with idx := 6, ff := true }) ∧
    dec 0xA105 0x0000000000460183 = some (.vldc { mo with v := 5, base := 3, idx := 6 }) ∧
    dec 0xA304 0x0000000901040005 = some (.vst { mo with et := 4, nt := true, aux := 9 }) ∧
    dec 0xA507 0x0000000902220214 = some (.vamoAdd 2 { mo with v := 7, base := 20, idx := 8, et := 2, r := true, aux := 9 }) ∧
    dec 0xA503 0x0000000090360214 = some (.vamoFadd 3 { mo with v := 3, base := 20, idx := 8 }) := by decide

/-- R191–R199: the worked examples of spec/10. -/
theorem test_decode_tile :
    dec 0xC100 0x0000000000061652 = some (.tmma { zi := false, w := 0, z := 0, sub := false, xdep := 12, xcol := 11, xrow := 10, sl := false, lf := true, q := false }) ∧
    dec 0xC115 0x0000000000640E01 = some (.tmms { zi := false, w := 2, z := 5, sub := true, xdep := 8, xcol := 7, xrow := 0, sl := false, lf := false, q := true }) ∧
    dec 0xC680 0x03000000 = some (.tzero 3) ∧ dec 0xC684 0x02040007 = some (.tmovr 4 2 7) ∧ dec 0xC680 0x02080107 = some (.tmvr 2 4 7) ∧
    dec 0xC300 0x00000000000D144C = some (.tld tm) ∧ dec 0xC300 0x00000000000E2048 = some (.tld { tm with base := 8, stride := 14, tile := 8 }) ∧
    dec 0xC500 0x00000000000F2460 = some (.tst { tm with base := 9, stride := 15, mtype := 6, tile := 0 }) := by decide

/-- R171, R57: a copy; a reserved `tl`; a reserved major; the table's numbering puts the head in the low bits. -/
theorem test_decode_other :
    dec 0x2C81 0x000000C2 = some (.cpy 1 2 3) ∧ dec 0x0341 0 = none ∧ dec 0x1E00 0 = none ∧
    decodeTableWord 32 0x67D70257 = some (.srl 23 23 31) := by decide

/-! ### Single steps on small states -/

/-- The state that an outcome leads to. -/
def next? : Host.Outcome State Fault Refusal → Option State
  | .next s => some s
  | _ => none

/-- What `f` sees after an instruction. -/
def sees {α : Type} (i : Instr) (s : State) (f : State → α) : Option α := (next? (exec i s)).map f

/-- Core 0 at M, past boot. -/
def core : State := { State.reset with agenda := [] }

/-- A tile thread at its start, at U, with 64 elements granted; elements fire at once. -/
def tile : State := State.reset.placeInstr []

/-- The same thread at S, where elements fire by events. -/
def slow : State := { tile with policy := { fire := false, apply := false, remote := false, whole := false, order := false }, th := { tile.th with pl := 1 } }

/-- Registers set by number. -/
def setXs (s : State) (l : List (Nat × Word)) : State := l.foldl (fun t p => t.setX (BitVec.ofNat 6 p.1) p.2) s

/-- Bytes of HBM set. -/
def withBytes (s : State) (pa : Nat) (l : List Byte) : State := { s with mem := memWrite s.mem pa l }

/-- R79: sums wrap; a source that is the destination is read first; x0 stays 0. -/
theorem test_add : sees (.add 2 2 3) (setXs core [(2, -1), (3, 3)]) (·.getX 2) = some 2 ∧ sees (.add 0 2 3) (setXs core [(2, 1)]) (·.getX 0) = some 0 := by
  decide +kernel

/-- R79, R19: the quotient truncates, the remainder has the sign of the dividend; a zero divisor gives all ones and the dividend; the
least number by −1 stays. -/
theorem test_div_rem :
    sees (.div 1 2 3) (setXs core [(2, -7), (3, 2)]) (·.getX 1) = some (-3) ∧ sees (.rem 1 2 3) (setXs core [(2, -7), (3, 2)]) (·.getX 1) = some (-1) ∧
    sees (.divN 1 2 3) (setXs core [(2, 7)]) (·.getX 1) = some (-1) ∧ sees (.remN 1 2 3) (setXs core [(2, 7)]) (·.getX 1) = some 7 ∧
    sees (.div 1 2 3) (setXs core [(2, 0x8000000000000000), (3, -1)]) (·.getX 1) = some 0x8000000000000000 := by decide +kernel

/-- R79: the high half, signed and unsigned. -/
theorem test_mulh :
    sees (.mulh 1 2 3) (setXs core [(2, -1), (3, 2)]) (·.getX 1) = some (-1) ∧ sees (.mulhN 1 2 3) (setXs core [(2, -1), (3, 2)]) (·.getX 1) = some 1 := by
  decide +kernel

/-- R79: a shift takes six bits of its count; an arithmetic one copies the sign. -/
theorem test_shifts :
    sees (.sll 1 2 3) (setXs core [(2, 1), (3, 65)]) (·.getX 1) = some 2 ∧ sees (.sra 1 2 3) (setXs core [(2, -8), (3, 1)]) (·.getX 1) = some (-4) ∧
    sees (.srli 1 2 60) (setXs core [(2, -1)]) (·.getX 1) = some 15 := by decide +kernel

theorem test_counts :
    sees (.clz 1 2) (setXs core [(2, 1)]) (·.getX 1) = some 63 ∧ sees (.ctz 1 2) core (·.getX 1) = some 64 ∧
    sees (.cpop 1 2) (setXs core [(2, 0xF0F)]) (·.getX 1) = some 8 ∧ sees (.sext8 1 2) (setXs core [(2, 0x80)]) (·.getX 1) = some (-128) := by
  decide +kernel

/-- R80: `addi` sign-extends its 24 bits, `andi` does not. -/
theorem test_immediates :
    sees (.addi 1 2 0xFFFFFF) (setXs core [(2, 5)]) (·.getX 1) = some 4 ∧ sees (.andi 1 2 0xFFFFFF) (setXs core [(2, -1)]) (·.getX 1) = some 0xFFFFFF := by
  decide +kernel

/-- R83–R85: a link is the next head; an odd target is entered as it is; a branch not taken passes on. -/
theorem test_jumps :
    sees (.jalr 1 1 3) (setXs core [(1, 0x100)]) (fun t => (t.getX 1, t.th.pc, t.th.entering)) = some (core.th.nextPc, 0x103, true) ∧
    sees (.jal 0 4) core (·.th.pc) = some 10 ∧ sees (.bltN 1 2 4) (setXs core [(1, -1)]) (·.th.pc) = some core.th.nextPc ∧
    sees (.blt 1 2 4) (setXs core [(1, -1)]) (·.th.pc) = some 10 := by decide +kernel

/-- R86: the worked example: x6 = 8 and G = 64 give vl = 8; R36: a request of 100 in blocks of 16 gives 64. -/
theorem test_setvl :
    sees (.setvl 7 6 4) (setXs tile [(6, 8)]) (fun t => (t.th.vl, t.getX 7, t.th.vtype)) = some (8, 8, 4) ∧
    sees (.setvl 7 6 0x0C) (setXs tile [(6, 100)]) (·.th.vl) = some 64 ∧ sees (.setvl 7 6 0x0C) (setXs tile [(6, 9)]) (·.th.vl) = some 9 := by
  decide +kernel

/-- R143: `strip` counts down by vl, advances a pointer by vl elements of its size, and sets the next vl. -/
theorem test_strip :
    sees (.strip 6 { sp with off := 0xFFE2 }) (setXs { tile with th := { tile.th with vl := 64, vtype := 6, pc := 0x402 } } [(6, 100), (4, 0x1000), (5, 0x2000)])
      (fun t => (t.getX 6, t.getX 4, t.getX 5, t.th.vl, t.th.pc)) = some (36, 0x1040, 0x2080, 36, 0x3C6) := by decide +kernel

/-- R63, R274: reserved bits of `fcsr` read 0; `status.ppl` does not take level 2. -/
theorem test_cwr :
    sees (.cwr 4 5) (setXs tile [(5, -1)]) (·.th.fcsr) = some 0x7F ∧ sees (.cwr 0x100 5) (setXs slow [(5, 0x18)]) (fun t => (t.th.sregs.ppl, t.th.sregs.ie)) = some (0, true) ∧
    sees (.crd 5 0x002) tile (·.getX 5) = some 64 := by decide +kernel

/-- R58, R60: at U a system register raises PRIV; a number that is not assigned raises ILL. -/
theorem test_privilege :
    sees (.crd 5 0x101) tile (fun t => (t.th.tregs.cause, t.th.pl, t.th.pc)) = some (cPRIV.setWidth 64, 1, 2) ∧
    sees (.crd 5 0x0FF) tile (·.th.tregs.cause) = some (cILL.setWidth 64) := by decide +kernel

/-- R88, R89: little-endian; `ld.i8` sign-extends; a misaligned address raises ALIGN with the address. -/
theorem test_load_store :
    sees (.ld 1 2 0 4 false) (withBytes (setXs core [(2, 0x100)]) 0x100 [1, 2, 3, 0x84]) (·.getX 1) = some 0xFFFFFFFF84030201 ∧
    sees (.st 1 2 1 0 false) (setXs core [(1, 0xAB), (2, 0x100)]) (·.mem) = some [(0x101, 0xAB)] ∧
    sees (.ld 1 2 1 2 false) (setXs core [(2, 0x100)]) (fun t => (t.th.mregs.cause, t.th.mregs.val)) = some (cALIGN.setWidth 64, 0x101) := by
  decide +kernel

/-- R94: a 32-bit atomic returns the old value sign-extended; `cas` that fails leaves its location. -/
theorem test_atomics :
    sees (.amoAdd 1 2 3 { rel := false, acq := false, w := 2 }) (withBytes (setXs core [(2, 0x100), (3, 1)]) 0x100 [0xFF, 0xFF, 0xFF, 0xFF])
      (fun t => (t.getX 1, t.mem)) = some (-1, []) ∧
    sees (.amoCas 1 2 3 4 { rel := false, acq := false, w := 3 }) (withBytes (setXs core [(2, 0x100), (3, 6), (4, 9)]) 0x100 [5])
      (fun t => (t.getX 1, t.mem)) = some (5, [(0x100, 5)]) := by decide +kernel

/-- R145: 10 taken, 12 in all: a request of 8 gets 2. -/
theorem test_claim :
    sees (.claim 8 9 20) (withBytes (setXs core [(9, 8), (20, 0x100)]) 0x100 [10, 0, 0, 0, 0, 0, 0, 0, 12])
      (fun t => (t.getX 8, t.getX 9, memRead t.mem 0x100 1)) = some (10, 2, [12]) := by decide +kernel

/-- R97, R25: 1.0 + 2.0 in f16; 1.0 / 0 raises DZ. -/
theorem test_float :
    sees (.fadd 1 2 3 4) (setXs core [(2, 0x3C00), (3, 0x4000)]) (fun t => (t.getX 1, t.th.fcsr)) = some (0x4200, 0) ∧
    sees (.fdiv 1 2 3 6) (setXs core [(2, 0x3F800000)]) (·.getX 1) = some 0x7F800000 ∧
    sees (.fcmpLt 1 2 3 7) (setXs core [(2, 0xBFF0000000000000)]) (·.getX 1) = some 1 := by decide +kernel

/-- R152: arming at a count that is reached: overshoot is sticky and the excess stays. -/
theorem test_landing :
    sees (.larm 10 11) (withBytes (setXs core [(10, 0x100), (11, 4)]) 0x100 [6]) (fun t => memRead t.mem 0x100 16)
      = some [2, 0, 0, 0, 0, 0, 0, 0, 1, 0, 0, 0, 2, 0, 0, 0] ∧
    sees (.lread 14 10) (withBytes (setXs core [(10, 0x100)]) 0x100 [6, 0, 0, 0, 0, 0, 0, 0, 7]) (·.getX 14) = some 0x0000000700000006 := by decide +kernel

/-- R217, R218: a release counts once and names its scope. -/
theorem test_sync :
    sees (.rel 23 3) (setXs core [(23, 0x100)]) (fun t => memRead t.mem 0x100 16) = some [1, 0, 0, 0, 0, 0, 0, 0, 0, 0xFF, 0, 0, 3, 0, 0, 0] ∧
    sees (.acq 22 20 21 3) (withBytes (setXs core [(20, 0x100), (21, 2)]) 0x100 [1]) (·.stalled) = some true := by decide +kernel

/-- R292, R294: a system call from U to S, and back. -/
theorem test_trap_eret :
    sees (.trap 7) { tile with th := { tile.th with pc := 0x402 } } (fun t => (t.th.pl, t.th.sregs.cause, t.th.sregs.epc, t.th.sregs.val))
      = some (1, 0x0E, { tile with th := { tile.th with pc := 0x402 } }.th.nextPc, 7) ∧
    sees .eret { slow with th := { slow.th with frozen := true, sregs := { slow.th.sregs with epc := 0x882, pie := true } } }
      (fun t => (t.th.pl, t.th.pc, t.th.frozen, t.th.sregs.ie)) = some (0, 0x882, false, true) := by decide +kernel

/-- R264: rank 5, hall 0, tile 0, index 0, stage 2. -/
theorem test_getid : sees (.getid 1) { tile with th := { tile.th with rank := 5, stage := 2 } } (·.getX 1) = some 0x0000000500000002 := by decide +kernel

/-- The elements of a v register. -/
def elems (t : State) (r : VReg) (n : Nat) : List (Option (BitVec 32)) := (List.range n).map fun e => (t.th.partOr.vreg r).new.elem e

/-- A step: the instruction, then what fires by itself. -/
def stepped {α : Type} (i : Instr) (s : State) (f : State → α) : Option α := (next? (afterExec (exec i s))).map f

/-- A v register set. -/
def setVr (s : State) (r : VReg) (tag : EType) (l : List (Nat × BitVec 32)) : State :=
  { s with th := { s.th with part := s.th.part.map fun p => p.setV r { new := { tag := tag, data := l, absent := [], inherit := [], base := [], writer := 0 }, old := none } } }

/-- The thread with 4 elements of i32. -/
def four : State := { tile with th := { tile.th with vl := 4, vtype := 2 } }

/-- R111: the worked example: 0x50 + 200 clamps to 0xFF. -/
theorem test_vaddsat : stepped (.vaddsatN { vo with vd := 3, vs1 := 1, src2 := .imm 200, et := 0 }) (setVr four 1 0 [(0, 0x50)]) (elems · 3 1) = some [some 0xFF] := by
  decide +kernel

/-- R107: with `zm` = 0 a masked-off element keeps its value, with `zm` = 1 it is 0. -/
theorem test_vadd_masked :
    stepped (.vaddInt { vo with k := 1 }) (setVr (setVr four 1 2 [(0, 7)]) 2 2 [(0, 9)]) (elems · 2 1) = some [some 9] ∧
    stepped (.vaddInt { vo with k := 1, zm := true }) (setVr (setVr four 1 2 [(0, 7)]) 2 2 [(0, 9)]) (elems · 2 1) = some [some 0] := by decide +kernel

/-- R70: a source under another tag raises FMT. -/
theorem test_tag_fault : stepped (.vaddInt vo) (setVr four 1 6 []) (fun t => t.th.tregs.cause.setWidth 8) = some cFMT := by decide +kernel

/-- R130: the first true bit, and −1 where there is none. -/
theorem test_kfirst : stepped (.kfirst { vo with vd := 14, vs1 := 1, src2 := .v 0, et := 0 }) four (fun t => t.getX 14) = some (-1) := by decide +kernel

/-- R138: a sum of four elements to x7. -/
theorem test_reduce :
    stepped (.vredmax { vo with vd := 7, vs1 := 1, src2 := .x 0, opt := 1 }) (setVr four 1 2 [(0, 3), (1, 8), (2, 0xFFFFFFFF)]) (·.getX 7) = some 8 := by
  decide +kernel

/-! ### A state for the hypotheses of each statement -/

theorem ok_of {ε α : Type} {x : Except ε α} {v : α} (h : x.toOption = some v) : x = .ok v := by
  cases x <;> simp_all [Except.toOption]

/-- The error of an outcome. -/
def errOf {ε α : Type} : Except ε α → Option ε
  | .error e => some e
  | .ok _ => none

theorem error_of {ε α : Type} {x : Except ε α} {e : ε} (h : errOf x = some e) : x = .error e := by
  cases x <;> simp_all [errOf]

/-- A line of one head `nop` at address 0, one with a reserved bit set, and a thread that has the first in use. -/
def nopLine : Line := lineOfBytes 0 (oneHeadLine [0, 0])
def badLine : Line := lineOfBytes 0 [0x21, 0]
def inLine : State := { core with th := { core.th with line := some nopLine, entering := false } }
def entering (l : Line) (pc : Word) : State := { core with th := { core.th with line := some l, entering := true, pc := pc } }

/-- A context with an empty record, for the states below. -/
def ctx0 : Ctx :=
  { ctxid := 0, record := 0x100000, ptroot := 0x200000, rc := false, bindtab := 0x3000, rvid := 7, serialnext := 1, serialack := 0, outHdr := 0,
    faultHdr := 0, featen := 0x3F, pool := 0, qmask := -1, trapvec := 0x400, out := [], kept := [], records := [], news := [], irqCore := 14, gb := 0, aborted := false, frozen := false }

/-- The thread in its context, at S and at M. -/
def inCtx : State := { slow with ctxs := [ctx0] }
def coreCtx : State := { core with ctxs := [ctx0] }

theorem witness_ScalarFrame : ∃ s t, runs (.add 1 2 3) s t := ⟨core, _, rfl⟩

theorem witness_ScalarFrame_float : ∃ s t, runs (.fadd 1 2 3 6) s t := ⟨core, _, rfl⟩

/-- NaN, infinity times zero, one and two NaN operands, unordered operands. -/
theorem witness_FloatResults :
    (fpVal (setXs core [(1, 0x7E00), (2, 0x7C00)]) 4 1).isNan = true ∧ (fpVal (setXs core [(1, 0x7E00), (2, 0x7C00)]) 4 2).isNan = false ∧
    (fpVal (setXs core [(1, 0x7E00), (2, 0x7D00)]) 4 2).isNan = true ∧ (fpVal (setXs core [(1, 0x7E00), (2, 0x7C00)]) 4 2) = .inf false ∧
    (match fpVal core 4 3 with | .fin false 0 _ => true | _ => false) = true := by decide +kernel

/-- f16: 1.0 + 2.0 and 1.0 × 2.0 are exact, 2.0 / 1.0 and √1.0 too; the largest value doubled is beyond the range. -/
theorem witness_FloatResults_values :
    let s := setXs core [(1, 0x3C00), (2, 0x4000), (3, 0x7BFF), (4, 0x8000)]
    fpVal s 4 1 = .fin false 1024 (-10) ∧ fpVal s 4 2 = .fin false 1024 (-9) ∧ fpVal s 4 3 = .fin false 2047 5 ∧ fpVal s 4 4 = .fin true 0 (-24) ∧
    unpack .f16 0x4200 = .fin false 1536 (-9) ∧ (1024 * 2 ^ 0 + 1024 * 2 ^ 1 : Int) * 2 ^ 0 = 1536 * 2 ^ 1 ∧
    unpack .f16 0x4000 = .fin false 1024 (-9) ∧ unpack .f16 0x3C00 = .fin false 1024 (-10) ∧
    1024 * 1024 * 2 ^ (2 * (-10) - min (2 * (-10)) (-10) : Int).toNat = 1024 * 2 ^ (-10 - min (2 * (-10)) (-10) : Int).toNat ∧
    1024 * 1024 * 2 ^ ((-9) + (-10) - min ((-9) + (-10)) (-9) : Int).toNat = 1024 * 2 ^ (-9 - min ((-9) + (-10)) (-9) : Int).toNat ∧
    ((2 : Int) ^ 11 ≤ (2047 + 2047 : Int).natAbs ∧ (FFmt.f16.bias : Int) + 1 ≤ 11 + 5) := by decide +kernel

/-- R97, R22: 1.0 + 2.0 = 3.0 exactly; the largest f16 value doubled overflows to infinity; (−0) − (+0) = −0. -/
theorem test_float_values :
    sees (.fadd 5 1 2 4) (setXs core [(1, 0x3C00), (2, 0x4000)]) (fun t => (t.getX 5, t.th.fcsr)) = some (0x4200, 0) ∧
    sees (.fadd 5 3 3 4) (setXs core [(3, 0x7BFF)]) (fun t => (t.getX 5, t.th.fcsr)) = some (0x7C00, 5) ∧
    sees (.fsub 5 4 6 4) (setXs core [(4, 0x8000)]) (·.getX 5) = some 0x8000 := by decide +kernel

/-- f16: a NaN, both infinities, 1.0, 2.0 and both zeros. -/
def halves : State := setXs core [(1, 0x7E00), (2, 0x7C00), (3, 0xFC00), (4, 0x3C00), (5, 0x4000), (6, 0x8000), (7, 0)]

theorem witness_FloatMinMax :
    (fpVal halves 4 1).isNan = true ∧ fpVal halves 4 2 = .inf false ∧ fpVal halves 4 3 = .inf true ∧ fpVal halves 4 4 = .fin false 1024 (-10) ∧
    fpVal halves 4 5 = .fin false 1024 (-9) ∧ fpVal halves 4 6 = .fin true 0 (-24) ∧ fpVal halves 4 7 = .fin false 0 (-24) := by decide +kernel

/-- R98: −0 is below +0; a lone NaN loses. -/
theorem test_fminmax : sees (.fmin 8 7 6 4) halves (·.getX 8) = some 0x8000 ∧ sees (.fmax 8 1 4 4) halves (·.getX 8) = some 0x3C00 := by decide +kernel

theorem witness_RoundTrip : (Instr.add 1 2 3).WellFormed ∧ encode (.add 1 2 3) = some { head := 0x0241, tail := 0x00C2 } := by
  unfold Instr.WellFormed; decide

theorem witness_DecodeEncode :
    (0x00C2 : BitVec 64).toNat < 2 ^ (8 * tailBytes (Code.tl { head := 0x0241, tail := 0x00C2 }).toNat) ∧
    (decode { head := 0x0241, tail := 0x00C2 }).toOption = some (.add 1 2 3) ∧ (Code.major { head := 0x0241, tail := 0x00C2 }) ≠ 0x7F ∧
    (Code.major { head := 0x1E00, tail := 0 }).toNat = 0x0F ∧ 5 ≤ (Code.tl { head := 0x0340, tail := 0 }).toNat := by decide

theorem witness_StepRunsDecoded :
    fetching inLine ∧ decode inLine.th.code = .ok .nop ∧ fetching { inLine with th := { inLine.th with line := some (lineOfBytes 0 (oneHeadLine [8, 0])) } } ∧
    decode { inLine with th := { inLine.th with line := some (lineOfBytes 0 (oneHeadLine [8, 0])) } }.th.code = .error .unassigned ∧
    core.th.window = [] ∧ slow.policy.fire = false ∧ State.reset.agenda = [.event .boot] ∧ loadBefore inLine .nop = none ∧ inLine.th.loads = [] ∧
    (∀ x ∈ core.threads, x.frozen = true → ∀ e ∈ x.window, e.formed = []) ∧ (∀ c ∈ coreCtx.ctxs, c.records = []) ∧ core.dues = [] ∧ core.stops = [] ∧
    ({ core with agenda := [.input (.coreError 0 false)] } : State).agenda = [.input (.coreError 0 false)] := by
  refine ⟨?_, ok_of ?_, ?_, error_of ?_, ?_⟩ <;> (try unfold fetching onTurn) <;> decide +kernel

/-- Two loads that are committed and not performed: an addition that reads the second one's register follows it, and a trap the first. -/
def loading : State :=
  { inLine with policy := slow.policy, th := { inLine.th with loads := [{ d := 4, dev := none, pa := 0x100, n := 8, sgn := false, data := none }, { d := 3, dev := none, pa := 0x200, n := 1, sgn := true, data := none }] } }

theorem witness_StepRunsDecoded_loads :
    fetching loading ∧ loadBefore loading (.add 1 2 3) = some 1 ∧ loadBefore loading (.trap 0) = some 0 ∧ loadBefore loading (.add 1 2 5) = none := by
  unfold fetching onTurn; decide +kernel

theorem witness_LineEntry :
    onTurn (entering badLine 2) ∧ (entering badLine 2).th.held = some badLine ∧ badLine.malformed = true ∧ trapReady (entering badLine 2) ∧
    onTurn (entering nopLine 4) ∧ (entering nopLine 4).th.held = some nopLine ∧ nopLine.malformed = false ∧ slotOf (entering nopLine 4).th.pc > nopLine.heads ∧
    trapReady (entering nopLine 2) ∧ ¬(slotOf (entering nopLine 2).th.pc > nopLine.heads) ∧ slotOf (entering nopLine 2).th.pc ≠ 0 ∧
    (entering nopLine 2).th.held = some nopLine ∧ onTurn (entering nopLine 2) := by
  unfold onTurn trapReady; decide +kernel

/-- Core 0 at its first entry, with one head in memory; a tile thread without a context, whose entry does not translate. -/
theorem witness_LineEntry_fetch :
    onTurn core ∧ core.th.entering = true ∧ core.th.held = none ∧ trapReady core ∧ located (withBytes core 0 [1, 0]) (lineOf core.th.pc) .fetch 0 none ∧
    (withBytes core 0 [1, 0]).touchesBad 0 64 = false ∧ (lineOfBytes 0 [1, 0]).malformed = false ∧ slotOf core.th.pc = 1 ∧ (lineOfBytes 0 [1, 0]).heads = 1 := by
  refine ⟨?_, ?_, ?_, ?_, ⟨ok_of ?_, ?_⟩, ?_⟩ <;> (try unfold onTurn) <;> (try unfold trapReady) <;> decide +kernel

/-- The same where a line is read an 8-byte unit a step, with no unit read, with one, and with seven. -/
def unitwise (l : Option LineRead) : State := { core with policy := slow.policy, th := { core.th with lineIn := l } }

theorem witness_LineFetch_units :
    (∀ l ∈ [none, some ⟨none, 0, leBytes 8 1⟩, some ⟨none, 0, leBytes 56 1⟩],
      onTurn (unitwise l) ∧ (unitwise l).th.entering = true ∧ (unitwise l).th.held = none ∧ trapReady (unitwise l) ∧ (unitwise l).th.lineIn = l ∧
      (unitwise l).policy.whole = false ∧ (unitwise l).touchesBad 8 8 = false ∧ (unitwise l).touchesBad 56 8 = false ∧
      (∀ e ∈ [(unitwise l).locate (lineOf core.th.pc) .fetch], e.toOption = some (.here 0, none))) ∧
    paKind 56 ≠ .reg ∧ (⟨lineOf core.th.pc, BitVec.ofNat 512 (leNat (leBytes 64 1))⟩ : Line).malformed = false ∧
    slotOf core.th.pc ≤ (⟨lineOf core.th.pc, BitVec.ofNat 512 (leNat (leBytes 64 1))⟩ : Line).heads ∧ core.policy.whole = true ∧ core.th.lineIn = none := by
  unfold onTurn trapReady; decide +kernel

theorem witness_LineEntry_fault :
    onTurn { tile with th := { tile.th with line := none, entering := true } } ∧ { tile with th := { tile.th with line := none, entering := true } }.th.held = none ∧
    tile.locate (lineOf tile.th.pc) .fetch = .error cPAGE ∧ tile.th.lineIn = none ∧
    ({ tile with ctxs := [ctx0], badUnit := [0x10000] } : State).locate (lineOf tile.th.pc) .fetch = .error 0x0C := by
  refine ⟨?_, ?_, error_of ?_, ?_, error_of ?_⟩ <;> (try unfold onTurn) <;> decide +kernel

theorem witness_TrapEntry : tile.th.pl ≠ 3 ∧ core.th.pl = 3 ∧ slow.th.pl ≠ 0 ∧ slow.th.pl ≠ 3 := by decide +kernel

theorem witness_TrapInstruction : trapReady core ∧ trapReady tile := by unfold trapReady; decide +kernel

theorem witness_RefusedInstructions :
    trapReady tile ∧ tile.th.pl = 0 ∧ tile.th.isCore = false ∧ trapReady core ∧ core.th.isCore = true ∧ (vkey (.vaddInt vo)).isSome = true ∧
    (memKey (.vld mo)).isSome = true ∧ isTileInstr (.tzero 1) = true := by unfold trapReady; decide +kernel

/-- bx forms: `vquant`, a load, a `tld` and a `setvl`. -/
theorem witness_RefusedInstructions_bx :
    (Instr.vquant { vo with et := 10, src2 := .v 0 }).WellFormed ∧ vkey (.vquant { vo with et := 10, src2 := .v 0 }) = some (0x33, 3, { vo with et := 10, src2 := .v 0 }) ∧
    (Instr.vld { mo with et := 10 }).WellFormed ∧ memKey (.vld { mo with et := 10 }) = some (0, { mo with et := 10 }) ∧
    (Instr.tld { tm with mtype := 10 }).WellFormed ∧ (Instr.setvl 7 6 0x0A).WellFormed ∧ isBx 10 = true ∧
    tile.th.await = none ∧ tile.th.trimPending = false := by unfold Instr.WellFormed; decide +kernel

/-- The thread in its handler, with its window frozen; and one whose features are masked. -/
theorem witness_RefusedInstructions_masked :
    trapReady { slow with th := { slow.th with frozen := true } } ∧ { slow with th := { slow.th with frozen := true } }.th.isCore = false ∧
    trapReady { tile with th := { tile.th with featen0 := 0 } } ∧ { tile with th := { tile.th with featen0 := 0 } }.th.window = [] ∧ tile.th.frozen = false := by
  unfold trapReady; decide +kernel

theorem witness_ReadRegisters :
    tile.th.isCore = false ∧ tile.th.window = [] ∧ { tile with ctxs := [ctx0] }.ctx tile.th.ctx = some ctx0 ∧ inCtx.th.pl = 1 ∧ inCtx.ctx inCtx.th.ctx = some ctx0 ∧
    coreCtx.th.pl = 3 ∧ coreCtx.ctx coreCtx.th.ctx = some ctx0 ∧ tile.th.unchecked = [] := by decide +kernel

theorem witness_WriteRegisters :
    slow.th.window = [] ∧ slow.th.unchecked = [] ∧ slow.th.pl = 1 ∧ core.th.window = [] ∧ core.th.unchecked = [] ∧ core.th.pl = 3 := by decide +kernel

theorem witness_RefusedInstructions_registers : trapReady core ∧ core.th.isCore = true ∧ trapReady slow ∧ slow.th.pl = 1 := by
  unfold trapReady; decide +kernel

theorem witness_PrivilegedAtUser :
    trapReady tile ∧ tile.th.pl = 0 ∧ tile.th.isCore = false := by
  unfold trapReady; decide +kernel

/-- A run of the thread on its fabric. -/
def someRun (n : Nat) : FRun := { tid := 0, post := 1, n0 := 0, count := n, j := 0, fired := [], fault := none, coll := [], ahead := [] }
def withFabric (s : State) (f : Fabric) : State := { s with halls := [(0, { Hall.fresh with fabric := f })] }

/-- An entry of the window for an instruction at the pc. -/
def ent (s : State) (i : Instr) : Entry := { s.th.newEntry i [0, 0, 0] with post := 1 }
def withEntry (s : State) (i : Instr) : State := { s with th := { s.th with window := [ent s i], posts := 1 } }

theorem witness_PassingOn :
    tile.th.isCore = false ∧ tile.th.featen0.getLsbD 0 = true ∧ tile.fabric.runs = [] ∧ core.th.pl ≠ 0 ∧ core.th.irq = [] ∧
    { core with th := { core.th with irq := [5] } }.th.irq ≠ [] ∧ tile.th.window = [] ∧ tile.th.pendPre = none ∧
    ({ tile with th := { tile.th with pendPre := some false } }.th.pendPre.isSome = true) ∧ core.th.who = .core 0 ∧ tile.th.windowAway = false ∧
    tile.th.unchecked = [] ∧ (∀ e ∈ (withEntry four (.vaddInt vo)).th.window, isTileInstr e.instr = false) := by decide +kernel

theorem witness_PassingOn_waits :
    (withEntry four (.vaddInt vo)).th.windowAway = false ∧ ((withEntry four (.vaddInt vo)).th.window.any fun e => !e.complete) = true ∧
    (withFabric tile { Fabric.free with owner := some 0, runs := [someRun 1] }).th.windowAway = false ∧
    ((withFabric tile { Fabric.free with owner := some 0, runs := [someRun 1] }).fabric.runs.any fun r => r.tid = 0) = true ∧
    ({ tile with th := { tile.th with unchecked := [(1, 0)] } } : State).th.windowAway = false ∧
    ({ tile with th := { tile.th with unchecked := [(1, 0)] } } : State).th.unchecked ≠ [] := by decide +kernel

theorem witness_ThreadIdentity : tile.th.who = .tile 0 0 0 := by decide +kernel

/-- The thread beside a hall that holds a page alone and one in a run of 16; and a core at S beside that thread, whose load is on its way. -/
def translating : State :=
  { slow with halls := [(0, { Hall.fresh with tlb := [{ ctx := 0, base := 0x8000, size := 2 ^ 14, leaf := 0x1 }, { ctx := 0, base := 0x44000, size := 2 ^ 14, leaf := 0x41 }] })] }
def beside : State := { core with others := [{ slow.th with tid := 20, window := [{ ent slow (.vld mo) with sent := [0] }] }] }

theorem witness_RemoveTranslations :
    slow.th.pl ≠ 0 ∧ (∀ t ∈ slow.threads, t.inFlight = false) ∧ (∀ p ∈ translating.halls, ∀ e ∈ p.2.tlb, 0 < e.size ∧ e.base % e.size = 0) ∧
    beside.th.pl ≠ 0 ∧ (beside.threads.any fun t => t.inFlight) = true ∧ beside.threads.any (fun t => t.inFlight && t.ctx == (beside.getX 1).setWidth 32) = true := by
  decide +kernel

theorem witness_VectorLength :
    (Instr.setvl 7 6 4).WellFormed ∧ tile.th.isCore = false ∧ tile.th.trimPending = false ∧ tile.th.featen0.getLsbD 2 = true ∧ (Instr.strip 6 sp).WellFormed ∧
    tile.th.pendPre = none := by unfold Instr.WellFormed; decide +kernel

/-- The thread has committed a `strip.y` at which a pre-emption was pending: with an empty window, with an entry, and with its window frozen. -/
def stripping : State := { slow with th := { slow.th with stripC := some 6, pendPre := some false } }

theorem witness_VectorLength_yield :
    (∀ s ∈ [stripping, withEntry stripping (.vaddInt { vo with vd := 2 }), { stripping with th := { stripping.th with frozen := true } }],
      s.agenda = [] ∧ s.power = .on ∧ s.stalled = false ∧ s.th.run = .running ∧ s.th.asyncDue = none ∧ s.th.remindDue = none ∧ s.th.fabPend = none ∧
      s.th.stripC = some 6 ∧ s.th.pendPre.isSome = true) ∧
    stripping.th.window = [] ∧ stripping.th.unchecked = [] ∧ stripping.th.loads = [] ∧ stripping.th.frozen = false ∧
    (withEntry { stripping with th := { stripping.th with vl := 4 } } (.vaddInt vo)).th.window.any (fun e => !e.complete) = true ∧
    (Instr.strip 6 { sp with y := true }).WellFormed := by unfold Instr.WellFormed; decide +kernel

/-- R144: `strip.y` under a pending pre-emption is committed and asks for the suspension. -/
theorem test_strip_y : sees (.strip 6 { sp with y := true }) (setXs { tile with th := { tile.th with vl := 64, vtype := 6, pendPre := some false } } [(6, 100)])
    (fun t => (t.getX 6, t.th.stripC, t.th.vl)) = some (36, some 6, 36) := by decide +kernel

/-- Page tables of one leaf at virtual address 0: levels at 0x200000, 0x204000, 0x208000, 0x20C000; `e3` is the leaf. -/
def paged (s : State) (e3 : Word) : State :=
  { s with ctxs := [ctx0], mem := memWrite (memWrite (memWrite (memWrite [] 0x200000 (leBytes 8 0x204001)) 0x204000 (leBytes 8 0x208001)) 0x208000 (leBytes 8 0x20C001)) 0x20C000 (leBytes 8 e3.toNat) }

/-- A page of HBM at 0x4000 for U that may be read, written and executed; one without `v`; one that is read only. -/
theorem witness_Translation :
    (paged tile 0x403F).th.pl ≠ 3 ∧ (paged tile 0x403F).ctx 0 = some ctx0 ∧ (paged tile 0x403F).th.hall? = some 0 ∧ ((paged tile 0x403F).hall 0).tlb = [] ∧
    ((paged tile 0x403F).locate 0x123 .read).toOption.map (·.1) = some (.here 0x4123) ∧ errOf ((paged tile 0x4037).locate 0x123 .write) = some cPROT ∧
    errOf ((paged tile 0x403E).locate 0x123 .read) = some cPAGE ∧ errOf ((paged tile 0x403F).locate 0x100000000000000 .read) = some cPAGE := by
  decide +kernel

/-- A page homed on device 3, and on this device; a malformed table entry, a leaf at level 0; a table in an uncorrectable unit. -/
theorem witness_Translation_kinds :
    ((paged tile 0x000E00000000403F).locate 0x123 .read).toOption.map (·.1) = some (.away 3 0x4123) ∧
    errOf (({ paged tile 0x000E00000000403F with th := { tile.th with featen0 := 0x1F } } : State).locate 0x123 .read) = some cPROT ∧
    errOf (({ paged tile 0 with mem := memWrite [] 0x200000 (leBytes 8 0x204003) } : State).locate 0x123 .read) = some cPROT ∧
    errOf (({ paged tile 0 with mem := memWrite [] 0x200000 (leBytes 8 0x204005) } : State).locate 0x123 .read) = some cPROT ∧
    errOf (({ paged tile 0x403F with badUnit := [0x10000] } : State).locate 0x123 .read) = some cDABORT ∧ (paged tile 0x403F).badUnit = [] := by
  decide +kernel

/-- A run of 16 pages of 16 KiB from 0x40000 on (R279). -/
def paged16 : State :=
  { tile with ctxs := [ctx0], mem := memWrite (paged tile 0).mem 0x20C000 ((List.range 16).flatMap fun k => leBytes 8 (0x4007F + k * 0x4000)) }

theorem witness_Translation_run :
    ((leWord (memRead paged16.mem 0x20C008 8)).getLsbD 6) = true ∧ (paged16.locate 0x4123 .read).toOption.map (·.1) = some (.here 0x44123) ∧
    (∀ k < 16, leWord (memRead paged16.mem (0x20C000 + 8 * k) 8) = leWord (memRead paged16.mem 0x20C000 8) + BitVec.ofNat 64 (k * 2 ^ 14)) := by
  decide +kernel

/-- A leaf of level 2, one that is not aligned to its page, and a malformed one. -/
def large (s : State) (e2 : Word) : State :=
  { s with ctxs := [ctx0], mem := memWrite (memWrite (memWrite [] 0x200000 (leBytes 8 0x204001)) 0x204000 (leBytes 8 0x208001)) 0x208000 (leBytes 8 e2.toNat) }

theorem witness_Translation_large :
    ((large tile 0x3F).locate 0x4123 .read).toOption.map (·.1) = some (.here 0x4123) ∧ errOf ((large tile 0x403F).locate 0x4123 .read) = some cPROT ∧
    errOf ((large tile 0xBF).locate 0x4123 .read) = some cPROT ∧ errOf ((large tile 0x1F).locate 0x4123 .read) = some cPROT ∧
    (∀ k < 16, (leWord (memRead (large tile 0x3F).mem (0x208000 + 8 * k) 8)).getLsbD 6 = false) := by decide +kernel

/-- A run of 16 pages of 32 MiB from 0x20000000 on. -/
def large16 : State :=
  { tile with ctxs := [ctx0], mem := memWrite (large tile 0).mem 0x208000 ((List.range 16).flatMap fun k => leBytes 8 (0x2000007F + k * 0x2000000)) }

theorem witness_Translation_large_run :
    (large16.locate 0x2004123 .read).toOption.map (·.1) = some (.here 0x22004123) ∧
    (∀ k < 16, leWord (memRead large16.mem (0x208000 + 8 * k) 8) = leWord (memRead large16.mem 0x208000 8) + BitVec.ofNat 64 (k * 2 ^ 25)) := by
  decide +kernel

theorem witness_AccessFaults :
    trapReady core ∧ core.th.await = none ∧ ({ rel := false, acq := false, w := 2 } : AmoOp).w.toNat = 2 ∧
    (setXs core [(2, 0x101)]).getX 2 = 0x101 ∧ errOf (tile.locate 0x100 .read) = some cPAGE ∧ errOf (tile.locate 0x100 .write) = some cPAGE ∧
    errOf (tile.locate 0x100 .both) = some cPAGE ∧ errOf (({ paged tile 0x403F with badUnit := [0x10000] } : State).locate 0x100 .both) = some cDABORT ∧ (setXs core [(3, 8)]).getX 3 ≠ 0 := by unfold trapReady; decide +kernel

/-- A leaf that names home device 5 (R298). -/
theorem witness_AccessFaults_away :
    ((paged tile 0x001600000000403F).locate 0x100 .both).toOption.map (·.1) = some (.away 5 0x4100) ∧ trapReady (paged tile 0x001600000000403F) := by
  unfold trapReady; decide +kernel

/-- A thread whose first 32 MiB are mapped to themselves by a leaf of level 2. -/
def mapped (s : State) : State :=
  { s with ctxs := [ctx0], mem := memWrite (memWrite (memWrite s.mem 0x200000 (leBytes 8 0x204001)) 0x204000 (leBytes 8 0x208001)) 0x208000 (leBytes 8 0x3F) }

/-- A tile with a queued write in front of another in its hall's buffer. -/
def queued : State :=
  { tile with tiles := [((0, 0), { Tile.fresh with stores := [{ pa := 0x100, bytes := [1], tid := 0, last := false }] })], halls := [(0, { Hall.fresh with buffer := [{ pa := 0x100, bytes := [2], tid := 0, last := false }] })] }

theorem witness_LoadsAndStores :
    idle core ∧ mapsLegal core ∧ queuesWhole core ∧ queuesWhole queued ∧ ((setXs core [(2, 0x100)]).getX 2 + (0 : BitVec 21).signExtend 64).toNat % 8 = 0 ∧ located core 0x100 .read 0x100 none ∧
    located core 0x100 .write 0x100 none ∧ core.touchesBad 0x100 8 = false ∧ core.partlyBad 0x100 8 = false ∧ core.wordsAt 0x100 8 = [] ∧
    (core.noteWord 0x100).wordsAt 0x10F 1 = [0x100] := by
  refine ⟨?_, ?_, ?_, ?_, ?_, ⟨ok_of ?_, ?_⟩, ⟨ok_of ?_, ?_⟩, ?_⟩ <;> (try unfold idle) <;> (try unfold mapsLegal) <;> (try unfold queuesWhole) <;> decide +kernel

/-- A load where loads are performed later, and one that has been committed. -/
theorem witness_LoadResult_later :
    idle { core with policy := slow.policy } ∧ slow.policy.order = false ∧ core.policy.order = true ∧
    loading.th.loads[0]? = some { d := 4, dev := none, pa := 0x100, n := 8, sgn := false, data := none } ∧
    loading.th.loads[1]? = some { d := 3, dev := none, pa := 0x200, n := 1, sgn := true, data := none } ∧
    loading.touchesBad 0x100 8 = false ∧ paKind 0x100 ≠ .reg := by unfold idle; decide +kernel

/-- A store that has been committed, behind a load. -/
def storing : State :=
  { loading with th := { loading.th with loads := loading.th.loads ++ [{ d := 0, dev := none, pa := 0x300, n := 4, sgn := false, data := some [1, 2, 3, 4] }] } }

theorem witness_LoadsAndStores_later :
    mapsLegal storing ∧ queuesWhole storing ∧ (storing.th.loads[2]?.map fun l => (l.dev, l.data, l.pa, l.n)) = some (none, some [1, 2, 3, 4], 0x300, 4) ∧
    paKind 0x300 ≠ .reg ∧ storing.partlyBad 0x300 4 = false ∧ storing.wordsAt 0x300 4 = [] := by unfold mapsLegal queuesWhole; decide +kernel

/-- R207: a store of core 0 that another core passes: it is committed first, and reaches memory when it is performed. -/
theorem test_store_later :
    sees (.st 1 2 0 0 false) { setXs { core with policy := slow.policy } [(1, 0xAB), (2, 0x100)] with mem := [] } (fun t => (t.mem, t.th.loads.length)) = some ([], 1) ∧
    ((next? (runAct (performLoad 2) storing)).map fun t => memRead t.mem 0x300 4) = some [1, 2, 3, 4] := by decide +kernel

theorem witness_Atomics :
    idle core ∧ mapsLegal core ∧ queuesWhole core ∧ located core 0x100 .both 0x100 none ∧ core.touchesBad 0x100 16 = false ∧ core.wordsAt 0x100 8 = [] ∧ (Instr.claim 8 9 20).WellFormed := by
  refine ⟨?_, ?_, ?_, ⟨ok_of ?_, ?_⟩, ?_⟩ <;> (try unfold idle) <;> (try unfold queuesWhole) <;> (try unfold mapsLegal) <;> (try unfold Instr.WellFormed) <;> decide +kernel

/-- Each service register, and an address in the range that names none, as M and S reach them. -/
theorem witness_ServiceRegisters :
    idle core ∧ core.locate 0x00FF00001000 .read = .ok (.here 0x00FF00001000, none) ∧ core.locate 0x00FF00001028 .write = .ok (.here 0x00FF00001028, none) ∧
    paKind 0x00FF00001030 = .reg ∧ core.locate 0x00FF00001030 .read = .ok (.here 0x00FF00001030, none) ∧ core.th.pl = 3 ∧ core.svc.updBundle = none ∧ core.svc.lvl < 16 := by
  refine ⟨?_, ok_of ?_, ok_of ?_, ?_, ok_of ?_, ?_⟩ <;> (try unfold idle) <;> decide +kernel

/-- The heartbeat at S: a leaf of device registers. -/
theorem witness_ServiceRegisters_S :
    ((paged { tile with th := { tile.th with pl := 1 } } 0x00FF0000001F).locate 0x1010 .write).toOption.map (·.1) = some (.here 0x00FF00001010) := by decide +kernel

theorem witness_Fences :
    mapsLegal queued ∧ queuesWhole queued ∧ queued.th.place = some (0, 0) ∧ quiet queued ∧ (withEntry four (.vld mo)).th.windowAway = false ∧ four.th.frozen = false ∧
    ((withEntry four (.vld mo)).th.window.any fun e => !e.complete && e.accesses) = true := by
  unfold mapsLegal quiet queuesWhole; decide +kernel

theorem witness_LandingWords :
    idle core ∧ mapsLegal core ∧ located core 0x100 .both 0x100 none ∧ core.touchesBad 0x100 16 = false ∧ (setXs core [(10, 0x100), (11, 1)]).getX 10 = 0x100 ∧
    (landing core 0x100).gen = 0 ∧ (landing core 0x100).gen ≠ ((setXs core [(10, 0x100), (11, 1)]).getX 11).toNat := by
  refine ⟨?_, ?_, ⟨ok_of ?_, ?_⟩, ?_⟩ <;> (try unfold idle) <;> (try unfold mapsLegal) <;> decide +kernel

theorem witness_SyncObjects :
    idle core ∧ mapsLegal core ∧ located core 0x100 .both 0x100 none ∧ core.touchesBad 0x100 16 = false ∧ ((core.getX 1).toNat ≤ wordAt core 0x100 8) ∧
    wordAt core 0x100 8 < ((setXs core [(2, 1)]).getX 2).toNat := by
  refine ⟨?_, ?_, ⟨ok_of ?_, ?_⟩, ?_⟩ <;> (try unfold idle) <;> (try unfold mapsLegal) <;> decide +kernel

/-- Another thread's write to the object at 0x100 is on its way. -/
theorem witness_SyncObjects_underway :
    mapsLegal { mapped queued with th := { tile.th with tid := 7 } } ∧ ({ mapped queued with th := { tile.th with tid := 7 } } : State).writeUnderway 0x100 16 = true ∧
    core.writeUnderway 0x100 16 = false := by unfold mapsLegal; decide +kernel

/-- The thread with its binding table on the mapped page. -/
def bound : State := mapped slow

theorem witness_Bindings :
    trapReady bound ∧ ((bound.locate 0x100 .both).toOption.map (·.1)) = some (.here 0x100) ∧ bound.bindings = [] ∧
    ((List.range 64).find? fun i => (bound.bindingAt i).isNone) = some 0 ∧ bound.bindEntry 0 = some 0x3000 ∧ mapsLegal bound ∧
    (bound.putBinding 0 { obj := 0x100, base := 0x200, len := 8, scope := 3 } true).bindEntry 0 = some 0x3000 ∧
    (((bound.putBinding 0 { obj := 0x100, base := 0x200, len := 8, scope := 3 } true).bindings.find? fun x => x.2.obj = 0x100 && x.2.base = 0x200 && x.2.len = 8).map (·.1)) = some 0 := by
  unfold trapReady mapsLegal; decide +kernel

theorem ex_ok {ε α : Type} {x : Except ε α} (h : x.toOption.isSome = true) : ∃ v, x = .ok v := by
  cases x <;> simp_all [Except.toOption]

/-- A `cpy` block of 64 bytes from 0x2000 to 0x3000, at 0x1000; and one of no bytes. -/
def cpyBlock (n : Nat) : List Byte := leBytes 8 0x3000 ++ leBytes 8 0x2000 ++ leBytes 8 n ++ leBytes 24 0
def copying (n : Nat) : State := withBytes (setXs core [(2, 0x1000), (3, 0x4000)]) 0x1000 (cpyBlock n)

/-- A transfer as it is issued. -/
def issued (k : XferKind) (p : List Byte) : Xfer := { core.th.newXfer k 0x1000 0x4000 with params := p }

theorem witness_CopyIssue :
    idle (copying 64) ∧ (copying 64).th.place = none ∧ (copying 64).getX 2 = 0x1000 ∧
    (∃ v, readOwn (0x1000 : Word) (0x1000 : Word) (blockSize .cpy / 16) (copying 64).drainOwn = .ok v) ∧ (∃ v, xlate (0x4000 : Word) .both (copying 64) = .ok v) ∧
    core.th.featen0 = 0x3F ∧ (copying 64).issueOf (issued .cpy (cpyBlock 64)) = .ready 64 ∧ (copying 0).issueOf (issued .cpy (cpyBlock 0)) = .refused 0x01 := by
  refine ⟨?_, ?_, ?_, ex_ok ?_, ex_ok ?_, ?_⟩ <;> (try unfold idle) <;> decide +kernel

/-- Rows and widths of a `cpy2d`: 4 by 8, and none. -/
theorem witness_CopyIssue_blocks :
    (issued .cpy (cpyBlock 64)).pl = 3 ∧ (issued .cpy (cpyBlock 64)).node = none ∧ (issued .cpy (cpyBlock 64)).dstAddr 0 = 0x3000 ∧
    (issued .cpy (cpyBlock 64)).field 16 8 = 64 ∧ (issued .cpy (cpyBlock 0)).field 16 8 = 0 ∧ (issued .cpy (cpyBlock 64)).field 32 4 = 0 ∧
    (issued .cpy2d (leBytes 16 0x3000 ++ leBytes 4 4 ++ leBytes 4 8 ++ leBytes 40 0)).field 16 4 = 4 ∧
    (issued .cpy2d (leBytes 16 0x3000 ++ leBytes 4 4 ++ leBytes 4 8 ++ leBytes 40 0)).field 20 4 = 8 ∧
    (issued .cpy2d (leBytes 16 0x3000 ++ leBytes 4 4 ++ leBytes 4 8 ++ leBytes 40 0)).field 40 4 = 0 := by decide +kernel

/-- A packet of one thread with 64 elements in hall `h`. -/
def packet (h : Nat) : List Byte := leBytes 96 0 ++ leBytes 4 h ++ leBytes 6 0 ++ [1, 0, 0, 1, 1, 0] ++ leBytes 16 0
def posting (h : Nat) : State := withBytes (setXs coreCtx [(2, 0x1000), (3, 5)]) 0x1000 (packet h)

/-- A launch that waits in queue 5. -/
def waiting : Launch := { posting 1 with }.newLaunch (packetOf (packet 1)) 0 [(0, 0, 0, 0)] none false
def fullQueue : State :=
  { posting 1 with sched := { (posting 1).sched with launches := [waiting], queues := [(5, { packets := List.replicate 256 waiting.id, accepted := 256 })] } }

theorem witness_LaunchPost :
    idle (posting 1) ∧ ((posting 1).getX 3).toNat < 64 ∧ (∃ v, readOwn (0x1000 : Word) (0x1000 : Word) 8 (posting 1).drainOwn = .ok v) ∧
    mayPost (posting 1) (packetOf (packet 1)) (some 5) = true ∧ packetBad (packet 0) = true ∧ packetBad (packet 1) = false ∧
    ({ posting 1 with ctxs := [] } : State).packetRefusal 0 (packetOf (packet 1)) = some 0x06 ∧ (posting 1).packetRefusal 0 (packetOf (packet 1)) = none ∧
    ((posting 1).waitingIn 5).length < 256 ∧ 256 ≤ (fullQueue.waitingIn 5).length := by
  refine ⟨?_, ?_, ex_ok ?_, ?_⟩ <;> (try unfold idle) <;> decide +kernel

/-- A graph of one node of class 0 at 0x2000; `issued` and `finished` follow. -/
def graph (n i f : Nat) : List Byte := leBytes 2 n ++ leBytes 6 0 ++ leBytes 4 i ++ leBytes 4 f ++ leBytes 48 0 ++ packet 1 ++ leBytes 128 0
def graphs (n i f : Nat) : State := withBytes (setXs coreCtx [(2, 0x2000), (3, 1)]) 0x2000 (graph n i f)

theorem witness_Graphs_wait :
    (∃ v, readOwn (0x2000 : Word) (0x2000 : Word) 4 (graphs 1 1 1) = .ok v) ∧ (fieldAt (graph 1 1 1) 12 4 + 2 ^ 32 - 1) % 2 ^ 32 < 8 ∧
    8 ≤ (fieldAt (graph 1 9 9) 12 4 + 2 ^ 32 - 1) % 2 ^ 32 ∧ (fieldAt (graph 1 9 9) 12 4 + 2 ^ 32 - 1) % 2 ^ 32 < 2 ^ 31 ∧
    2 ^ 31 ≤ (fieldAt (graph 1 1 0) 12 4 + 2 ^ 32 - 1) % 2 ^ 32 := by
  refine ⟨ex_ok ?_, ?_⟩ <;> decide +kernel

theorem witness_Graphs_launch :
    idle (graphs 1 0 0) ∧ (∃ v, xlate (0x2000 : Word) .both (graphs 1 0 0).drainOwn = .ok v) ∧ fieldAt (graph 0 0 0) 0 2 = 0 ∧ fieldAt (graph 1 0 0) 0 2 = 1 ∧
    fieldAt (graph 1 0 0) 24 40 = 0 ∧ ((readRecordsAt (0x2000 : Word) (0x2040 : Word) 1 (graphs 1 0 0)).toOption.map (·.1)) = some [bytesAt (graph 1 0 0) 64 256] ∧
    recordBad 1 (bytesAt (graph 1 0 0) 64 256) = false ∧ onCycle [nodeOf (bytesAt (graph 1 0 0) 64 256)] = [] ∧
    (graphs 1 0 0).packetRefusal 0 (packetOf (packet 1)) = none ∧ (graphs 1 0 0).sched.pool.length < 4096 ∧ (graphs 1 0 0).snapshotUsed + 1 ≤ 8192 ∧
    mayPost (graphs 1 0 0) (packetOf (packet 1)) none = true := by
  refine ⟨?_, ex_ok ?_, ?_⟩ <;> (try unfold idle) <;> decide +kernel

/-- The thread of a launch with a completion landing word. -/
def launched : State :=
  { mapped tile with th := { tile.th with launch := 16 }, sched := { Sched.empty with launches := [{ waiting with pkt := { waiting.pkt with done := 0x100 } }] } }

theorem witness_ThreadExit :
    idle tile ∧ tile.drainOwn = tile ∧ (tile.fabric.runs.any fun r => r.tid = tile.th.tid) = false ∧ tile.launch tile.th.launch = none ∧
    idle launched ∧ launched.drainOwn = launched ∧ (launched.launch 16).map (·.pkt.done) = some 0x100 ∧ launched.touchesBad 0x100 16 = false := by
  refine ⟨?_, ?_, ?_, ?_, ?_, ?_, ?_, ?_⟩ <;> (try unfold idle) <;> decide +kernel

/-- An image: binding v1, node 16 adding 5, binding v2. -/
def imgNodes : List (BitVec 64) := [0x0000000500020410]
def imgEdges : List (BitVec 64) := [0x400030, 0xC40010]
def imgBinds : List (BitVec 64) := [0x01, 0x42]
def image : List Byte := [1, 0, 1, 2, 2, 0] ++ leBytes 10 0 ++ (imgNodes ++ imgEdges ++ imgBinds).flatMap fun w => leBytes 8 w.toNat
def imaged : State := withBytes (setXs (mapped tile) [(1, 0x4000)]) 0x4000 image

theorem witness_FabricInstructions :
    imaged.th.place = some (0, 0) ∧ imaged.th.featen0.getLsbD 0 = true ∧ keysRise imaged.halls = true ∧ imaged.fabric.owner = none ∧ imaged.fabric.waiters = [] ∧
    ((readRecord imaged.fabric (imaged.getX 1) (imaged.getX 1) 16 (imaged.setFabric { Fabric.free with owner := some 0 })).toOption.map (·.1)) = some (bytesAt image 0 16) ∧
    headerCounts (BitVec.ofNat 128 (leNat (bytesAt image 0 16))) = some (1, 2, 2) ∧ headerBad (BitVec.ofNat 128 (leNat (bytesAt image 0 16))) = false ∧
    ((readRecords imaged.fabric (imaged.getX 1) (imaged.getX 1 + 16) 5 (imaged.setFabric { Fabric.free with owner := some 0 })).toOption.map (·.1)) = some (imgNodes ++ imgEdges ++ imgBinds) ∧
    imageErrors imgNodes imgEdges imgBinds = [] := by decide +kernel

/-- The fabric with that image, owned by the thread. -/
def owned : State :=
  withFabric four { Fabric.free with owner := some 0, nodes := imgNodes, edges := imgEdges, binds := imgBinds, tokens := [0, 0] }

theorem witness_FabricInstructions_release :
    tile.fabric.owner ≠ some tile.th.tid ∧ owned.fabric.owner = some owned.th.tid ∧ owned.th.isCore = false ∧
    (owned.fabric.runs.any fun r => r.tid = owned.th.tid) = false ∧
    ((withFabric four { owned.fabric with runs := [someRun 1] }).fabric.runs.any fun r => r.tid = four.th.tid) = true := by decide +kernel

theorem witness_FabricInstructions_run :
    owned.th.featen0.getLsbD 0 = true ∧ ((setXs owned [(2, 4)]).getX 2).toNat ≤ owned.th.vl ∧ tagged owned (inputTags owned.fabric) ∧ groupsKnown owned owned.fabric = true ∧
    postable owned ((outputTags (atPost owned) owned.fabric).map (·.1)) [] ∧ keysRise owned.halls = true := by
  unfold tagged postable atPost; decide +kernel

/-- Cursor 1 open with its next key at hand, at its last key, and at its end. -/
def curs (pos : Nat) (l : List Word) : State :=
  { tile with th := tile.th.setCursor 1 { base := 0x100, len := 2, pos := pos, isOpen := true, k64 := true, win := l } }

theorem witness_Cursors :
    tile.th.isCore = false ∧ tile.th.featen0.getLsbD 1 = true ∧ tile.th.cursorBusy 1 = false ∧ (curs 0 [5, 6]).th.cursorBusy 1 = false ∧
    ((curs 0 [5, 6]).th.cursor 1).isOpen = true ∧ ((curs 0 [5, 6]).th.cursor 1).pos < ((curs 0 [5, 6]).th.cursor 1).len ∧
    ((curs 2 []).th.cursor 1).len ≤ ((curs 2 []).th.cursor 1).pos ∧ ((curs 1 [6]).th.cursor 1).pos + 1 = ((curs 1 [6]).th.cursor 1).len ∧
    (6 : Word) < (setXs (curs 1 [6]) [(3, 7)]).getX 3 ∧ (setXs (curs 0 [5]) [(3, 5)]).getX 3 ≤ 5 ∧ (tile.th.cursor 1).isOpen = false ∧ trapReady tile := by
  unfold trapReady; decide +kernel

theorem witness_Cursors_merge :
    (({ four with th := ((curs 0 [5, 6]).th.setCursor 2 ((curs 0 [5, 6]).th.cursor 1)) } : State).th.cursor 1).isOpen = true ∧
    (({ four with th := ((curs 0 [5, 6]).th.setCursor 2 ((curs 0 [5, 6]).th.cursor 1)) } : State).th.cursor 2).isOpen = true ∧
    postable { four with th := ((curs 0 [5, 6]).th.setCursor 2 ((curs 0 [5, 6]).th.cursor 1)) } [1, 2] [] := by
  unfold postable atPost; decide +kernel

/-- The thread at S in front of an area at 0x10000, which holds its partition. -/
def saving : State := setXs (mapped slow) [(1, 0x10000)]
def saved : State := withBytes saving 0x10000 (leBytes 4 1 ++ [2, 0, 64, 0])

/-- What a translation meets on this device. -/
def hereOf {α β : Type} (x : Except α (Loc × β)) : Option Nat := match x with
  | .ok (.here pa, _) => some pa
  | _ => none

theorem here_of {α β : Type} {x : Except α (Loc × β)} (h : (hereOf x).isSome = true) : ∃ pa e, x = .ok (.here pa, e) := by
  rcases x with _ | ⟨_ | _, _⟩ <;> simp_all [hereOf]

/-- A page of an area at 0x10000. -/
def pageOf (k : Nat) : Word := if k = 0 then (0x10000 : Word) else ((0x10000 : Word) &&& ~~~(0xFFF : Word)) + BitVec.ofNat 64 (4096 * k)

theorem areaHere_of {s : State} {acc : Access} (h : ((areaPages 0x10000).all fun k => (hereOf (s.locate (pageOf k) acc)).isSome) = true) :
    areaHere s 0x10000 acc := fun k hk => here_of (List.all_eq_true.mp h k hk)

/-- The same thread with an element on its way. -/
def sending : State := { saving with th := { saving.th with window := [{ ent saving (.vld mo) with sent := [0] }] } }

theorem witness_SaveAndRestore :
    areaHere saving 0x10000 .write ∧ saving.getX 1 = 0x10000 ∧
    saving.th.isCore = false ∧ saving.th.pl ≠ 0 ∧ (saving.getX 1).toNat % 4096 = 0 ∧ sending.partOwner = some sending.th ∧ sending.windowBusy sending.th = true ∧
    saving.partOwner = some saving.th ∧ saving.windowBusy saving.th = false ∧ ({ saving with th := { saving.th with part := none } } : State).partOwner = none := by
  refine ⟨areaHere_of ?_, ?_⟩ <;> decide +kernel

/-- The area of another context's thread; one of a smaller grant, with entries and without; and one whose entry is no instruction. -/
def savedAs (ctx grant n : Nat) : State := withBytes (withBytes saving 0x10000 (leBytes 4 1 ++ [2, 0] ++ leBytes 2 grant ++ leBytes 4 ctx)) 0x10011 [BitVec.ofNat 8 n]

/-- A running thread of another context owns the tile's w and q. -/
def occupied : State :=
  { saved with tiles := [((0, 0), { Tile.fresh with owner := some 5 })], others := [{ slow.th with tid := 20, ctx := 5 }] }

theorem witness_SaveAndRestore_others :
    quiet occupied ∧ occupied.drainOwn.passable 0 0 0 = false ∧ occupied.th.place = some (0, 0) ∧
    (savedAs 5 64 0).drainOwn.areaField 0 0x10000 8 4 ≠ saved.th.ctx.toNat ∧ (savedAs 0 32 1).drainOwn.areaField 0 0x10000 6 2 ≠ saved.th.grant ∧
    (savedAs 0 32 1).drainOwn.areaField 0 0x10000 0x11 1 ≠ 0 ∧ (savedAs 0 32 0).drainOwn.areaField 0 0x10000 6 2 ≠ saved.th.grant ∧
    (savedAs 0 32 0).drainOwn.areaField 0 0x10000 0x11 1 = 0 ∧ (withBytes (savedAs 0 64 1) 0x11100 (List.replicate 64 0xFF)).drainOwn.readEntries 0x10000 1 = none ∧
    saving.drainOwn.areaField 0 0x10000 4 2 / 2 % 2 = 0 := by
  unfold quiet; decide +kernel

theorem saved_drained : saved.drainOwn = saved := by decide +kernel

theorem witness_SaveAndRestore_vrest :
    areaHere saved.drainOwn 0x10000 .read ∧ saved.getX 1 = 0x10000 ∧ quiet saved ∧ saved.getX 2 = 0 ∧ saved.drainOwn.passable 0 0 0 = true ∧
    saved.drainOwn.readEntries 0x10000 0 = some [] ∧ saved.th.place = some (0, 0) ∧
    saved.drainOwn.areaField 0 0x10000 4 2 / 2 % 2 = 1 ∧ saved.drainOwn.areaField 0 0x10000 8 4 = saved.th.ctx.toNat ∧
    saved.drainOwn.areaField 0 0x10000 12 4 = saved.th.ident.toNat % 2 ^ 32 ∧ saved.drainOwn.areaField 0 0x10000 6 2 = saved.th.grant ∧
    saved.drainOwn.areaField 0 0x10000 0x11 1 = 0 := by
  rw [saved_drained]
  refine ⟨areaHere_of ?_, ?_⟩ <;> (try unfold quiet) <;> decide +kernel

theorem witness_VectorPost :
    vkey (.vaddInt vo) = some (0x30, 0, vo) ∧ toX 0x30 0 vo = false ∧ (Instr.vaddInt vo).WellFormed ∧ postable four (vUse 0x30 0 vo).vw (vUse 0x30 0 vo).kw ∧
    tagged four (vSources 0x30 0 vo) ∧ isBx vo.et = false ∧ four.th.featen0.getLsbD 2 = true ∧ (1 : VReg).getLsbD 0 = true ∧
    is64 (four.th.tagOf 1) = false := by
  unfold Instr.WellFormed postable atPost tagged; decide +kernel

/-- The thread with elements by events, and its `kcount` in the window. -/
def kc : Instr := .kcount { vo with vd := 7, vs1 := 1, src2 := .v 0, et := 0 }
def slow4 : State := { slow with th := { slow.th with vl := 4, vtype := 2 } }

theorem witness_ScalarResults_wait :
    vkey kc = some (0x36, 9, { vo with vd := 7, vs1 := 1, src2 := .v 0, et := 0 }) ∧ toX 0x36 9 { vo with vd := 7, vs1 := 1, src2 := .v 0, et := 0 } = true ∧ kc.WellFormed ∧
    slow4.policy.fire = false ∧ slow4.th.window = [] ∧ slow4.th.await = none ∧ postable slow4 [] [] ∧
    tagged slow4 (vSources 0x36 9 { vo with vd := 7, vs1 := 1, src2 := .v 0, et := 0 }) ∧
    ({ slow4 with th := { slow4.th with await := some (.entry slow4.th.pc 1) } } : State).th.await = some (.entry slow4.th.pc 1) := by
  unfold Instr.WellFormed postable atPost tagged; decide +kernel

/-- Two true bits among four; an element of v4 that is present; `vextract` beyond vl. -/
theorem witness_ScalarResults_values :
    four.policy.fire = true ∧ four.th.window = [] ∧ four.th.await = none ∧ four.th.unchecked = [] ∧ four.th.run = .running ∧ postable four [] [] ∧
    (∀ e < 4, (atPost four).kElem 1 0 e ≠ none ∧ (atPost four).kElem 1 1 e ≠ none) ∧ (atPost four).vElem 1 4 2 0 = some 0 ∧
    (Instr.vextract { vo with vd := 7, vs1 := 4, src2 := .imm 9 }).WellFormed ∧ tagged four (vSources 0x37 6 { vo with vd := 7, vs1 := 4, src2 := .imm 9 }) := by
  unfold Instr.WellFormed postable atPost tagged; decide +kernel

/-- A bit of k1 that is true, as `kfirst` finds it. -/
theorem witness_ScalarResults_first :
    ((atPost { four with th := { four.th with part := some (Part.start.setK 1 { new := { bits := [(2, true)], absent := [], inherit := [], base := [], writer := 0 }, old := none }) } }).kElem 1 1 2) = some true := by
  unfold atPost; decide +kernel

theorem witness_MemoryPost :
    (Instr.vld mo).WellFormed ∧ loadKey (.vld mo) = some (0, mo) ∧ postable four (regUse (.vld mo)).vw [] ∧ tagged four (indexTags 0 mo) ∧ mo.nt = false ∧
    loadKey (.vld { mo with et := 12 }) = some (0, { mo with et := 12 }) ∧ (Instr.vld { mo with et := 12 }).WellFormed ∧ four.th.featen0.getLsbD 2 = true ∧
    (Instr.vst { mo with et := 2 }).WellFormed ∧ storeKey (.vst { mo with et := 2 }) = some (0, { mo with et := 2 }) ∧
    tagged four (storeTags four.th { mo with et := 2 }) ∧ mo.v.getLsbD 0 = false ∧ isBx mo.et = false := by
  unfold Instr.WellFormed postable atPost tagged; decide +kernel

theorem witness_MemoryPost_vamo :
    (Instr.vamoAdd 2 { mo with et := 2, idx := 8, r := true, aux := 9 }).WellFormed ∧ vamoKey (.vamoAdd 2 { mo with et := 2, idx := 8, r := true, aux := 9 }) = some (0, 2, { mo with et := 2, idx := 8, r := true, aux := 9 }) ∧
    tagged four [(9, .exact 2, false)] ∧ tagged four (indexTags 2 { mo with et := 2, idx := 8 }) ∧ (Instr.vamoAdd 2 { mo with et := 2, idx := 8 }).WellFormed ∧
    tagged four [(4, .exact 2, false)] ∧ (Instr.vst { mo with et := 2, nt := true, aux := 9 }).WellFormed ∧
    ((mapped four).locate 0x100 .write).toOption.map (·.1) = some (.here 0x100) := by
  unfold Instr.WellFormed tagged; decide +kernel

/-- Rows and columns as `tmma` names them, under the tags that q0 and w0 have. -/
def mx : MXOp := { zi := false, w := 0, z := 0, sub := false, xdep := 12, xcol := 11, xrow := 10, sl := false, lf := true, q := false }

theorem witness_TilePost :
    four.th.place = some (0, 0) ∧ postable four [] [] ∧ (four.myTile.zAt 0).holder = some four.th.tid ∧ (four.myTile.qAt 0).ptag = lfTag mx.lf ∧
    (four.myTile.wAt 0).ptag = lfTag mx.lf ∧ (depthOf mx ((setXs four [(12, 3)]).getX 12)).isSome = true ∧
    tagged (setVr (setVr four 1 9 []) 2 9 []) (vSources 0x64 0 { vo with vd := 0, vs1 := 1, src2 := .v 2, et := 9 }) ∧ tagged (setVr four 4 6 []) [(4, .exact 6, false)] ∧
    postable four [4] [] ∧ (four.getX 7).toNat < 32 := by
  unfold postable atPost tagged; decide +kernel

/-- The whole of z0, q0 and w0, the latter two of l16 (bit 52); a bx8 store of whole groups. -/
theorem witness_TilePost_transfer :
    shapeOk { tm with tile := 0, mtype := 6 } 0 = true ∧ shapeOk tm 0x10000000000000 = true ∧ shapeOk { tm with tile := 8 } 0x10000000000000 = true ∧
    groupsWhole { tm with tile := 0, mtype := 12 } 64 0 = true := by decide +kernel

/-- `vadd.i32 v2, v1, v3` posted, with elements to come: sequence number 0, post 1. -/
def fired (i : Instr) (s : State) : State := ((next? (exec i s)).getD s)
def adding : State := fired (.vaddInt vo) slow4

theorem witness_WindowEvents_element :
    adding.th.works = true ∧ adding.th.seqPost 0 = some 1 ∧ (adding.th.entry 1).map (·.instr) = some (.vaddInt vo) ∧ vkey (.vaddInt vo) = some (0x30, 0, vo) ∧
    (adding.th.entry 1).map (fun e => (e.complete, e.units, e.isDone 0)) = some (false, 4, false) ∧
    ((adding.th.entry 1).bind fun e => fireV adding.th e 0x30 0 vo 0).isSome = true ∧
    ((adding.th.entry 1).bind fun e => fireV adding.th e 0x30 0 vo 0).any (fun t => t.frozen = false ∧ (t.entry 1).isSome) = true ∧
    (adding.th.entry 1).map (fun e => (e.held, adding.th.checkedUnit e 0, adding.th.checkedUnit e 1)) = some (none, some 0, none) := by decide +kernel

/-- A second addition that reads the first one's result is not ready; a checked element of a float addition is under check. -/
def chained : State := fired (.vaddInt { vo with vd := 5, vs1 := 2 }) adding
def float4 : State := { slow4 with th := (setVr (setVr slow4 1 6 []) 3 6 []).th }
def checked : State := fired (.elementFire 0 0 0 .clean) (fired (.vaddFp { vo with et := 6 }) float4)

theorem witness_WindowEvents_check :
    ((chained.th.entry 2).bind fun e => fireV chained.th e 0x30 0 { vo with vd := 5, vs1 := 2 } 0) = none ∧ chained.th.seqPost 1 = some 2 ∧
    ((fired (.vaddFp { vo with et := 6 }) float4).th.entry 1).map (fun e => (e.held, (fired (.vaddFp { vo with et := 6 }) float4).th.checkedUnit e 0)) = some (none, some 0) ∧ checked.th.unchecked.contains (1, 0) = true ∧
    (checked.th.entry 1).map (·.softCount 0) = some 0 ∧ checked.th.works = true ∧ checked.th.seqPost 0 = some 1 ∧
    (({ checked with th := checked.th.modEntry 1 fun e => { e with soft := [(0, 2)] } } : State).th.entry 1).map (·.softCount 0) = some 2 := by decide +kernel

/-- `tzero z0`, a `tmma`, and a `tst` of an accumulator that was lost, each at the head of the tile's queue. -/
def zeroing : State := fired (.tzero 0) slow4
def multiplying : State := fired (.tmma mx) (setXs slow4 [(12, 0x30000)])
def lost : State :=
  fired (.tmovr 4 0 7) { slow4 with tiles := slow4.tiles.map fun p => (p.1, { p.2 with z := p.2.z.set 0 { p.2.z[0] with dropped := true } }) }

theorem witness_WindowEvents_tile :
    (zeroing.th.entry 1).map (·.instr) = some (.tzero 0) ∧ zeroing.th.place = some (0, 0) ∧ zeroing.th.seqPost 0 = some 1 ∧ zeroing.th.works = true ∧
    zeroing.queueBlocks { tid := 0, post := 1 } (.tzero 0) (zeroing.cleanQueue zeroing.myTile) = false ∧
    (zeroing.th.entry 1).map (fun e => (e.complete, zeroing.th.awaitsCheck 64 e none)) = some (false, false) ∧
    (multiplying.th.entry 1).map (·.instr) = some (.tmma mx) ∧ (multiplying.myTile.zAt 0).dropped = false ∧ keysRise (multiplying.myTile.zAt 0).data = true ∧
    (multiplying.th.entry 1).map (fun e => (depthOf mx ((e.xs.drop 2).headD 0), e.prog, e.complete)) = some (some (0, 3), 0, false) ∧
    multiplying.queueBlocks { tid := 0, post := 1 } (.tmma mx) (multiplying.cleanQueue multiplying.myTile) = false := by decide +kernel

theorem witness_WindowEvents_lost :
    (lost.th.entry 1).map (·.instr) = some (.tmovr 4 0 7) ∧ zRead (.tmovr 4 0 7) 0 = some 0 ∧ (lost.th.entry 1).map (fun e => (e.held, e.prog)) = some (none, 0) ∧ (lost.myTile.zAt 0).dropped = true ∧ isTileInstr (.tmovr 4 0 7) = true ∧
    lost.th.carrying = false ∧ lost.th.unchecked = [] ∧ lost.collectiveBusy 0 = false ∧ (∀ x ∈ lost.th.window, x.formed = []) ∧
    lost.queueBlocks { tid := 0, post := 1 } (.tmovr 4 0 7) (lost.cleanQueue lost.myTile) = false := by decide +kernel

/-- The entry of post number 1. -/
def entry1 (s : State) : Entry := (s.th.entry 1).getD (ent s .nop)

def vo1 : VOp := { vo with src2 := .v 0 }

theorem witness_ElementValues : firing adding 0 1 0 (entry1 adding) vo 0 0 := by
  have e : vkey (entry1 adding).instr = some (0x30, 0, vo) := by decide +kernel
  refine ⟨?_, ?_, ?_, ?_, fun ma mi h => by rw [e] at h; cases h; exact .inr (by decide +kernel)⟩ <;> (try unfold active canFire inWindow) <;> (try unfold intoV) <;> decide +kernel

/-- A negation, which has one source, and `vmacc` with a third. -/
theorem witness_ElementValues_sources :
    firing (fired (.vnegInt vo1) slow4) 0 1 0 (entry1 (fired (.vnegInt vo1) slow4)) vo1 0 7 ∧
    (fired (.vmacc { vo with vs3 := 4 }) slow4).th.vElem 1 4 2 0 = some 0 ∧
    (entry1 (fired (.vmacc { vo with vs3 := 4 }) slow4)).instr = .vmacc { vo with vs3 := 4 } := by
  have e : vkey (entry1 (fired (.vnegInt vo1) slow4)).instr = some (0x30, 24, vo1) := by decide +kernel
  refine ⟨⟨?_, ?_, ?_, ?_, fun ma mi h => by rw [e] at h; cases h; exact .inl (by decide +kernel)⟩, ?_, ?_⟩ <;> (try unfold active canFire inWindow) <;> (try unfold intoV) <;> decide +kernel

/-- 1.5 + 0.25 in f32, and a fused product whose third source is present. -/
def fo : VOp := { vo with et := 6, vs3 := 4 }
def floats : State := { slow4 with th := (setVr (setVr (setVr slow4 1 6 [(0, 0x3FC00000)]) 3 6 [(0, 0x3E800000)]) 4 6 []).th }

theorem witness_ElementValues_float :
    ready (fired (.vaddFp fo) floats) 0 1 0 (entry1 (fired (.vaddFp fo) floats)) fo 0x3FC00000 0x3E800000 ∧
    (entry1 (fired (.vaddFp fo) floats)).instr = .vaddFp fo ∧ (fired (.vfma fo) floats).th.vElem 1 4 6 0 = some 0 ∧
    (entry1 (fired (.vfma fo) floats)).instr = .vfma fo := by
  have e : vkey (entry1 (fired (.vaddFp fo) floats)).instr = some (0x31, 0, fo) := by decide +kernel
  refine ⟨⟨?_, ?_, ?_, fun ma mi h => by rw [e] at h; cases h; exact .inr (by decide +kernel)⟩, ?_, ?_, ?_⟩ <;> (try unfold active canFire inWindow) <;> (try unfold intoV) <;> decide +kernel

theorem test_float_element : sees (.elementFire 0 0 0 .clean) (fired (.vaddFp fo) floats) (fun t => ((t.th.partOr.vreg 2).new.elem 0) == some 0x3FE00000) = true := by decide +kernel

/-- A page at 0x4000 with bytes 1–8 at 0x4100, f32 elements in v4, an index −8 in element 1 of v6 and an operand in v7. -/
def mem4 : State :=
  setXs { setVr (setVr (setVr (paged slow4 0x403F) 4 6 [(0, 0x3F800000), (1, 5)]) 6 2 [(1, 0xFFFFFFF8)]) 7 2 [(1, 9)] with
    mem := memWrite (paged slow4 0x403F).mem 0x4100 [1, 2, 3, 4, 5, 6, 7, 8] } [(5, 0x100), (6, 4)]
def mi : VMOp := { mo with v := 8, idx := 6, et := 2, r := true, aux := 7, imm := 0xC }

/-- Unit stride, a stride of 4 in x6, and an indexed atomic that returns, each at element 1 and address 0x104. -/
theorem witness_MemoryElements :
    mapsLegal mem4 ∧ (∀ i ∈ [Instr.vld mo, .vst mo, .vlds { mo with idx := 6 }, .vsts { mo with idx := 6 }, .vamoAdd 2 mi],
      let s := fired i mem4
      let e := entry1 s
      s.th.works = true ∧ s.th.seqPost 0 = some 1 ∧ e.instr = i ∧ e.complete = false ∧ 1 < e.vl ∧ e.isDone 1 = false ∧ e.formed = [] ∧ e.sent = [] ∧
      s.th.kElem 1 0 1 = some true ∧ e.held = none ∧ s.th.held? e 1 = false ∧ s.th.awaitsCheck 64 e (some 1) = false ∧ e.xs.headD 0 = 0x100 ∧
      (s.locate 0x104 .both).toOption.map (·.1) = some (.here 0x4104) ∧ s.touchesBad 0x4104 4 = false ∧ s.partlyBad 0x4104 4 = false ∧
      mustFollow s (some 1) 0x104 4 = false ∧ s.wordsAt 0x4104 4 = []) ∧
    (0x100 + (0xC : BitVec 26).signExtend 64 + sext 32 0xFFFFFFF8 : Word) = 0x104 := by unfold mapsLegal; decide +kernel

theorem witness_MemoryElements_sources :
    ((fired (.vld mo) mem4).th.partOr.vreg 4).new.writer = 1 ∧ ((fired (.vamoAdd 2 mi) mem4).th.partOr.vreg 8).new.writer = 1 ∧
    (fired (.vst mo) mem4).th.vElem 1 4 6 1 = some 5 ∧ lowerMeets (fired (.vsts { mo with idx := 6 }) mem4) (entry1 (fired (.vsts { mo with idx := 6 }) mem4)) 1 { mo with idx := 6 } 1 0x104 = false ∧
    lowerMeets (fired (.vst mo) mem4) (entry1 (fired (.vst mo) mem4)) 0 mo 1 0x104 = false ∧
    (fired (.vamoAdd 2 mi) mem4).th.vElem 1 6 2 1 = some 0xFFFFFFF8 ∧ (fired (.vamoAdd 2 mi) mem4).th.vElem 1 7 2 1 = some 9 ∧ mi.aux.setWidth 5 = (7 : VReg) := by
  decide +kernel

/-- R159, R160, R168: what the three move: 8-bit bytes 5, 6, 7, 8 as one element, 5 stored over them, 9 added to them. -/
theorem test_load_element : sees (.elementFire 0 0 1 .clean) (fired (.vld mo) mem4) (fun t => ((t.th.partOr.vreg 4).new.elem 1) == some 0x08070605) = true := by decide +kernel
theorem test_store_element : sees (.elementFire 0 0 1 .clean) (fired (.vst mo) mem4) (fun t => wordAt t 0x4104 4 == 5 && wordAt t 0x4100 4 == 0x04030201) = true := by decide +kernel
theorem test_vamo_element : sees (.elementFire 0 0 1 .clean) (fired (.vamoAdd 2 mi) mem4) (fun t => wordAt t 0x4104 4 == 0x0807060E && ((t.th.partOr.vreg 8).new.elem 1) == some 0x08070605) = true := by decide +kernel

/-- A signed division of i64 pairs by −1 that meets the most negative dividend, and one of i32 by 0. -/
def wide : VOp := { vo with vd := 6, vs1 := 2, src2 := .v 4, et := 3 }
def wide4 : State := setVr (setVr (setVr (setVr slow4 2 3 [(0, 0)]) 3 3 [(0, 0x80000000)]) 4 3 [(0, 0xFFFFFFFF)]) 5 3 [(0, 0xFFFFFFFF)]
def dividing (i : Instr) : State := fired i wide4

theorem witness_IntegerDivision : firing (dividing (.vdivInt wide)) 0 1 0 (entry1 (dividing (.vdivInt wide))) wide (2 ^ 63) (2 ^ 64 - 1) ∧
    signedOf 64 (2 ^ 63) = -2 ^ 63 ∧ signedOf 64 (2 ^ 64 - 1) = -1 ∧ (entry1 (dividing (.vdivInt wide))).instr = .vdivInt wide := by
  have e : vkey (entry1 (dividing (.vdivInt wide))).instr = some (0x30, 5, wide) := by decide +kernel
  refine ⟨⟨?_, ?_, ?_, ?_, fun ma mi h => by rw [e] at h; cases h; exact .inr (by decide +kernel)⟩, ?_, ?_, ?_⟩ <;> (try unfold active canFire inWindow) <;> (try unfold intoV) <;> decide +kernel

/-- R19: MIN / −1 is MIN in its pair of registers, and its remainder 0; a division by 0 gives all ones. -/
theorem test_vdiv :
    (fired (.elementFire 0 0 0 .clean) (dividing (.vdivInt wide))).th.vElem 2 6 3 0 = some (2 ^ 63) ∧
    (fired (.elementFire 0 0 0 .clean) (dividing (.vrem wide))).th.vElem 2 6 3 0 = some 0 ∧
    (fired (.elementFire 0 0 0 .clean) (fired (.vdivN vo) slow4)).th.vElem 2 2 2 0 = some 0xFFFFFFFF := by decide +kernel

/-- An armed word that four units reach, one that they do not, one not armed, and one that saturates. -/
theorem witness_HomeEvents :
    mapsLegal queued ∧ ((queued.hall 0).buffer[0]?.map fun w => w.waitsFor ((queued.hall 0).buffer.take 0)) = some false ∧
    ((({ queued with halls := [] } : State).tile 0 0).stores[0]?.map fun w => w.waitsFor []) = some false ∧
    mapsLegal { queued with halls := [] } ∧ (({ queued with halls := [] } : State).tile 0 0).stores[0]?.isSome = true ∧ (({ queued with halls := [] } : State).hall 0).buffer = [] ∧
    paKind 0x100 = .hbm ∧ (lwOf (leBytes 4 2 ++ leBytes 4 6 ++ leBytes 4 0 ++ leBytes 4 1)).count = 2 ∧ (lwOf (leBytes 4 2 ++ leBytes 4 6 ++ leBytes 4 0 ++ leBytes 4 1)).target = 6 ∧
    (lwOf (leBytes 4 2 ++ leBytes 4 6 ++ leBytes 4 0 ++ leBytes 4 1)).flags % 2 = 1 ∧ (lwOf (leBytes 4 0xFFFFFFFF ++ leBytes 12 0)).count = 0xFFFFFFFF ∧
    (lwOf (leBytes 4 0xFFFFFFFF ++ leBytes 12 0)).flags % 2 = 0 := by unfold mapsLegal; decide +kernel

/-- A queued `cpy` of 64 bytes from 0x2000 to 0x3000 that counts at 0x4000. -/
def xcpy : Xfer := { issued .cpy (cpyBlock 64) with id := 20, units := 64 }
def moving : State := { copying 64 with xfers := [xcpy] }

theorem witness_CopyMoves :
    moving.mem.wf = true ∧ moving.badUnit = [] ∧ (moving.xfers.find? fun y => y.id = 20) = some xcpy ∧ xcpy.kind = .cpy ∧ xcpy.pl = 3 ∧ xcpy.node = none ∧ xcpy.zmode = 0 ∧
    xcpy.sent = 0 ∧ xcpy.moved = 0 ∧ xcpy.wrote = 0 ∧ xcpy.units = xcpy.field 16 8 ∧ (xcpy.addr 0).toNat = 0x3000 ∧ (xcpy.addr 8).toNat = 0x2000 ∧ xcpy.block = 0x1000 ∧ xcpy.lword = 0x4000 := by
  decide +kernel

/-- The same copy of a tile thread that is switched out, with an area at 0x10000. -/
def away : State :=
  { mapped slow with xfers := [{ xcpy with pl := 1 }], th := { core.th with tid := 9 }, others := [{ slow.th with run := .suspended false, winrec := 0x10000 }] }

theorem witness_TransferEvents :
    moving.mustWaitFor xcpy = false ∧ moving.isRemoteCopy xcpy = false ∧ (away.thread 0).map (·.suspended) = some true ∧ xcpy.copyLen = 64 ∧
    (away.runCopy { xcpy with pl := 1 } 16).stop = none ∧ xcpy.zmode = 0 ∧ (core.xfers.find? fun y => y.id = 20) = none ∧ core.thread 99 = none ∧
    ({ moving with xfers := [{ xcpy with id := 19, kind := .mdec, params := leBytes 16 0 ++ leBytes 8 1 }, { xcpy with kind := .mdec, params := leBytes 16 0 ++ leBytes 8 1 }] } : State).mustWaitFor
      { xcpy with kind := .mdec, params := leBytes 16 0 ++ leBytes 8 1 } = true := by decide +kernel

/-- A picture whose bitstream can be read; lies where nothing is mapped; lies at a device that does not answer. A copy stopped at each. -/
def decoding : Xfer := { xcpy with kind := .mdec, pl := 1, params := leBytes 8 0x2000 ++ leBytes 8 64 ++ leBytes 48 0 }
def stopped (s : State) : State := { s with xfers := [{ xcpy with pl := 1 }], th := { core.th with tid := 9 }, others := [{ slow.th with run := .suspended false, winrec := 0x10000 }] }

theorem witness_TransferEvents_stops :
    (mapped slow).mediaStop decoding none = none ∧ (paged slow 0).mediaStop decoding none = some (.fault cPAGE) ∧
    (paged slow 0x001600000000403F).mediaStop decoding none = some .silent ∧ ({ mapped slow with xfers := [decoding] } : State).mustWaitFor decoding = false ∧
    (((stopped (paged slow 0)).runCopy { xcpy with pl := 1 } 16).stop) = some (.fault cPAGE) ∧
    (((stopped (paged slow 0x001600000000403F)).runCopy { xcpy with pl := 1 } 16).stop) = some .silent ∧ xcpy.node = none ∧ xcpy.copyLen = 64 := by
  decide +kernel

/-- A network operation of a context without a queue pair. -/
theorem witness_TransferEvents_net :
    ({ moving with xfers := [{ xcpy with kind := .nxfer }] } : State).mustWaitFor { xcpy with kind := .nxfer } = false ∧
    (({ moving with xfers := [{ xcpy with kind := .nxfer }] } : State).netRefused { xcpy with kind := .nxfer }).isSome = true ∧
    ({ moving with qps := [{ qpn := 0, ctx := 0, err := false, recvs := [] }] } : State).netRefused { xcpy with kind := .nxfer } = none := by decide +kernel

/-- A launch in queue 5 for tile (0, 0) of hall 0, and the core that posted it. -/
def queue5 : State :=
  { coreCtx with sched := { Sched.empty with launches := [{ waiting with id := 16 }], queues := [(5, { packets := [16], accepted := 1 })], nextId := 17 } }

theorem witness_SchedulerEvents :
    ({ core with sched := { core.sched with paused := true } } : State).sched.paused = true ∧ core.sched.paused = false ∧ core.askVictim.winner.isNone = true ∧
    (queue5.askVictim.winner.map fun w => (w.1, w.2.1)) = some (5, 0) ∧ core.svc.upd ≠ 1 ∧ queue5.sched.pointers.toList.getD 0 0 < 65 ∧
    ((queue5.offer 5).map (·.1)) = some 0 := by decide +kernel

/-- The thread that starts is new, and is none of the cores. -/
theorem witness_SchedulerEvents_start :
    sees .threadStart queue5 (fun t => t.others.any fun u => queue5.threads.all fun v => v.tid != u.tid) = some true := by decide +kernel

/-- A generation of one node at 0x2000, that waits, and that has finished. -/
def gen1 (x : NodeState) : Gen :=
  { id := 30, ctx := 0, addr := 0x2000, g := 1, nodes := [nodeOf (packet 1 ++ leBytes 128 0)], st := [x], failed := false, deferred := false, tid := 0 }
def graphed (x : NodeState) : State := { mapped core with sched := { Sched.empty with gens := [gen1 x] } }

theorem witness_SchedulerEvents_graph :
    (graphed .waiting).skipFailed.gen 30 = some (gen1 .waiting) ∧ (gen1 .waiting).state 0 = .waiting ∧ 0 < (gen1 .waiting).nodes.length ∧ 0 < (gen1 .waiting).st.length ∧
    (graphed .waiting).skipFailed.eligible (gen1 .waiting) 0 = true ∧ (graphed .waiting).sched.pool.length < 4096 ∧ (graphed .finished).mem.wf = true ∧
    (graphed .finished).skipFailed.gen 30 = some (gen1 .finished) ∧ (∀ x ∈ (gen1 .finished).st, x = .finished ∨ x = .skipped ∨ x = .failed) ∧
    (∀ c ∈ (graphed .finished).ctxs, c.out = [] ∧ c.records = []) ∧
    (∀ o ∈ (graphed .finished).sched.gens, o.ctx = 0 → o.addr = 0x2000 → o.g ≠ 1 → atOrBelow 1 o.g = false) ∧
    (graphed .finished).paOf 0 1 (0x2000 + BitVec.ofNat 64 (16 + 1 % 8)) .write = some 0x2011 ∧ (graphed .finished).paOf 0 1 (0x2000 + 12) .write = some 0x200C ∧ 0x200C + 4 ≤ 0x2011 := by
  decide +kernel

/-- The thread that is running, exempt, asked to stop, and suspended with its own partition, or without room for it. -/
def asleep : State := { mapped core with others := [{ slow.th with tid := 20, run := .suspended false, winrec := 0x10000 }] }

theorem witness_SwitchEvents :
    (tile.thread tile.th.tid).map (fun t => (t.isCore, t.run, t.pendPre, t.window)) = some (false, .running, none, []) ∧ tile.exempt tile.th = false ∧
    ({ tile with th := { tile.th with unchecked := [(1, 0)] } } : State).exempt { tile.th with unchecked := [(1, 0)] } = true ∧
    ({ tile.th with pendPre := some false } : Thread).pendPre.isSome = true ∧ (asleep.thread 20).map (fun t => (t.place, t.suspended, t.grant)) = some (some (0, 0), true, 64) ∧ tile.th.loads = [] ∧
    ((asleep.thread 20).bind fun t => asleep.comeback t 0 0) = some (.own 64) ∧
    ((asleep.thread 20).bind fun t => ({ asleep with tiles := [((0, 0), { Tile.fresh with retired := true })] } : State).comeback t 0 0) = none := by
  decide +kernel

/-- Tile (0, 3) is marked for replacement, by the hall's spare or without one; z1 of tile (0, 0) is short-lived. -/
def marked (used : Option Nat) : State := { tile with tiles := [((0, 3), { Tile.fresh with marked := true })], halls := [(0, { Hall.fresh with spare := used })] }
def short : State := { tile with tiles := [((0, 0), { Tile.fresh with z := Tile.fresh.z.set 1 { ZTile.zero with short := true } })] }

theorem witness_SwitchEvents_hall :
    ((List.range 16).filter fun i => (tile.tile 0 i).marked) = [] ∧ ((List.range 16).filter fun i => ((marked (some 7)).tile 0 i).marked) = [3] ∧
    mapsLegal (marked (some 7)) ∧ ((marked (some 7)).threads.map (·.tid)).Nodup ∧ ((marked (some 7)).hall 0).spare = some 7 ∧ ((marked none).hall 0).spare = none ∧
    (∀ t ∈ (marked none).threads, t.window = [] ∧ t.loads = [] ∧ (marked none).windowBusy t = false ∧ t.readsBank = false ∧ (marked none).exempt t = false) ∧
    tile.badLines 0 = [] ∧ ({ tile with ras := { tile.ras with lasting := [sliceBase 0 0] } } : State).badLines 0 ≠ [] ∧
    ((short.tile 0 0).zAt 0).short = false ∧ ((short.tile 0 0).zAt 1).short = true := by unfold mapsLegal; decide +kernel

/-- Two nodes that add constants to v1, with a run in progress: neither has fired. -/
def running : State :=
  fired (.frun 2 3) (setXs (withFabric slow4 { Fabric.free with
    owner := some 0, nodes := [0x0000000500020410, 0x0000000600020411], edges := [0x400030, 0x440030, 0xC40010, 0xC80011], binds := [0x01, 0x42, 0x43], tokens := [0, 0, 0, 0] }) [(3, 4)])

theorem witness_FabricEvents :
    running.th.place = some (0, 0) ∧ keysRise running.halls = true ∧ running.fabric.owner = some running.th.tid ∧ running.th.run = .running ∧
    running.th.part.isSome = true ∧ running.th.unchecked = [] ∧ ((running.th.entry 1).any fun e => e.held.isNone) = true ∧ running.th.frozen = false ∧ (running.currentRun.map fun r => (r.post, r.j, r.count, r.fired)) = some (1, 0, 4, []) ∧
    (running.th.entry 1).isSome = true ∧ findNode running.fabric.nodes 16 = some 0x0000000500020410 ∧ classOf 16 = 1 ∧
    (running.currentRun.bind fun r => nodeInputs running.fabric r running.th 0x0000000500020410) = some [0] ∧
    (running.fabric.nodes.any fun m => (assocGet [(16, (0 : BitVec 32))] (nodeNo m)).isNone) = true := by decide +kernel

/-- A node and a collective binding of group 1 with two members, whose element waits; a second node has not fired. -/
def grouped : State :=
  let s := fired (.frun 2 3) (setXs (withFabric { slow4 with hiend := { Hiend.fresh with groups := [{ grp := 1, port := 0, ctxs := [0], rank := 0, members := 2 }] } } { Fabric.free with
    owner := some 0, nodes := [0x0000000500020410, 0x0000000600020411], edges := [0x400030, 0x440030, 0xC40010, 0xC80011], binds := [0x01, 0x10000C0, 0x43],
    tokens := [0, 0, 0, 0] }) [(3, 4)])
  s.modRun 1 fun r => { r with fired := [(16, 7)] }

theorem witness_FabricEvents_collective :
    (grouped.collWaiting 1).map (fun x => (x.1.fired, x.2.2)) = some ([(16, 7)], 7) ∧ ((grouped.collWaiting 1).bind fun x => grouped.groupOf x.2.1).map (·.members) = some 2 ∧
    (grouped.fabric.nodes.any fun m => (assocGet [(16, (7 : BitVec 32))] (nodeNo m)).isNone) = true ∧ nodeType 0x0000000500020410 = 2 ∧ nodeOp 0x0000000500020410 = 4 := by decide +kernel

/-- Requester 7 may use 4 KiB of HBM at 0x1000. -/
def granting : State :=
  { core with hiend := { Hiend.fresh with owner := { Owner.fresh with grants := [{ rvid := 7, base := 0x1000, size := 0x1000, read := true, write := true }] } } }
def train1 : Train := { src := 3, rvid := 7, tag := 5, elems := [(0x1000, [1, 2])], count := 1, units := none }

theorem witness_LinkEvents :
    (3, 5) ∉ granting.hiend.tags ∧ train1.elems.length = train1.count ∧ granting.refusedElem 7 train1.elems 0 = none ∧ granting.bounce = none ∧
    (3, 5) ∈ ({ granting with hiend := { granting.hiend with tags := [(3, 5)] } } : State).hiend.tags ∧ ({ train1 with count := 2 } : Train).elems.length ≠ 2 ∧
    core.refusedElem 7 train1.elems 0 = some (cPAGE, 0) ∧ granting.refuseIn 7 0x1000 8 true false = none ∧ granting.refuseIn 7 0x1000 64 true false = none ∧
    granting.refuseIn 7 0x1000 4 false true = none ∧ core.refuseIn 7 0x1000 8 true false = some cPAGE ∧ core.refuseIn 7 0x1000 4 false true = some cPAGE ∧
    core.awaitsRemote = false ∧ ({ core with th := { core.th with await := some (.access 0) } } : State).awaitsRemote = true ∧
    ({ core with th := { core.th with await := some (.access 0) } } : State).th.idempotentOut = [] := by decide +kernel

/-- A ring of one entry for the receives of the absent context 5, which holds the granted page of a slice; full, and with room. -/
def ringed (used : Nat) : State :=
  { granting with allocs := [(sliceBase 0 0, 0x1000, 5)], tiles := [((0, 0), { Tile.fresh with owner := some 6 })], bounce := some { base := 0x8000, size := 1, used := used, payload := 0 },
                  hiend := { granting.hiend with owner := { Owner.fresh with grants := [{ rvid := 7, base := sliceBase 0 0, size := 0x1000, read := true, write := true }] } } }
def train2 : Train := { train1 with elems := [(sliceBase 0 0, [1, 2])] }

theorem witness_LinkEvents_ring :
    (ringed 0).goesToRing (sliceBase 0 0) = true ∧ (ringed 1).bounceRoom 1 = false ∧ (ringed 0).bounceRoom 1 = true ∧ (3, 5) ∉ (ringed 0).hiend.tags ∧
    train2.elems.length = train2.count ∧ (ringed 0).refusedElem 7 train2.elems 0 = none ∧ (train2.elems.filter fun x => (ringed 0).goesToRing x.1).length = 1 ∧
    (train1.elems.filter fun x => granting.goesToRing x.1) = [] ∧ granting.bounceRoom 0 = true ∧
    (ringed 0).refuseIn 7 (sliceBase 0 0) 4 false true = none := by decide +kernel

/-- An addition of 2 to the word at 0x1000, with its old value returned. -/
def req1 : Request :=
  { inc := 0, rvid := 7, serial := 4, wm := 3, op := 1, ret := true, cls := .amo, w64 := true, elems := [{ addr := 0x1000, data := 2, dataB := 0, dataC := 0 }], whole := true }
def ownerWith (f : Owner → Owner) : State := { granting with hiend := { granting.hiend with owner := f granting.hiend.owner } }

theorem witness_OwnerEvents :
    7 ∈ (ownerWith fun o => { o with quarant := [7] }).hiend.owner.quarant ∧ 7 ∉ granting.hiend.owner.quarant ∧ req1.inc = granting.hiend.owner.inc ∧ req1.whole = true ∧
    (1 : BitVec 16) ≠ granting.hiend.owner.inc ∧ ((granting.hiend.owner.raiseFloor 7 3).cache.find? fun e => e.rvid = 7 && e.serial = 4) = none ∧
    (∀ f, assocGet (granting.hiend.owner.raiseFloor 7 3).floors (7 : BitVec 24) = some f → atOrBelow f 4 = false) ∧
    (granting.hiend.owner.raiseFloor 7 3).cache.length < (granting.hiend.owner.raiseFloor 7 3).room ∧
    (granting.hiend.owner.raiseFloor 7 3).firstRefused 7 (reqSize req1) (req1.elems.map (·.addr)) 0 = none ∧ granting.badElem req1 req1.elems 0 = none := by
  refine ⟨?_, ?_, ?_, ?_, ?_, ?_, ?_, ?_⟩
  · decide +kernel
  · decide +kernel
  · decide +kernel
  · decide +kernel
  · decide +kernel
  · decide +kernel
  · intro f h
    have e : assocGet (granting.hiend.owner.raiseFloor 7 3).floors (7 : BitVec 24) = some 3 := by decide +kernel
    rw [e] at h
    cases h
    decide
  · decide +kernel

/-- An entry for serial 4, a floor at 4, no room, no grant, and an element outside memory. -/
theorem witness_OwnerEvents_more :
    (((ownerWith fun o => { o with cache := [{ rvid := 7, serial := 4, reply := some .ack }] }).hiend.owner.raiseFloor 7 3).cache.find? fun e => e.rvid = 7 && e.serial = 4).isSome = true ∧
    (ownerWith fun o => { o with cache := [{ rvid := 7, serial := 4, reply := some .ack }] }).hiend.owner.holdsAbove 7 = true ∧ granting.hiend.owner.holdsAbove 7 = false ∧
    assocGet (granting.hiend.owner.raiseFloor 7 4).floors 7 = some 4 ∧ atOrBelow (4 : BitVec 32) 4 = true ∧
    ((ownerWith fun o => { o with room := 0 }).hiend.owner.raiseFloor 7 3).room ≤ ((ownerWith fun o => { o with room := 0 }).hiend.owner.raiseFloor 7 3).cache.length ∧
    (core.hiend.owner.raiseFloor 7 3).firstRefused 7 8 [0x1000] 0 = some (cPAGE, 0) ∧ ({ granting with badUnit := [0x1000 / 32] } : State).badElem req1 req1.elems 0 = some (cDABORT, 0) := by
  decide +kernel

/-- The request is applied, and answered with the old value. -/
theorem witness_ExactlyOnce :
    sees (.ownerRequest 0x0011 req1) granting (fun t => (t.hiend.replies, t.mem)) = some (granting.hiend.replies ++ [(7, 4, .results [0])], [(0x1000, 2)]) ∧
    granting.hiend.id = 0x0011 := by decide +kernel

/-- Serial 1 of the thread's scalar atomic on device 5, which waits for its reply. -/
def out1 : OutSerial :=
  { serial := 1, dev := 5, req := { req1 with serial := 1 }, st := .awaiting, kind := 0, tid := 0, id := 0, pc := 2, va := [0x100], elems := [0], post := 0, xd := 9, xreq := 0, minor := 1, et := 3, pay := 0, gen := none }
def asked : State := { slow with ctxs := [{ ctx0 with out := [out1] }], th := { slow.th with await := some (.serial 2 1) } }

theorem witness_RequesterEvents :
    asked.ctx 0 = some { ctx0 with out := [out1] } ∧ ([out1].find? fun (y : OutSerial) => y.serial = 1 && y.st = .awaiting) = some out1 ∧ out1.kind = 0 ∧ out1.tid = asked.th.tid ∧
    out1.req.cls = .amo ∧ ctx0.frozen = false ∧ asked.holdsReply out1 = false ∧ cPAGE ≠ 0x0C ∧
    ({ asked with th := { asked.th with unchecked := [(1, 0)] } } : State).holdsReply out1 = true ∧ asked.peer 5 = none ∧
    (({ asked with peers := [{ id := 5, mem := [], owner := Owner.fresh, up := true }] } : State).peer 5).map (·.up) = some true := by decide +kernel

/-- A queue pair of the context with a region of 4 KiB at 0x3000, and a receive of 64 bytes. -/
def net1 : NetMsg := { qpn := 4, addr := 0x3000, len := 4, rkey := 9, data := [1, 2, 3, 4], imm := none }
def qp1 : QueuePair := { qpn := 4, ctx := 0, err := false, recvs := [20] }
def netted : State :=
  { mapped core with qps := [qp1], regions := [{ ctx := 0, base := 0x3000, len := 0x1000, rkey := 9, read := true, write := true, lword := 0x4000 }],
                     xfers := [{ issued .nxfer (leBytes 8 0x3000 ++ leBytes 8 0 ++ leBytes 4 64 ++ leBytes 44 0) with id := 20, units := 64 }] }

theorem witness_NetworkEvents :
    (∀ q ∈ core.qps, q.qpn ≠ net1.qpn) ∧ (netted.qps.find? fun q => q.qpn = 4) = some qp1 ∧ (netted.ctx 0).any (·.frozen) = false ∧
    (({ netted with ctxs := [{ ctx0 with frozen := true }] } : State).ctx 0).any (·.frozen) = true ∧ (netted.netRegion qp1 net1 true).isSome = true ∧
    netted.netRegion qp1 { net1 with rkey := 1 } true = none ∧ netted.netRegion qp1 { net1 with rkey := 1 } false = none ∧ net1.data.length = net1.len ∧
    ((netted.land 0 0x3000 0x4000 net1.data).toOption.map (·.2)) = some 0 ∧ (netted.netPieces 0 0x3000 .read 5 4).toOption.isSome = true ∧ netted.badUnit = [] ∧
    netted.nextRecv { qp1 with recvs := [] } = none ∧ (netted.nextRecv qp1).map (·.units) = some 64 ∧
    errOf ((paged netted 0).land 0 0x3000 0x4000 net1.data) = some (.fault cPAGE) ∧ errOf ((paged netted 0).netPieces 0 0x3000 .read 5 4) = some cPAGE := by
  decide +kernel

/-- A message to the page of the absent context, with a ring that is full, and with room. -/
def netRing (used : Nat) : State :=
  { paged netted (BitVec.ofNat 64 (sliceBase 0 0) ||| 0x3F) with
    allocs := [(sliceBase 0 0, 0x4000, 5)], bounce := some { base := 0x8000, size := 1, used := used, payload := 0 } }

theorem witness_NetworkEvents_ring :
    errOf ((netRing 1).land 0 0x3000 0x4000 net1.data) = some .full ∧ ((netRing 0).land 0 0x3000 0x4000 net1.data).toOption.map (·.2) = some 4 := by
  decide +kernel

/-- A bundle signed by the holder of key 0, of version 3. -/
def bundle (v : BitVec 32) : Bundle :=
  { magic := 0x57465643, ver := v, minver := 2, bad := false, key := 0, header := [], sig := Config.sm2SignBy 0 [],
    comps := [(0, [], Config.sm3 []), (1, [], Config.sm3 []), (2, [], Config.sm3 [])] }

theorem slotValid_bundle (v : BitVec 32) : slotValid 0 (some (bundle v)) = true := by
  simp [slotValid, bundleValid, bundleSigned, bundle, Config.sm2Verify, BitVec.ult]

theorem witness_DeviceEvents_boot :
    slotValid core.svc.counter core.svc.flash[0]? = false ∧ slotValid 0 [bundle 3][0]? = true ∧ [bundle 3][0]? = some (bundle 3) ∧ slotValid 0 [bundle 3][1]? = false ∧
    slotValid 0 [bundle 3, bundle 4][1]? = true ∧ (bundle 3).ver.toNat < (bundle 4).ver.toNat ∧ (bundle 3).ver.toNat ≤ (bundle 4).ver.toNat :=
  ⟨by decide +kernel, slotValid_bundle 3, rfl, rfl, slotValid_bundle 4, by simp [bundle], by simp [bundle]⟩

/-- A checkpoint as the device makes one of a machine without threads on tiles, and one under a wrong digest. -/
def ckpt : Ckpt := { mem := [], sched := Sched.empty, tiles := [], ctxs := [], threads := [], xfers := [], allocs := [], qps := [], regions := [], media := [], digest := Config.sm3 (imageBytes [] []), sig := Config.sm2Sign (Config.sm3 (imageBytes [] [])) }

theorem witness_DeviceEvents :
    mapsLegal core ∧ core.svc.running = none ∧ (core.freeze fun _ => true).2 = true ∧
    (({ core with others := [{ tile.th with tid := 20, unchecked := [(1, 0)] }] } : State).freeze (fun _ => true)).2 = false ∧ core.svc.recovery = false ∧
    ({ core with svc := { core.svc with ckpts := [ckpt] } } : State).svc.ckpts[0]? = some ckpt ∧ (∃ t ∈ core.threads, t.isCore = true) := by
  refine ⟨?_, ?_, ?_, ?_, ?_, rfl, ?_⟩ <;> (try unfold mapsLegal) <;> decide +kernel

theorem witness_DeviceEvents_valid : ckpt.valid = true ∧ ({ ckpt with digest := Config.sm3 (imageBytes [] []) ++ [0] } : Ckpt).valid = false := by
  constructor
  · simp [Ckpt.valid, ckpt]
  · simp [Ckpt.valid, ckpt]

/-- A core that runs for a launch of context 5, at a numbered request it must carry to its end, and not. -/
def carrying (s : State) : State := { s with th := { s.th with launch := 16, ctx := 5, await := some (.serial 2 1) } }

theorem witness_DeviceEvents_migration :
    ((carrying core).threads.any fun t => [5].contains t.ctx.toNat && t.isCore && t.run == .running && t.launch != 0 && t.mustCarry) = true ∧
    (core.threads.any fun t => [5].contains t.ctx.toNat && t.isCore && t.run == .running && t.launch != 0 && t.mustCarry) = false ∧
    (core.freeze fun c => [5].contains c.toNat).2 = true ∧ ((carrying core).freeze fun c => [5].contains c.toNat).2 = false ∧
    (core.freeze fun c => ([] : List Nat).contains c.toNat).2 = true := by decide +kernel

/-- A migration of no context fits every device. -/
theorem witness_DeviceEvents_fits (dev : BitVec 14) : ∀ c ∈ ([] : List Nat), Config.candidate dev (BitVec.ofNat 32 c) = true := nofun

theorem witness_ServiceEvents :
    core.svc.lvl ≤ 15 ∧ core.svc.pwrcap.toNat < 2001 ∧ ¬(core.svc.pwrcap.toNat < 100 ∨ 105 < 20) ∧ ({ core.svc with lvl := 3 } : Service).lvl ≠ 0 ∧ core.svc.upd ≠ 1 ∧
    ({ core.svc with upd := 1 } : Service).upd = 1 ∧ bundleValid core.svc.counter (bundleOf core.mem 0 0) = false ∧ core.svc.updBundle = none ∧
    ({ core.svc with upd := 1, updBundle := some (bundle 3) } : Service).updBundle = some (bundle 3) ∧ core.svc.recovery = false ∧ core.sched.paused = false ∧
    ({ core.sched with paused := true } : Sched).paused = true ∧ (core.sched.launches.any fun l => l.todo != [] && l.ran != [] && !l.failed) = false ∧
    ([({ waiting with todo := [(0, 0, 0, 0)], ran := [(0, 0)] } : Launch)].any fun l => l.todo != [] && l.ran != [] && !l.failed) = true := by
  refine ⟨?_, ?_, ?_, ?_, ?_, rfl, ?_, ?_, rfl, ?_⟩ <;> decide +kernel

theorem witness_StepKeepsMemoryForm : memoryLegal inLine = true ∧ ((next? (step inLine)).map memoryLegal) = some true := by decide +kernel

/-! ### Tile steps, and what elements receive -/

/-- Each tile instruction at the head of its tile's queue. -/
def sliding : State := fired (.tmms mx) (setXs slow4 [(12, 0x30000)])
def opaO : VOp := { vo with vd := 0, vs1 := 1, src2 := .v 2, et := 9 }
def outer : State := fired (.vopa opaO) (setVr (setVr slow4 1 9 [(0, 5)]) 2 9 [(0, 6)])
def fetchingRow : State := fired (.tmovr 4 0 7) (setXs slow4 [(7, 3)])
def puttingRow : State := fired (.tmvr 0 4 7) (setXs (setVr slow4 4 6 [(0, 0x3F800000)]) [(7, 3)])

theorem witness_TileSteps :
    (∀ s ∈ [zeroing, multiplying, sliding, outer, fetchingRow, puttingRow], tileTurn s 0 1 (entry1 s) ∧ keysRise (s.myTile.zAt 0).data = true) ∧
    (entry1 zeroing).instr = .tzero 0 ∧ (entry1 multiplying).instr = .tmma mx ∧ (entry1 sliding).instr = .tmms mx ∧ (entry1 outer).instr = .vopa opaO ∧
    (entry1 fetchingRow).instr = .tmovr 4 0 7 ∧ (entry1 puttingRow).instr = .tmvr 0 4 7 ∧
    depthOf mx (((entry1 multiplying).xs.drop 2).headD 0) = some (0, 3) ∧ depthOf mx (((entry1 sliding).xs.drop 2).headD 0) = some (0, 3) ∧
    (∀ j < 4, outer.th.kElem 1 0 j = some true ∧ (outer.th.vElem 1 2 9 j).isSome = true ∧ (outer.th.vElem 1 1 9 j).isSome = true) ∧
    fetchingRow.th.heldAt (entry1 fetchingRow) (List.range 64) = false ∧ intoV fetchingRow 1 4 6 ∧ (entry1 fetchingRow).xs.headD 0 = 3 ∧
    (∀ j < 64, (puttingRow.th.vElem 1 4 6 j).isSome = true) := by
  unfold tileTurn inWindow intoV; decide +kernel

/-- R191, R192: the row and the elements that move. -/
theorem test_tile_rows :
    sees (.tileStep 0 0 .clean) puttingRow (fun t => ((t.myTile.zAt 0).get 3 0, (t.myTile.zAt 0).get 2 0)) = some (0x3F800000, 0) := by decide +kernel

theorem partHere_of {s : State} {acc : Access} {a : Word} {n pa : Nat}
    (h : (decide (∀ i < n, paKind (pa + i) ≠ .reg) && !s.touchesBad pa n && decide (a.toNat % n = 0) && decide (hereOf (s.locate a acc) = some pa)) = true) :
    partHere s false acc a n pa := by
  simp only [Bool.and_eq_true, decide_eq_true_eq, Bool.not_eq_true'] at h
  refine ⟨h.1.1.1, h.1.1.2, ?_⟩
  simp only [Bool.false_eq_true, if_false]
  refine ⟨h.1.2, ?_⟩
  have h2 := h.2
  generalize s.locate a acc = r at h2 ⊢
  rcases r with _ | ⟨_ | _, c⟩ <;> simp_all [hereOf]

/-- z0 loaded from and stored to f32 rows of 2 elements at 0x1000, 0x400 bytes apart, with the policy that a row moves whole. -/
def rowed (i : Instr) : State :=
  fired i (setXs (withBytes { mapped slow4 with policy := { slow.policy with whole := true } } 0x1000 [1, 2, 3, 4]) [(5, 0x1000), (13, 0x0000000200000400)])
def tmz : TMOp := { tm with tile := 0, mtype := 6 }

theorem witness_TileSteps_rows :
    (∀ s ∈ [rowed (.tld tmz), rowed (.tst tmz)], tileTurn s 0 1 (entry1 s) ∧ (shapeOf tmz.tile (((entry1 s).xs.drop 1).headD 0)).cols = 2 ∧
      rowAddr (entry1 s) tmz 0 = 0x1000 ∧ (entry1 s).prog = 0 ∧ mustFollow s (some 1) 0x1000 (rowBytes 6 2) = false ∧ keysRise (s.myTile.zAt 0).data = true ∧
      s.policy.whole = true ∧ s.policy.apply = false ∧ (s.myTile.zAt 0).dropped = false) ∧
    (entry1 (rowed (.tld tmz))).instr = .tld tmz ∧ (entry1 (rowed (.tst tmz))).instr = .tst tmz ∧
    maskBit tmz.xrows (((entry1 (rowed (.tst tmz))).xs.drop 2).headD 0) 0 = true ∧
    (∀ x ∈ rowParts 6 2, (rowed (.tst tmz)).wordsAt (0x1000 + x.1) x.2 = []) ∧
    ((rowParts 6 2).Pairwise fun x y => 0x1000 + x.1 + x.2 ≤ 0x1000 + y.1 ∨ 0x1000 + y.1 + y.2 ≤ 0x1000 + x.1) := by
  unfold tileTurn inWindow; decide +kernel

theorem witness_TileSteps_parts (i : Instr) (hi : i = .tld tmz ∨ i = .tst tmz) (acc : Access) (ha : acc = .read ∨ acc = .write) :
    ∀ x ∈ rowParts 6 2, partHere (rowed i) false acc (0x1000 + BitVec.ofNat 64 x.1) x.2 (0x1000 + x.1) := by
  have h : ∀ i ∈ [Instr.tld tmz, .tst tmz], ∀ acc ∈ [Access.read, .write], ((rowParts 6 2).all fun x =>
      decide (∀ j < x.2, paKind (0x1000 + x.1 + j) ≠ .reg) && !(rowed i).touchesBad (0x1000 + x.1) x.2 &&
        decide ((0x1000 + BitVec.ofNat 64 x.1 : Word).toNat % x.2 = 0) &&
        decide (hereOf ((rowed i).locate (0x1000 + BitVec.ofNat 64 x.1) acc) = some (0x1000 + x.1))) = true := by decide +kernel
  intro x hx
  exact partHere_of (List.all_eq_true.mp (h i (by simpa using hi) acc (by simpa using ha)) x hx)

/-- R195, R198: the row of four bytes 1–4 becomes the first element's pattern, and goes back as it stands. -/
theorem test_tile_transfer :
    sees (.tileStep 0 0 .clean) (rowed (.tld tmz)) (fun t => ((t.myTile.zAt 0).get 0 0, (t.myTile.zAt 0).get 0 1)) = some (0x04030201, 0) ∧
    sees (.tileStep 0 0 .clean) (rowed (.tst tmz)) (fun t => memRead t.mem 0x1000 4 == [1, 2, 3, 4] && t.readBytes (some (0, 0)) 0x1000 4 == [0, 0, 0, 0]) = some true := by
  decide +kernel

/-- A comparison into k2, of integers, floats and log codes. -/
def kd : VOp := { vo with vd := 2 }
def logs : State := setVr (setVr slow4 1 9 [(0, 0x4100)]) 3 9 [(0, 0x4200)]

theorem witness_ElementValues_compare :
    (∀ p ∈ [(slow4, kd), (floats, { kd with et := 6 }), (logs, { kd with et := 9 })],
      let s := fired (.vlt p.2) p.1
      active s 0 1 0 (entry1 s) p.2 ∧ intoK s 1 p.2 ∧ (entry1 s).instr = .vlt p.2 ∧ (s.th.vElem 1 1 p.2.et 0).isSome = true ∧
      (s.th.second (entry1 s) 0x32 2 p.2 p.2.et 0).isSome = true) ∧
    isIntT 2 = true ∧ isFloatT 6 = true ∧ isLogT 9 = true := by
  unfold active canFire inWindow intoK; decide +kernel

/-- Conversions between the four kinds of type, `vretag`, and `vquant` of four f32 elements into v2 of bx8. -/
theorem witness_ElementValues_convert :
    ∀ p ∈ [(slow4, { vo with et := 6, src2 := .v 0 }), (floats, { vo with et := 2, src2 := .v 0 }), (logs, { vo with et := 6, src2 := .v 0 }),
        (setVr slow4 1 8 [], { vo with et := 9, src2 := .v 0 }), (logs, { vo with et := 8, src2 := .v 0 })],
      active (fired (.vcvt p.2) p.1) 0 1 0 (entry1 (fired (.vcvt p.2) p.1)) p.2 ∧ intoV (fired (.vcvt p.2) p.1) 1 p.2.vd p.2.et ∧
      (entry1 (fired (.vcvt p.2) p.1)).instr = .vcvt p.2 ∧
      ((fired (.vcvt p.2) p.1).th.vElem 1 1 ((fired (.vcvt p.2) p.1).th.tagBy 1 1) 0).isSome = true := by
  unfold active canFire inWindow intoV; decide +kernel

def bxIn : State := fired (.vcvt { vo with et := 6, src2 := .v 0 }) (setVr slow4 1 12 [])
def retagged : State := fired (.vretag { vo with et := 6, src2 := .v 0 }) slow4
def quantised : State := fired (.vquant { vo with et := 12, src2 := .v 0 }) floats

theorem witness_ElementValues_convert_bx :
    active bxIn 0 1 0 (entry1 bxIn) { vo with et := 6, src2 := .v 0 } ∧ isBx (bxIn.th.tagBy 1 1) = true ∧ (bxIn.th.bxElem 1 1 (bxIn.th.tagBy 1 1) 0).isSome = true ∧
    active retagged 0 1 0 (entry1 retagged) { vo with et := 6, src2 := .v 0 } ∧ (entry1 retagged).instr = .vretag { vo with et := 6, src2 := .v 0 } ∧
    intoV retagged 1 2 6 ∧ (retagged.th.vElem 1 1 6 0).isSome = true ∧
    active quantised 0 1 0 (entry1 quantised) { vo with et := 12, src2 := .v 0 } ∧ (entry1 quantised).instr = .vquant { vo with et := 12, src2 := .v 0 } ∧
    intoV quantised 1 2 12 ∧ quantised.th.heldAt (entry1 quantised) (blockOf 0) = false ∧ (entry1 quantised).vl = 4 ∧
    (∀ i < 4, (quantised.th.vElem 1 1 (quantised.th.tagBy 1 1) i).isSome = true) := by
  unfold active canFire inWindow intoV; decide +kernel

/-- The log-domain sum of two l16 codes, the power by an i16 exponent and the reciprocal. -/
theorem witness_ElementValues_log :
    (let o : VOp := { vo with et := 9 }
     let s := fired (.vladd o) logs
     active s 0 1 0 (entry1 s) o ∧ intoV s 1 2 9 ∧ (entry1 s).instr = .vladd o ∧ s.th.vElem 1 1 9 0 = some 0x4100 ∧
     s.th.second (entry1 s) 0x38 0 o 9 0 = some 0x4200) ∧
    (let o : VOp := { vo with et := 9, src2 := .v 0 }
     let s := fired (.vlrecip o) logs
     active s 0 1 0 (entry1 s) o ∧ (entry1 s).instr = .vlrecip o) ∧
    (let o : VOp := { vo with et := 9 }
     let s := fired (.vlpow o) (setVr logs 3 1 [(0, 2)])
     active s 0 1 0 (entry1 s) o ∧ (entry1 s).instr = .vlpow o ∧ s.th.second (entry1 s) 0x38 2 o 1 0 = some 2) := by
  unfold active canFire inWindow intoV; decide +kernel

/-- R116, R119: 0 < 0 is false and clears the bit; i32 0 converts to f32 +0 and f32 1.5 to i32 2 (RNE). -/
theorem test_convert :
    sees (.elementFire 0 0 0 .clean) (fired (.vlt kd) slow4) (fun t => (t.th.partOr.kreg 2).new.elem 0) = some (some false) ∧
    sees (.elementFire 0 0 0 .clean) (fired (.vcvt { vo with et := 2, src2 := .v 0 }) floats) (fun t => ((t.th.partOr.vreg 2).new.elem 0, t.th.fcsr)) = some (some 2, 1) := by
  decide +kernel

/-- An ordered sum, a tree and a maximum of four elements of i32 into v2, at their first element; and at their end, where an earlier reader of v2
has held the result until it fired. -/
def ro : VOp := { vo with src2 := .v 0 }
def ones : State := setVr slow4 1 2 [(0, 1), (1, 2), (2, 3), (3, 4)]
def reducing (i : Instr) : State := fired i ones
def summed (i : Instr) : State :=
  fired (.elementFire 0 0 0 .clean) ((List.range 4).foldl (fun s u => fired (.elementFire 0 1 u .clean) s) (fired i (fired (.vaddInt { vo with vd := 5, vs1 := 2 }) ones)))
def entry2 (s : State) : Entry := (s.th.entry 2).getD (ent s .nop)

theorem witness_ElementMoves_reduce :
    (∀ i ∈ [(Instr.vredsumOrd ro, 0), (.vredsumTree ro, 1), (.vredmax ro, 2)],
      let s := reducing i.1
      let e := entry1 s
      inWindow s 0 1 e ∧ vkey e.instr = some (0x34, i.2, ro) ∧ 0 < e.vl ∧ e.isDone 0 = false ∧ s.th.kElem 1 0 0 = some true ∧ s.th.vElem 1 1 2 0 = some 1 ∧
      e.isDone 1 = false ∧ s.th.kElem 1 0 1 ≠ some false ∧ s.th.elemsUpTo 1 1 2 0 = true ∧ lowerFired s.th e 0 0 = true ∧ (redInit s.th e ro).isSome = true ∧ e.acc = []) := by
  unfold inWindow; decide +kernel

/-- An ordered sum of no active element has its result to come alone. -/
def noneActive : State := summed (.vredsumOrd { ro with k := 1 })

theorem witness_ElementMoves_reduceEnd :
    inWindow (summed (.vredsumTree ro)) 1 2 (entry2 (summed (.vredsumTree ro))) ∧ vkey (entry2 (summed (.vredsumTree ro))).instr = some (0x34, 1, ro) ∧
    (entry2 (summed (.vredsumTree ro))).allBelow 4 = true ∧ (entry2 (summed (.vredsumTree ro))).vl = 4 ∧ (entry2 (summed (.vredsumTree ro))).isDone 4 = false ∧
    intoV (summed (.vredsumTree ro)) 2 2 2 ∧ (summed (.vredsumTree ro)).th.held? (entry2 (summed (.vredsumTree ro))) 0 = false ∧ redToX ro = false ∧
    redInit (summed (.vredsumTree ro)).th (entry2 (summed (.vredsumTree ro))) ro = some 0 ∧
    (∀ j < 4, (summed (.vredsumTree ro)).th.kElem 2 0 j = some true ∧ (summed (.vredsumTree ro)).th.vElem 2 1 2 j = some (j + 1)) := by
  unfold inWindow intoV; decide +kernel

theorem witness_ElementMoves_reduceEnds :
    inWindow (summed (.vredmax ro)) 1 2 (entry2 (summed (.vredmax ro))) ∧ vkey (entry2 (summed (.vredmax ro))).instr = some (0x34, 2, ro) ∧
    (entry2 (summed (.vredmax ro))).allBelow 4 = true ∧ (entry2 (summed (.vredmax ro))).isDone 4 = false ∧ (entry2 (summed (.vredmax ro))).acc = [4] ∧
    inWindow noneActive 1 2 (entry2 noneActive) ∧ vkey (entry2 noneActive).instr = some (0x34, 0, { ro with k := 1 }) ∧ (entry2 noneActive).allBelow 4 = true ∧
    (entry2 noneActive).isDone 4 = false ∧ (entry2 noneActive).acc = [] ∧ (redInit noneActive.th (entry2 noneActive) ro).isSome = true := by
  unfold inWindow; decide +kernel

/-- R138: 1 + 2 + 3 + 4 in order and as a tree, and the maximum. -/
theorem test_reduce_end :
    sees (.elementFire 0 1 3 .clean) (summed (.vredsumOrd ro)) (fun t => (t.th.partOr.vreg 2).new.elem 0) = some (some 10) ∧
    sees (.elementFire 0 1 4 .clean) (summed (.vredsumTree ro)) (fun t => (t.th.partOr.vreg 2).new.elem 0) = some (some 10) ∧
    sees (.elementFire 0 1 4 .clean) (summed (.vredmax ro)) (fun t => (t.th.partOr.vreg 2).new.elem 0) = some (some 4) := by decide +kernel

/-- A maximum into x9, whose checked element has passed. -/
def rx : VOp := { ro with vd := 9, opt := 1 }
def toX9 : State := fired (.ganderCheck 0 0 0 false) ((List.range 4).foldl (fun s u => fired (.elementFire 0 0 u .clean) s) (fired (.vredmax rx) ones))

theorem witness_ElementMoves_reduceX :
    redToX rx = true ∧ inWindow toX9 0 1 (entry1 toX9) ∧ vkey (entry1 toX9).instr = some (0x34, 2, rx) ∧ (entry1 toX9).allBelow 4 = true ∧ (entry1 toX9).vl = 4 ∧
    (entry1 toX9).isDone 4 = false ∧ toX9.th.awaitsCheck 64 (entry1 toX9) none = false ∧ toX9.th.unchecked = [] ∧ (redInit toX9.th (entry1 toX9) rx).isSome = true := by
  unfold inWindow; decide +kernel

/-- Permutes of v1 = 1, 2, 3, 4 by one place, a gather of element 2, and their sources. -/
def po : VOp := { vo with src2 := .imm 1 }
def permuting (i : Instr) (u : Nat) : State := (List.range u).foldl (fun s j => fired (.elementFire 0 0 j .clean) s) (fired i (setVr slow4 1 2 [(0, 1), (1, 2), (2, 3), (3, 4)]))

theorem witness_ElementMoves_permute :
    (∀ p ∈ [(Instr.vslideup po, 1), (.vslidedown po, 0), (.vslide1up ro, 1), (.vslide1down ro, 0), (.vgather po, 0), (.vcompress ro, 0), (.vexpand ro, 0), (.vrev ro, 0)],
      let s := permuting p.1 0
      let e := entry1 s
      let o := if p.1 = .vslideup po ∨ p.1 = .vslidedown po ∨ p.1 = .vgather po then po else ro
      active s 0 1 p.2 e o ∧ intoV s 1 2 2 ∧ e.instr = p.1 ∧ s.th.vElem 1 1 2 0 = some 1 ∧ s.th.vElem 1 1 2 1 = some 2 ∧ s.th.vElem 1 1 2 3 = some 4) ∧
    slideOff po (entry1 (permuting (.vslideup po) 0)).xs = 1 ∧
    (permuting (.vslideup po) 0).th.elemsUpTo 1 1 2 0 = true ∧ lowerFired (permuting (.vslideup po) 0).th (entry1 (permuting (.vslideup po) 0)) 0 1 = true ∧
    (permuting (.vslidedown po) 0).th.elemsUpTo 1 1 2 1 = true ∧ lowerFired (permuting (.vslidedown po) 0).th (entry1 (permuting (.vslidedown po) 0)) 0 0 = true ∧
    (entry1 (permuting (.vcompress ro) 0)).allBelow 0 = true ∧ (permuting (.vcompress ro) 0).th.held? (entry1 (permuting (.vcompress ro) 0)) 0 = false ∧
    (entry1 (permuting (.vcompress ro) 0)).prog = 0 ∧ (permuting (.vexpand ro) 0).th.bitsBelow 1 0 1 = true ∧
    ((permuting (.vslide1up ro) 0).th.second (entry1 (permuting (.vslide1up ro) 0)) 0x35 2 ro 2 0).isSome = true ∧
    ((permuting (.vslide1down ro) 0).th.second (entry1 (permuting (.vslide1down ro) 0)) 0x35 3 ro 2 3).isSome = true := by
  unfold active canFire inWindow intoV; decide +kernel

/-- R132, R136: one place up, and the reverse. -/
theorem test_permute :
    sees (.elementFire 0 0 1 .clean) (permuting (.vslideup po) 0) (fun t => (t.th.partOr.vreg 2).new.elem 1) = some (some 1) ∧
    sees (.elementFire 0 0 0 .clean) (permuting (.vrev ro) 0) (fun t => (t.th.partOr.vreg 2).new.elem 0) = some (some 4) := by decide +kernel

/-- Mask instructions from k1 and k3 into k2, `kiota` of k1 and `vid`. -/
def mk : VOp := { vo with et := 0 }

theorem witness_ElementMoves_mask :
    (∀ p ∈ [(Instr.kand mk, mk), (.knot { mk with src2 := .v 0 }, { mk with src2 := .v 0 }), (.kbrkb { mk with src2 := .v 0 }, { mk with src2 := .v 0 })],
      let s := fired p.1 slow4
      let e := entry1 s
      active s 0 1 0 e p.2 ∧ intoK s 1 p.2 ∧ e.instr = p.1 ∧ s.th.kElem 1 1 0 = some false ∧ s.th.kElem 1 3 0 = some false ∧
      s.th.bitsBelow 1 1 1 = true ∧ s.th.bitsBelow 1 0 1 = true ∧ lowerFired s.th e 0 0 = true) ∧
    (∀ p ∈ [(Instr.kiota ro, ro), (.vid { ro with vs1 := 0 }, { ro with vs1 := 0 })],
      let s := fired p.1 slow4
      let e := entry1 s
      active s 0 1 0 e p.2 ∧ intoV s 1 2 2 ∧ e.instr = p.1 ∧ s.th.bitsBelow 1 1 0 = true ∧ lowerFired s.th e 0 0 = true) := by
  unfold active canFire inWindow intoV intoK; decide +kernel

/-- Moves, and `vmerge` under k1 (false) and under no mask. -/
theorem witness_ElementMoves_move :
    (∀ p ∈ [(Instr.vmv ro, ro), (.vsplat ro, ro), (.vsplati ro, ro), (.vmvsx ro, ro), (.vmerge vo, vo), (.vmerge { vo with k := 1 }, { vo with k := 1 })],
      let s := fired p.1 slow4
      let e := entry1 s
      canFire s 0 1 0 e ∧ intoV s 1 2 2 ∧ e.instr = p.1 ∧ s.th.kElem 1 p.2.k 0 = some (p.2.k == 0) ∧ s.th.vElem 1 1 2 0 = some 0) ∧
    ((fired (.vmerge vo) slow4).th.second (entry1 (fired (.vmerge vo) slow4)) 0x37 5 vo 2 0).isSome = true := by
  unfold canFire inWindow intoV; decide +kernel
/-! ### Areas, transfers and devices -/

/-- The area of `saving`'s thread lies in HBM away from the page tables, so that nothing written to it moves it (R277, R281). -/
theorem saving_stands : areaStands saving 0 0x10000 0x10000 := by
  intro m f hm off ho acc ha
  have hs : areaSize = 0x64000 := rfl
  have rd : ∀ a n, 0x74000 ≤ a → memRead m a n = memRead saving.mem a n := by
    intro a n h
    apply Laws.bytes_ext (by rw [Laws.memRead_length, Laws.memRead_length])
    intro i hi
    rw [Laws.memRead_length] at hi
    rw [Laws.memRead_getD _ _ _ _ hi, Laws.memRead_getD _ _ _ _ hi, hm _ (by omega)]
  have hva : ((0x10000 : Word) + BitVec.ofNat 64 off).toNat = 0x10000 + off := by
    rw [BitVec.toNat_add, BitVec.toNat_ofNat, Nat.mod_eq_of_lt (a := off) (by omega)]; exact Nat.mod_eq_of_lt (by simp; omega)
  have idx : ∀ sh ∈ [47, 36, 25], (0x10000 + off) / 2 ^ sh % 2 ^ 11 = 0 := by
    intro sh h
    rw [Nat.div_eq_of_lt, Nat.zero_mod]
    exact Nat.lt_of_lt_of_le (by omega : 0x10000 + off < 2 ^ 25) (Nat.pow_le_pow_right (by decide) (by simp at h; omega))
  have slot : ∀ sh ∈ [47, 36, 25], ∀ table k, 0x74000 ≤ table → runSlot m (0x10000 + off) sh table k = leWord (memRead saving.mem (table + 8 * k) 8) := by
    intro sh h table k ht
    simp only [runSlot, idx sh h, Nat.zero_mod, Nat.sub_zero, Nat.zero_add]
    rw [rd _ _ (by omega)]
  have e0 : runEntry m f (0x10000 + off) 47 0x200000 = (0x204001, 47) := by
    rw [runEntry, if_pos (Or.inl (by decide)), idx 47 (by simp), slot 47 (by simp) _ _ (by decide)]; decide +kernel
  have e1 : runEntry m f (0x10000 + off) 36 0x204000 = (0x208001, 36) := by
    rw [runEntry, if_pos (Or.inl (by decide)), idx 36 (by simp), slot 36 (by simp) _ _ (by decide)]; decide +kernel
  have e2 : runEntry m f (0x10000 + off) 25 0x208000 = (0x3F, 25) := by
    have c : ((List.range 16).any fun k => contOf (leWord (memRead saving.mem (0x208000 + 8 * k) 8))) = false := by decide +kernel
    simp only [runEntry, slot 25 (by simp) 0x208000 _ (by decide), idx 25 (by simp), c]
    rw [if_pos (show 25 < 25 ∨ (!false) = true from .inr rfl)]
    decide +kernel
  have bad : ∀ va sh table, ({ saving with mem := m, fresh := f } : State).walkBad va sh table = false := by
    intro va sh table
    have hb : ∀ pa n, ({ saving with mem := m, fresh := f } : State).touchesBad pa n = false := fun _ _ => rfl
    simp [State.walkBad, hb]
  have w : walk ({ saving with mem := m, fresh := f } : State) 0x200000 (0x10000 + off) = .ok (0x3F, 25) := by
    have b0 : entryBase 0x204001 = 0x204000 := by decide
    have b1 : entryBase 0x208001 = 0x208000 := by decide
    simp only [walk, walkFrom, e0, e1, e2, bad, b0, b1]
    rfl
  have g : grants 0x3F 1 acc = true := by
    simp only [List.mem_cons, List.not_mem_nil, or_false] at ha
    rcases ha with rfl | rfl <;> decide
  have l : leafLoc saving.hiend.id true 0x3F 25 (0x10000 + off) = .ok (.here (0x10000 + off)) := by
    have hb : entryBase 0x3F = 0 := by decide
    have hk : paKind (0x10000 + off) ≠ .reserved := by unfold paKind; split <;> simp_all <;> omega
    simp only [leafLoc, hb, Nat.zero_add, Nat.mod_eq_of_lt (show 0x10000 + off < 2 ^ 25 by omega)]
    simp [hk]
  have r : ∀ pa, ({ saving with mem := m, fresh := f } : State).sliceRetired pa = false := by
    intro pa
    have h : ∀ x ∈ saving.tiles, x.2.retired = false := by decide +kernel
    simp only [State.sliceRetired, List.any_eq_false]
    intro x hx
    simp [h x hx]
  have hc : ({ saving with mem := m, fresh := f } : State).ctx 0 = some ctx0 := by rfl
  have hp : ctx0.ptroot = 0x200000 := rfl
  have big : ¬(0x10000 + off ≥ 2 ^ 56) := by omega
  simp only [State.paOf, State.resolve, Sys2Proof.Machine.translate, translateNow, hva, hc, hp, w, g, if_neg big, if_true]
  simp only [if_neg (show ¬(1 : BitVec 2) = 3 by decide), l, State.usable, r, Except.map]
  rfl

/-- The same area with one entry, a vector addition. -/
def oneEntry : State := match encode (.vaddInt vo) with
  | some c => withBytes (withBytes saving 0x11108 (leBytes 2 c.head.toNat)) 0x11110 (leBytes 8 c.tail.toNat)
  | none => saving

theorem witness_SaveAndRestore_area :
    areaStands saving 0 0x10000 0x10000 ∧ saving.badUnit = [] ∧ saving.mem.wf = true ∧ saving.th.grant ≤ 1024 ∧ saving.th.grant % 8 = 0 ∧ saving.th.window.length ≤ 32 ∧
    saving.readEntries 0x10000 0 = some [] ∧ ((oneEntry.readEntries 0x10000 1).any fun l => l.length == 1) = true :=
  ⟨saving_stands, by decide +kernel⟩

/-- Areas that touch an uncorrectable unit, and that lie on another device's page. -/
def badArea : State := { saved with badUnit := [0x12000 / 32] }
def farArea : State := setXs (paged slow 0x001600000000403F) [(1, 0x1000)]

theorem witness_SaveAndRestore_refused :
    quiet badArea ∧ badArea.th.isCore = false ∧ badArea.th.pl ≠ 0 ∧ badArea.drainOwn.passable 0 0 0 = true ∧ badArea.getX 1 = 0x10000 ∧
    badArea.drainOwn.areaBad 0 0x10000 = some 0x12000 ∧ saved.drainOwn.areaBad 0 0x10000 = none ∧
    quiet farArea ∧ farArea.drainOwn.passable 0 0 0 = true ∧ farArea.drainOwn.areaFault 0x1000 .read (areaPages 0x1000) = some (cPROT, 0x1000, false) := by
  unfold quiet; decide +kernel

/-! Vector memory of the other modes: ordered by index, the hall's gallery, blocks, and additions of floats. -/

def mo0 : VMOp := { mo with idx := 6 }
def mem5 : State := setVr mem4 6 2 []
/-- The page of the tile's gallery slice. -/
def inGallery : State :=
  setXs (setVr (setVr (paged slow4 (BitVec.ofNat 64 (sliceBase 0 0) ||| 0x3F)) 4 6 [(0, 5)]) 6 2 []) [(5, 0x100)]

theorem witness_MemoryElements_ordered :
    mapsLegal mem5 ∧ mapsLegal inGallery ∧
    (∀ i ∈ [(mem5, Instr.vldxo mo0, 0x4100), (mem5, .vstxo mo0, 0x4100), (mem5, .vamoFadd 3 { mo0 with r := true, aux := 4, v := 8 }, 0x4100),
        (mem5, .vamoFadd 2 mo0, 0x4100), (inGallery, .vldc mo0, sliceBase 0 0 + 0x100), (inGallery, .vstc mo0, sliceBase 0 0 + 0x100)],
      let s := fired i.2.1 i.1
      let e := entry1 s
      inWindow s 0 1 e ∧ e.instr = i.2.1 ∧ 0 < e.vl ∧ e.isDone 0 = false ∧ e.formed = [] ∧ e.sent = [] ∧ s.th.kElem 1 0 0 = some true ∧
      s.th.heldAt e [0] = false ∧ s.th.awaitsCheck 64 e (some 0) = false ∧ e.xs.headD 0 = 0x100 ∧ s.th.vElem 1 6 2 0 = some 0 ∧ s.th.vElem 1 4 6 0 = some (if i.2.2 = 0x4100 then 0x3F800000 else 5) ∧
      (s.locate 0x100 .both).toOption.map (·.1) = some (.here i.2.2) ∧ s.touchesBad i.2.2 4 = false ∧ s.partlyBad i.2.2 4 = false ∧ mustFollow s (some 1) 0x100 4 = false ∧
      s.wordsAt i.2.2 4 = [] ∧ lowerFired s.th e 0 0 = true ∧ belowPI s.th e 0 [(4, 6), (6, 2)] 0 = true ∧ earlierApplied s 1 = true ∧ queuesWhole s) ∧
    inGallery.th.place = some (0, 0) ∧ paKind (sliceBase 0 0 + 0x100) = .gallery ∧ (sliceBase 0 0 + 0x100) / 2 ^ 24 % 2 ^ 8 = 0 ∧ paKind 0x4100 = .hbm ∧
    intoV (fired (.vldxo mo0) mem5) 1 4 6 ∧ intoV (fired (.vldc mo0) inGallery) 1 4 6 := by
  unfold mapsLegal inWindow queuesWhole intoV; decide +kernel

/-- R164, R168: an ordered load, and 1.0 added to the pattern of a small f32. -/
theorem test_ordered :
    sees (.elementFire 0 0 0 .clean) (fired (.vldxo mo0) mem5) (fun t => ((t.th.partOr.vreg 4).new.elem 0)) = some (some 0x04030201) ∧
    sees (.elementFire 0 0 0 .clean) (fired (.vamoFadd 2 mo0) mem5) (fun t => wordAt t 0x4100 4) = some 0x3F800000 := by decide +kernel

/-- A block of bx8 loaded, stored as it stands, and quantised from f32. -/
def mob : VMOp := { mo with et := 12 }
def blocks : State := setVr mem4 4 12 ((List.range 16).map fun k => (k, 1))

theorem witness_MemoryElements_blocks :
    (∀ i ∈ [(mem4, Instr.vld mob), (blocks, .vst mob), (mem4, .vst mob)],
      let s := fired i.2 i.1
      let e := entry1 s
      inWindow s 0 1 e ∧ e.instr = i.2 ∧ 0 < e.vl ∧ e.isDone 0 = false ∧ e.formed = [] ∧ e.sent = [] ∧ s.th.kElem 1 0 0 = some true ∧ s.th.heldAt e (blockOf 0) = false ∧
      s.th.awaitsCheck 64 e none = false ∧ e.xs.headD 0 = 0x100 ∧ vmSize mob = 18 ∧ (∀ acc ∈ [Access.read, .write], (blockLocs s 0x100 18 acc).toOption = some [(.here 0x4100, 18)]) ∧
      s.touchesBad 0x4100 18 = false ∧ s.partlyBad 0x4100 18 = false ∧ mustFollow s (some 1) 0x100 18 = false ∧ s.wordsAt 0x4100 18 = [] ∧ lowerMeets s e 0 mob 0 0x100 = false ∧ queuesWhole s) ∧
    (∀ k < 18, paKind (0x4100 + k) ≠ .reg) ∧ (fired (.vst mob) blocks).th.tagBy 1 4 = 12 ∧ (∀ k < 16, (fired (.vst mob) blocks).th.vSlot 1 4 k = some 1) ∧
    (fired (.vst mob) mem4).th.tagBy 1 4 = 6 ∧ (∀ k < 16, k < (entry1 (fired (.vst mob) mem4)).vl → ((fired (.vst mob) mem4).th.vElem 1 4 6 k).isSome = true) ∧
    (fired (.vst mob) { mem4 with th := { mem4.th with seqn := 5 } }).th.checkedUnit (entry1 (fired (.vst mob) { mem4 with th := { mem4.th with seqn := 5 } })) 0 = none ∧
    intoV (fired (.vld mob) mem4) 1 4 12 ∧ (fired (.vld mob) { mem4 with policy := { mem4.policy with whole := true } }).policy.whole = true := by
  unfold inWindow queuesWhole intoV; decide +kernel
/-! ### Transfers -/

/-- A transfer of 64 bytes alone in the queue, with its block at 0x1000 and its landing word at 0x4000. -/
def queuedAs (x : Xfer) : State := { moving with xfers := [x] }

theorem witness_CopyMoves_atM : atM moving xcpy [(0x3000, 64), (0x2000, 64)] ∧ xcpy.units = xcpy.field 16 8 ∧ xcpy.zmode = 0 ∧ xcpy.moved = 0 ∧ xcpy.wrote = 0 := by
  unfold atM; decide +kernel

/-- A storage transfer in each direction, of a namespace that is granted to the context and of none. -/
def storageX (op : Byte) : Xfer := { xcpy with kind := .sxfer, params := leBytes 8 0x3000 ++ leBytes 12 0 ++ [1, op, 0, 0] ++ leBytes 4 5 ++ leBytes 36 0 }
def driven (op : Byte) : State := { queuedAs (storageX op) with spaces := [{ port := 1, nsid := 5, bsize := 512, plain := true, ctxs := [0] }] }

theorem witness_TransferResults_storage :
    (∀ op ∈ [(0 : Byte), 1], atM (driven op) (storageX op) [(0x3000, 64)] ∧ ((driven op).namespaceOf (storageX op)).any (fun m => m.ctxs.contains (storageX op).ctx) = true ∧
      atM (queuedAs (storageX op)) (storageX op) [(0x3000, 64)] ∧ ((queuedAs (storageX op)).namespaceOf (storageX op)).isNone = true) ∧
    (storageX 0).field 21 1 = 0 ∧ (storageX 1).field 21 1 ≠ 0 ∧ (List.replicate 64 (0 : Byte)).length = (storageX 0).units := by unfold atM; decide +kernel

/-- A grey JPEG picture of one pixel, to one f32 element at 0x3000. -/
def greyX : Xfer :=
  { xcpy with kind := .mdec, units := 4, params := leBytes 8 0x2000 ++ leBytes 4 16 ++ [2, 6, 3, 0] ++ leBytes 12 0 ++ leBytes 2 1 ++ leBytes 2 1 ++
                                                    leBytes 2 1 ++ leBytes 2 1 ++ leBytes 4 0 ++ leBytes 8 0x3000 ++ leBytes 16 0 ++ leBytes 8 16 ++ leBytes 4 0x3F800000 ++ leBytes 52 0 }
def grey : Picture := { depth := 8, comps := [(1, 1, [200])], written := true, shown := true, irap := true, order := 0 }

theorem witness_TransferResults_media :
    (greyX.outOrder (greyX.planes (grey.comps.length == 1))) = [(0, 0, 0)] ∧ (greyX.addr 40).toNat = 0x3000 ∧ greyX.outSize = 4 ∧ greyX.mdecBad = false ∧
    atM (queuedAs greyX) greyX [(0x3000, 4)] ∧ (queuedAs greyX).mediaStop greyX (some grey) = none ∧ greyX.supported grey = true ∧ greyX.fits grey = true ∧ greyX.field 16 8 = 0 ∧
    (greyX.mediaElem grey 0 0 0).isSome = true := by unfold atM; decide +kernel

/-- HEVC: a picture that is discarded, and one that is shown and not written. -/
def hevcX : Xfer := { greyX with params := patchAt greyX.params 12 [0] }

theorem witness_TransferResults_discarded :
    atM (queuedAs hevcX) hevcX [] ∧ hevcX.field 16 8 = 0 ∧ hevcX.field 12 1 = 0 ∧ (queuedAs hevcX).mediaStop hevcX (some { grey with written := false, shown := false }) = none ∧
    (queuedAs hevcX).mediaStop hevcX (some { grey with written := false }) = none := by unfold atM; decide +kernel

/-- R179: 200 with scale 1 and offset 0. -/
theorem test_media : sees (.transferComplete 20 (.media (some grey) 0)) (queuedAs greyX) (fun t => memRead t.mem 0x3000 4) = some (leBytes 4 0x43480000) := by decide +kernel

/-- A Send and an RDMA Read of 64 bytes on queue pair 0. -/
def sendX (op : Byte) : Xfer := { xcpy with kind := .nxfer, params := leBytes 8 0x3000 ++ leBytes 8 0 ++ leBytes 12 0 ++ [op] ++ leBytes 35 0 }
def linked (op : Byte) : State := { queuedAs (sendX op) with qps := [{ qpn := 0, ctx := 0, err := false, recvs := [] }] }

theorem witness_TransferResults_network :
    ∀ op ∈ [(0 : Byte), 2], atM (linked op) (sendX op) [(0x3000, 64)] ∧ ((linked op).pairOf (sendX op)).map (·.err) = some false ∧ (sendX op).field 28 1 ≠ 3 ∧
      (sendX op).field 28 1 = op.toNat ∧ (List.replicate 64 (0 : Byte)).length = (sendX op).units ∧ (linked op).netRefused (sendX op) = none := by unfold atM; decide +kernel

/-! ### Home, switches, links and services -/

/-- Queued writes that meet an uncorrectable unit in part, and a landing word in one. -/
theorem witness_HomeEvents_bad :
    (let s : State := { queued with badUnit := [8] }
     mapsLegal s ∧ (((s.hall 0).buffer[0]?).any fun w => s.partlyBad w.pa w.bytes.length) = true ∧ s.touchesBad 0x100 16 = true) ∧
    (((queued.hall 0).buffer[0]?).any fun w => queued.partlyBad w.pa w.bytes.length) = false := by unfold mapsLegal; decide +kernel

theorem witness_SwitchEvents_area :
    asleep.areaBad 0 0x10000 = none ∧ ((asleep.reload 0).ctx 0).isSome = true ∧
    (tile.threads.all fun t => t.loads == [] && t.window == []) = true ∧ (∀ t ∈ (marked none).threads, t.isCore = false → t.run = .running → t.readsBank = false) := by decide +kernel

/-- A train with units for a landing word at 0x1000, which stands in an uncorrectable unit. -/
theorem witness_LinkEvents_word :
    (let t : Train := { train1 with units := some (0x1000, 4) }
     let s : State := { granting with badUnit := [0x1000 / 32] }
     (3, 5) ∉ s.hiend.tags ∧ t.elems.length = t.count ∧ granting.refusedElem 7 t.elems 0 = none ∧ granting.wordRefused t = none) ∧
    (let t : Train := { train1 with elems := [(0x1100, [1, 2])], units := some (0x1000, 4) }
     let s : State := { granting with badUnit := [0x1000 / 32] }
     s.refusedElem 7 t.elems 0 = none ∧ (s.wordRefused t).isSome = true) := by decide +kernel

theorem witness_NetworkEvents_error :
    (({ netted with qps := [{ qp1 with err := true }] } : State).qps.find? fun q => q.qpn = 4).map (·.err) = some true ∧
    (netted.netRegion qp1 { net1 with len := 8 } true).isSome = true ∧ ({ net1 with len := 8 } : NetMsg).data.length ≠ 8 ∧
    ((netted.nextRecv qp1).any fun x => x.units < (List.replicate 65 (0 : Byte)).length) = true := by decide +kernel

theorem witness_DeviceEvents_recovery :
    ({ core with svc := { core.svc with recovery := true } } : State).svc.recovery = true ∧ mapsLegal { core with svc := { core.svc with recovery := true } } ∧
    (core.freeze fun _ => true).1.mem.wf = true ∧ ((core.freeze fun _ => true).1.tiles.map (·.1)).Nodup ∧ (∀ x ∈ (core.freeze fun _ => true).1.tiles, x.1.2 < 16) ∧
    memoryLegal core = true := by unfold mapsLegal; decide +kernel

theorem witness_ServiceEvents_hot : 115 ≤ 120 ∧ memoryLegal core = true ∧ ({ core.svc with recovery := true } : Service).recovery = true ∧ 105 < 110 ∧ 110 < 115 := by decide +kernel

theorem witness_MaskedFeatures :
    (let s : State := { tile with th := { tile.th with featen0 := 0, await := none } }
     trapReady s ∧ s.th.frozen = false ∧ s.th.isCore = false ∧ s.th.window = [] ∧ s.th.trimPending = false ∧ ∀ b < 6, s.th.featen0.getLsbD b = false) ∧
    (Instr.smatch 1 2 3 0 1).WellFormed := by unfold trapReady Instr.WellFormed; decide +kernel

/-- A digest, and a bundle of three empty components whose holder signed it. -/
def dig : List Byte := Config.sm3 []
theorem dig_length : dig.length = 32 := by simp [dig, Config.sm3, Config.fit]
def bhead : List Byte := leBytes 4 0x57465643 ++ leBytes 4 1 ++ leBytes 8 0
def brec (ty : Nat) : List Byte := leBytes 16 ty
def bhdr : List Byte := bhead ++ (brec 0 ++ (dig ++ (brec 1 ++ (dig ++ (brec 2 ++ dig)))))
def bsig : List Byte := Config.sm2SignBy 0 bhdr
theorem bsig_length : bsig.length = 64 := by simp [bsig, Config.sm2SignBy, Config.fit]
def bfile : List Byte := bhdr ++ bsig
theorem bhead_length : bhead.length = 16 := rfl
theorem brec_length (n : Nat) : (brec n).length = 16 := Laws.leBytes_length ..
theorem bfile_length : bfile.length = 224 := by simp [bfile, bhdr, bsig_length, dig_length, bhead_length, brec_length]

theorem bundleOf_bfile {m : Memory} (h : memRead m 0x1000 224 = bfile) :
    bundleOf m 0x1000 224 = ⟨0x57465643, 1, 0, false, 0, bhdr, bsig, [(0, [], dig), (1, [], dig), (2, [], dig)]⟩ := by
  have hb : bhead = [0x43, 0x56, 0x46, 0x57, 1, 0, 0, 0, 0, 0, 0, 0, 0, 0, 0, 0] := by decide
  have h0 : brec 0 = List.replicate 16 0 := by decide
  have h1 : brec 1 = 1 :: List.replicate 15 0 := by decide
  have h2 : brec 2 = 2 :: List.replicate 15 0 := by decide
  simp only [bundleOf, Nat.min_self, h, fieldAt, bytesAt, bfile, bhdr, hb, h0, h1, h2, patchAt]
  simp [List.take_append, List.drop_append, dig_length, bsig_length, leNat, List.take_of_length_le, List.drop_eq_nil_of_le, memRead, sgetList]

def bdesc : List Byte := leBytes 8 0x1000 ++ leBytes 24 224

/-- The bundle at 0x1000 and its descriptor at 0x2000. -/
def holdsBundle : State := { State.reset with mem := memWrite (memWrite State.reset.mem 0x1000 bfile) 0x2000 bdesc }

theorem witness_ServiceEvents_bundle :
    let desc := memRead holdsBundle.mem (0x2000 : Word).toNat 32
    holdsBundle.svc.upd ≠ 1 ∧ bundleValid holdsBundle.svc.counter (bundleOf holdsBundle.mem (fieldAt desc 0 8) (fieldAt desc 8 8)) = true := by
  have w1 := Laws.memWrite_wf Laws.reset_wf 0x1000 bfile
  have hm : holdsBundle.mem = memWrite (memWrite State.reset.mem 0x1000 bfile) 0x2000 bdesc := by rw [holdsBundle]
  have hl : bdesc.length = 32 := by decide
  have hd : memRead holdsBundle.mem 0x2000 32 = bdesc := by
    have h := Laws.memRead_memWrite w1 0x2000 bdesc
    rw [hl] at h; rw [hm]; exact h
  have hb : memRead holdsBundle.mem 0x1000 224 = bfile := by
    rw [hm, Laws.memRead_memWrite_apart w1 _ _ _ _ (.inl (by decide)), ← bfile_length]
    exact Laws.memRead_memWrite Laws.reset_wf ..
  have f0 : fieldAt bdesc 0 8 = 0x1000 := by decide
  have f8 : fieldAt bdesc 8 8 = 224 := by decide
  refine ⟨by rw [holdsBundle]; decide, ?_⟩
  show bundleValid _ (bundleOf holdsBundle.mem (fieldAt (memRead holdsBundle.mem 0x2000 32) 0 8) (fieldAt (memRead holdsBundle.mem 0x2000 32) 8 8)) = _
  rw [hd, f0, f8, bundleOf_bfile hb]
  have hs : holdsBundle.svc.counter = 0 := by rw [holdsBundle]; rfl
  simp [bundleValid, bundleSigned, Config.sm2Verify, bsig, dig, hs]


end Sys2Proof.Tests
end

section
/-! SUPPORT. Which turn a step takes and what follows it: the fetched instruction, an access that comes before it, a turn of the agenda,
and a turn after which nothing is left to do. -/

namespace Sys2Proof.Proofs

open Sys2Proof.Machine Sys2Proof.Safety
open Host (Outcome)

variable {s s' : State} {i : Instr} {k : Nat}

/-! ### The step follows the turn -/

theorem step_of_turn_done {o : Outcome State Fault Refusal} (h : turn s = .done o) : step s = afterTurn o := by
  simp only [step, h]

theorem step_of_turn_run (h : turn s = .run i s') : step s = afterTurn (afterExec (exec i s')) := by
  simp only [step, h]

/-! ### The turn of an agent at its instruction -/

theorem fetched_of_decode_ok {t : Thread} (h : decode t.code = .ok i) : t.fetched = i := by
  simp only [Thread.fetched, h]

theorem fetched_of_decode_error {t : Thread} {e : DecodeError} (h : decode t.code = .error e) :
    t.fetched = .reservedEncoding t.code.head t.code.tail := by
  simp only [Thread.fetched, h]

/-- With an empty agenda an agent that runs has the turn. -/
theorem turn_of_onTurn (h : onTurn s) : turn s = threadTurn s := by
  obtain ⟨hagenda, hpower, hstalled, hrun, -⟩ := h
  simp [turn, hagenda, hpower, hstalled, hrun]

/-- The access that the fetched instruction must follow has the turn (R212). -/
theorem turn_performs_load (h : fetching s) (hl : loadBefore s s.th.fetched = some k) : turn s = .done (runAct (performLoad k) s) := by
  obtain ⟨hturn, hentering⟩ := h
  rw [turn_of_onTurn hturn]
  obtain ⟨-, -, -, -, hasync, hremind, hfabric, hstrip, hfront⟩ := hturn
  simp [threadTurn, hasync, hremind, hfabric, hstrip, hfront, hentering, hl]

/-- With no such access the fetched instruction has it. -/
theorem turn_runs_fetched (h : fetching s) (hl : loadBefore s s.th.fetched = none) : turn s = .run s.th.fetched s := by
  obtain ⟨hturn, hentering⟩ := h
  rw [turn_of_onTurn hturn]
  obtain ⟨-, -, -, -, hasync, hremind, hfabric, hstrip, hfront⟩ := hturn
  simp [threadTurn, hasync, hremind, hfabric, hstrip, hfront, hentering, hl]

/-- Where no access is to come, no instruction follows one: neither `rel` and `acq`, which look at their object, nor any other, which
looks at the registers it touches (R212, R217, R219). -/
theorem loadBefore_of_no_loads (h : s.th.loads = []) (i : Instr) : loadBefore s i = none := by
  simp only [loadBefore, h, ↓reduceIte, List.findIdx?_nil, ite_self]
  split
  · rfl
  · rfl
  · split <;> rfl

/-! ### The turn of the agenda (log entries 3, 68) -/

theorem turn_of_event {r : List Turn} (h : s.agenda = .event i :: r) : turn s = .run i { s with agenda := r } := by
  simp only [turn, h]

theorem turn_of_input {x : Input} {r : List Turn} (h : s.agenda = .input x :: r) : turn s = .done (runInput x { s with agenda := r }) := by
  simp only [turn, h]

/-! ### What follows a turn when nothing is left to do -/

/-- A window that is empty, or that the policy leaves alone, does not go on by itself. -/
theorem settle_of_still_window (h : s.th.window = [] ∨ s.policy.fire = false) : settle s = .next s := by
  obtain hw | hf := h
  · simp [settle, hw]
  · simp [settle, hf]

theorem sendFrozen_of_none_formed (h : ∀ x ∈ s.threads, x.frozen = true → ∀ e ∈ x.window, e.formed = []) : s.sendFrozen = s := by
  have hnone : (s.threads.filter fun t => t.frozen && t.window.any fun e => e.formed != []) = [] := by
    simpa [List.filter_eq_nil_iff] using h
  simp only [State.sendFrozen, hnone, List.foldl_nil]

theorem flushAll_of_no_records (h : ∀ c ∈ s.ctxs, c.records = []) : s.flushAll = s := by
  have hnone : (s.ctxs.filter fun c => c.records != []) = [] := by simpa [List.filter_eq_nil_iff] using h
  simp only [State.flushAll, hnone, List.foldl_nil]

theorem abortDue_of_no_dues (h : s.dues = []) : s.abortDue = s := by
  simp only [State.abortDue, h, List.foldl_nil]
  rw [← h]

theorem scrubStopped_of_no_stops (h : s.stops = []) : s.scrubStopped = s := by
  simp only [State.scrubStopped, h, List.foldl_nil]
  rw [← h]

theorem afterStep_of_nothing_left (hformed : ∀ x ∈ s.threads, x.frozen = true → ∀ e ∈ x.window, e.formed = [])
    (hrecords : ∀ c ∈ s.ctxs, c.records = []) (hdues : s.dues = []) (hstops : s.stops = []) : s.afterStep = s := by
  rw [State.afterStep, sendFrozen_of_none_formed hformed, flushAll_of_no_records hrecords, abortDue_of_no_dues hdues,
    scrubStopped_of_no_stops hstops]

/-- Settles O8: each clause names the turn that `turn` decides, or says that nothing is left to do after it. -/
theorem stepRunsDecoded : Obligations.StepRunsDecoded := by
  unfold Obligations.StepRunsDecoded
  refine ⟨fun s hs => ⟨?decoded, ?reserved, ?load, ?window, ?nothingLeft⟩, fun s r => ⟨?event, ?input⟩⟩
  case decoded =>
    intro i hi _ hl
    rw [← fetched_of_decode_ok hi] at hl ⊢
    exact step_of_turn_run (turn_runs_fetched hs hl)
  case reserved =>
    intro e he hl
    rw [← fetched_of_decode_error he]
    exact step_of_turn_run (turn_runs_fetched hs (loadBefore_of_no_loads hl _))
  case load =>
    intro i k hi hl
    rw [← fetched_of_decode_ok hi] at hl
    exact step_of_turn_done (turn_performs_load hs hl)
  case window => exact fun t ht => settle_of_still_window ht
  case nothingLeft =>
    intro t hformed hrecords hdues hstops
    rw [afterTurn, afterStep_of_nothing_left hformed hrecords hdues hstops]
  case event => exact fun i h => step_of_turn_run (turn_of_event h)
  case input => exact fun x h => step_of_turn_done (turn_of_input h)

end Sys2Proof.Proofs
end

section
/-! SUPPORT. What is refused at U: the check of privilege, the privileged instructions that make it, and the control registers of the
system (R58, R59, R60, R274). -/

namespace Sys2Proof.Proofs

open Sys2Proof.Machine Sys2Proof.Safety Sys2Proof.Laws

variable {s : State}

/-! ### The check of privilege -/

theorem needS_bind_error {α : Type} (hu : s.th.pl = 0) (k : Unit → Act α) :
    (needS >>= k) s = .error (.trap cPRIV s.codeVal, s) :=
  act_bind_error (needS_error hu)

/-- On a tile thread the check that refuses a core passes first (R59, R60). -/
theorem notOnCore_needS_bind_error {α : Type} (ht : s.th.isCore = false) (hu : s.th.pl = 0) (k : Unit → Act α) :
    (notOnCore >>= fun _ => needS >>= k) s = .error (.trap cPRIV s.codeVal, s) := by
  rw [act_bind_ok (notOnCore_ok ht), needS_bind_error hu]

/-! ### The privileged instructions (R56, R58) -/

section AtUser

variable (hr : trapReady s) (hu : s.th.pl = 0)
include hr hu

theorem eret_traps_priv : traps .eret s cPRIV s.codeVal := runAct_trap (needS_bind_error hu _) hr

theorem wfi_traps_priv : traps .wfi s cPRIV s.codeVal := runAct_trap (needS_bind_error hu _) hr

theorem runAct_removeTlb_traps_priv (mine : Thread → Bool) (p : TlbEnt → Bool) :
    runAct (removeTlb mine p) s = .next (s.trap cPRIV s.codeVal) := runAct_trap (needS_bind_error hu _) hr

theorem tlbinvPage_traps_priv (a : XReg) : traps (.tlbinvPage a) s cPRIV s.codeVal := runAct_removeTlb_traps_priv hr hu _ _

theorem tlbinvCtx_traps_priv (a : XReg) : traps (.tlbinvCtx a) s cPRIV s.codeVal := runAct_removeTlb_traps_priv hr hu _ _

theorem tlbinvAll_traps_priv : traps .tlbinvAll s cPRIV s.codeVal := runAct_removeTlb_traps_priv hr hu _ _

theorem vsave_traps_priv (ht : s.th.isCore = false) (a : XReg) : traps (.vsave a) s cPRIV s.codeVal :=
  runAct_trap (notOnCore_needS_bind_error ht hu _) hr

theorem vrest_traps_priv (ht : s.th.isCore = false) (a : XReg) : traps (.vrest a) s cPRIV s.codeVal :=
  runAct_trap (notOnCore_needS_bind_error ht hu _) hr

end AtUser

/-! ### System control registers (R274) -/

/-- The numbers of the system control registers that `cwr` writes. -/
def writableSystemNumbers : List (BitVec 12) := [0x100, 0x101, 0x102, 0x103, 0x104, 0x106, 0x10B, 0x121]

/-- The numbers of the system control registers that are only read. -/
def fixedSystemNumbers : List (BitVec 12) := [0x105, 0x107, 0x108, 0x109, 0x10A, 0x110, 0x111, 0x112, 0x120]

/-- The number names a system control register, which a core has as well as a tile; where `write`, one that `cwr` writes. -/
def namesSystem (n : BitVec 12) (write : Bool) : Prop :=
  0x100 ≤ n.toNat ∧ ∃ r, cregOf n = some r ∧ r.tileOnly = false ∧ (write && r.readOnly) = false

theorem namesSystem_of_writable {n : BitVec 12} (h : n ∈ writableSystemNumbers) (write : Bool) : namesSystem n write := by
  simp only [writableSystemNumbers, List.mem_cons, List.not_mem_nil, or_false] at h
  rcases h with rfl | rfl | rfl | rfl | rfl | rfl | rfl | rfl <;>
    exact ⟨by decide, _, rfl, rfl, Bool.and_false write⟩

theorem namesSystem_of_fixed {n : BitVec 12} (h : n ∈ fixedSystemNumbers) : namesSystem n false := by
  simp only [fixedSystemNumbers, List.mem_cons, List.not_mem_nil, or_false] at h
  rcases h with rfl | rfl | rfl | rfl | rfl | rfl | rfl | rfl | rfl <;>
    exact ⟨by decide, _, rfl, rfl, rfl⟩

/-- At U the check of the number refuses a system control register with PRIV, where it does not refuse it with ILL (R58, R60). -/
theorem cregCheck_error_priv {n : BitVec 12} {write : Bool} (hu : s.th.pl = 0) (hn : namesSystem n write) :
    cregCheck n write s = .error (.trap cPRIV s.codeVal, s) := by
  obtain ⟨hsystem, r, hr, htile, hwrite⟩ := hn
  unfold cregCheck
  rw [act_bind_ok act_get, hr]
  simp [htile, hwrite, hsystem, hu, act_trapWith]

theorem crd_traps_priv {n : BitVec 12} (hr : trapReady s) (hu : s.th.pl = 0) (hn : namesSystem n false) (d : XReg) :
    traps (.crd d n) s cPRIV s.codeVal :=
  runAct_trap (act_bind_error (cregCheck_error_priv hu hn)) hr

theorem cwr_traps_priv {n : BitVec 12} (hr : trapReady s) (hu : s.th.pl = 0) (hn : namesSystem n true) (a : XReg) :
    traps (.cwr n a) s cPRIV s.codeVal :=
  runAct_trap (act_bind_error (cregCheck_error_priv hu hn)) hr

/-- Settles O13: each instruction's first check that fails at U is the one of privilege. -/
theorem privilegedAtUser : Obligations.PrivilegedAtUser := by
  unfold Obligations.PrivilegedAtUser
  intro s i a d n hr hu fixed system h
  change traps i s cPRIV s.codeVal
  obtain hi | ⟨hi, ht⟩ | ⟨rfl, hn⟩ | ⟨rfl, hn, hfixed⟩ := h
  case inl =>
    simp only [List.mem_cons, List.not_mem_nil, or_false] at hi
    obtain rfl | rfl | rfl | rfl | rfl := hi
    · exact eret_traps_priv hr hu
    · exact wfi_traps_priv hr hu
    · exact tlbinvPage_traps_priv hr hu a
    · exact tlbinvCtx_traps_priv hr hu a
    · exact tlbinvAll_traps_priv hr hu
  case inr.inl =>
    simp only [List.mem_cons, List.not_mem_nil, or_false] at hi
    obtain rfl | rfl := hi
    · exact vsave_traps_priv hr hu ht a
    · exact vrest_traps_priv hr hu ht a
  case inr.inr.inl =>
    obtain hwritable | hfixed := List.mem_append.mp hn
    · exact crd_traps_priv hr hu (namesSystem_of_writable hwritable false) d
    · exact crd_traps_priv hr hu (namesSystem_of_fixed hfixed) d
  case inr.inr.inr =>
    have hwritable : n ∈ writableSystemNumbers := (List.mem_append.mp hn).resolve_right hfixed
    exact cwr_traps_priv hr hu (namesSystem_of_writable hwritable true) a

end Sys2Proof.Proofs
end

section
/-! SUPPORT. Messages at a network port: which queue pair takes a message, what each message comes to by the first check that fails, and
what the end of a transfer leaves unchanged (R182-R184, R290). -/

namespace Sys2Proof.Proofs

open Sys2Proof.Machine Sys2Proof.Safety Sys2Proof.Laws

variable {s s1 : State} {m : NetMsg} {q : QueuePair} {r : Region} {x : Xfer} {k : Nat} {c : Byte}

/-! ### The queue pair of a message (R183, R353) -/

theorem netPair_unknown (h : ∀ q ∈ s.qps, q.qpn ≠ m.qpn) : s.netPair m = .error .nakInvalid := by
  have hnone : (s.qps.find? fun q => q.qpn = m.qpn) = none := by simpa [List.find?_eq_none] using h
  simp only [State.netPair, hnone]

theorem netPair_frozen (hq : (s.qps.find? fun q => q.qpn = m.qpn) = some q) (hf : (s.ctx q.ctx).any (·.frozen) = true) :
    s.netPair m = .error .rnr := by
  simp [State.netPair, hq, hf]

theorem netPair_inError (hq : (s.qps.find? fun q => q.qpn = m.qpn) = some q) (hf : (s.ctx q.ctx).any (·.frozen) = false) (he : q.err = true) :
    s.netPair m = .error .nakInvalid := by
  simp [State.netPair, hq, hf, he]

theorem netPair_ready (hq : (s.qps.find? fun q => q.qpn = m.qpn) = some q) (hf : (s.ctx q.ctx).any (·.frozen) = false) (he : q.err = false) :
    s.netPair m = .ok q := by
  simp [State.netPair, hq, hf, he]

/-! ### What the port runs -/

theorem exec_netRdmaWriteIn : exec (.netRdmaWriteIn m) s = execNetRdmaWriteIn m s := rfl

theorem exec_netRdmaReadIn : exec (.netRdmaReadIn m) s = execNetRdmaReadIn m s := rfl

theorem exec_netSendIn : exec (.netSendIn m) s = execNetSendIn m s := rfl

/-- A message that no queue pair takes gets that answer, and nothing else changes. -/
theorem runs_netIn_of_netPair_error {a : NetReply} (h : s.netPair m = .error a) :
    ∀ n ∈ [Instr.netRdmaWriteIn m, .netRdmaReadIn m, .netSendIn m], runs n s (s.netReply a) := by
  simp [runs, exec_netRdmaWriteIn, exec_netRdmaReadIn, exec_netSendIn, execNetRdmaWriteIn, execNetRdmaReadIn, execNetSendIn, h]

/-! ### RDMA writes (R184) -/

/-- A write without immediate data needs no receive, so one that has what it needs is not turned away for want of one. -/
theorem not_lacksRecv (h : m.imm = none ∨ (s.nextRecv q).isSome = true) : ¬(m.imm.isSome = true ∧ (s.nextRecv q).isNone = true) := by
  obtain himm | hsome := h
  · simp [himm]
  · simp [Option.isSome_iff_ne_none.1 hsome]

/-- The state after a write of `n` bytes has landed in `s1`, `k` of them in the ring: what was applied directly has arrived at the
region's landing word (R184, R290). -/
def directArrived (s1 : State) (q : QueuePair) (r : Region) (n k : Nat) : State :=
  if k < n then s1.arriveVa q.ctx r.lword (n - k) else s1

section Write

variable (hq : s.netPair m = .ok q)
include hq

theorem netRdmaWriteIn_noRegion (hr : s.netRegion q m true = none) : runs (.netRdmaWriteIn m) s (s.netReply .nakAccess) := by
  simp [runs, exec_netRdmaWriteIn, execNetRdmaWriteIn, hq, hr]

variable (hr : s.netRegion q m true = some r)
include hr

theorem netRdmaWriteIn_otherLength (hlen : m.data.length ≠ m.len) : runs (.netRdmaWriteIn m) s (s.netReply .nakInvalid) := by
  simp [runs, exec_netRdmaWriteIn, execNetRdmaWriteIn, hq, hr, hlen]

variable (hlen : m.data.length = m.len)
include hlen

theorem netRdmaWriteIn_noRecv (himm : m.imm.isSome = true) (hx : s.nextRecv q = none) :
    runs (.netRdmaWriteIn m) s (s.netReply .rnr) := by
  simp [runs, exec_netRdmaWriteIn, execNetRdmaWriteIn, hq, hr, hlen, himm, hx]

theorem netRdmaWriteIn_fault (hx : m.imm = none ∨ (s.nextRecv q).isSome = true)
    (hland : s.land q.ctx m.addr r.lword m.data = .error (.fault c)) : runs (.netRdmaWriteIn m) s (s.netReply .nakAccess) := by
  simp only [runs, exec_netRdmaWriteIn, execNetRdmaWriteIn, hq, hr, hlen, hland, ne_eq, not_true_eq_false, not_lacksRecv hx, ↓reduceIte]

theorem netRdmaWriteIn_ringFull (hx : m.imm = none ∨ (s.nextRecv q).isSome = true)
    (hland : s.land q.ctx m.addr r.lword m.data = .error .full) : runs (.netRdmaWriteIn m) s (s.netReply .rnr) := by
  simp only [runs, exec_netRdmaWriteIn, execNetRdmaWriteIn, hq, hr, hlen, hland, ne_eq, not_true_eq_false, not_lacksRecv hx, ↓reduceIte]

variable (hland : s.land q.ctx m.addr r.lword m.data = .ok (s1, k))
include hland

theorem netRdmaWriteIn_lands (himm : m.imm = none) :
    runs (.netRdmaWriteIn m) s ((directArrived s1 q r m.len k).netReply .ack) := by
  simp [runs, exec_netRdmaWriteIn, execNetRdmaWriteIn, directArrived, hq, hr, hlen, hland, himm]

theorem netRdmaWriteIn_lands_imm {v : BitVec 32} (himm : m.imm = some v) (hx : s.nextRecv q = some x)
    (hx' : (directArrived s1 q r m.len k).nextRecv q = some x) :
    runs (.netRdmaWriteIn m) s (((directArrived s1 q r m.len k).endRecv q x m.len (some v) 0 (k == 0)).netReply .ack) := by
  unfold directArrived at hx' ⊢
  simp [runs, exec_netRdmaWriteIn, execNetRdmaWriteIn, hq, hr, hlen, hland, himm, hx, hx']

end Write

/-! ### RDMA reads (R184) -/

theorem touchesBad_of_no_badUnit (h : s.badUnit = []) (pa n : Nat) : s.touchesBad pa n = false := by
  simp [State.touchesBad, h]

section Read

variable {l : List (Nat × Word × Nat)} (hq : s.netPair m = .ok q)
include hq

theorem netRdmaReadIn_noRegion (hr : s.netRegion q m false = none) : runs (.netRdmaReadIn m) s (s.netReply .nakAccess) := by
  simp [runs, exec_netRdmaReadIn, execNetRdmaReadIn, hq, hr]

variable (hr : s.netRegion q m false = some r)
include hr

theorem netRdmaReadIn_fault (hl : s.netPieces q.ctx m.addr .read (m.len + 1) m.len = .error c) :
    runs (.netRdmaReadIn m) s (s.netReply .nakAccess) := by
  simp [runs, exec_netRdmaReadIn, execNetRdmaReadIn, hq, hr, hl]

theorem netRdmaReadIn_serves (hl : s.netPieces q.ctx m.addr .read (m.len + 1) m.len = .ok l) (hbad : s.badUnit = []) :
    runs (.netRdmaReadIn m) s (s.netReply (.data (l.flatMap fun x => memRead s.mem x.1 x.2.2))) := by
  simp [runs, exec_netRdmaReadIn, execNetRdmaReadIn, hq, hr, hl, touchesBad_of_no_badUnit hbad]

end Read

/-! ### The end of a transfer: the port says nothing, and the transfer is gone (R173) -/

@[simp] theorem writeBlock_netOut (s : State) (x : Xfer) (off : Nat) (bs : List Byte) : (s.writeBlock x off bs).netOut = s.netOut := by
  unfold State.writeBlock
  split
  · rfl
  · exact applyFor_netOut ..

@[simp] theorem writeStatus_netOut (s : State) (x : Xfer) (status result : Nat) : (s.writeStatus x status result).netOut = s.netOut := by
  simp only [State.writeStatus, writeBlock_netOut]

@[simp] theorem unitsTo_netOut (s : State) (x : Xfer) (u : Nat) : (s.unitsTo x u).netOut = s.netOut := by
  unfold State.unitsTo
  split
  · exact arrive_netOut ..
  · rfl
  · rfl

@[simp] theorem endXferIf_netOut (s : State) (x : Xfer) (was result : Nat) (reach : Bool) :
    (s.endXferIf x was result reach).netOut = s.netOut := by
  simp only [State.endXferIf]
  split <;> simp only [unitsTo_netOut, writeStatus_netOut]

theorem id_ne_of_mem_endXferIf {was result : Nat} {reach : Bool} {y : Xfer} (hy : y ∈ (s.endXferIf x was result reach).xfers) : y.id ≠ x.id := by
  simp only [State.endXferIf, List.mem_filter, decide_eq_true_eq] at hy
  exact hy.2

@[simp] theorem modPair_netOut (s : State) (n : Nat) (f : QueuePair → QueuePair) : (s.modPair n f).netOut = s.netOut := rfl

@[simp] theorem failNet_netOut (s : State) (x : Xfer) (syndrome done : Nat) : (s.failNet x syndrome done).netOut = s.netOut := by
  simp only [State.failNet, State.endXfer, endXferIf_netOut, modPair_netOut]

theorem id_ne_of_mem_failNet {syndrome done : Nat} {y : Xfer} (hy : y ∈ (s.failNet x syndrome done).xfers) : y.id ≠ x.id :=
  id_ne_of_mem_endXferIf hy

/-! ### Sends (R182, R184) -/

section Send

variable (hq : s.netPair m = .ok q)
include hq

theorem netSendIn_noRecv (hx : s.nextRecv q = none) : runs (.netSendIn m) s (s.netReply .rnr) := by
  simp [runs, exec_netSendIn, execNetSendIn, hq, hx]

variable (hx : s.nextRecv q = some x)
include hx

/-- A message longer than its receive ends the receive and its queue pair (R183). -/
theorem netSendIn_tooLong (hlen : x.units < m.data.length) :
    runs (.netSendIn m) s (({ s with fresh := s.fresh + 1 }.failNet x (Config.freeWord s.fresh).toNat 0).netReply .nakInvalid) := by
  simp [runs, exec_netSendIn, execNetSendIn, hq, hx, hlen]

variable (hlen : m.data.length ≤ x.units)
include hlen

/-- A fault of the receive's buffer ends the receive with its cause (R173). -/
theorem netSendIn_fault (hland : s.land q.ctx (x.addr 0) x.lword m.data = .error (.fault c)) :
    runs (.netSendIn m) s (((s.modPair q.qpn fun p => { p with recvs := p.recvs.drop 1 }).endNet x c.toNat 0).netReply .nakAccess) := by
  simp [runs, exec_netSendIn, execNetSendIn, hq, hx, Nat.not_lt.2 hlen, hland]

theorem netSendIn_ringFull (hland : s.land q.ctx (x.addr 0) x.lword m.data = .error .full) : runs (.netSendIn m) s (s.netReply .rnr) := by
  simp [runs, exec_netSendIn, execNetSendIn, hq, hx, Nat.not_lt.2 hlen, hland]

theorem netSendIn_lands (hland : s.land q.ctx (x.addr 0) x.lword m.data = .ok (s1, k)) :
    runs (.netSendIn m) s ((s1.endRecv q x m.data.length m.imm k (decide (k < m.data.length) || m.data == [])).netReply .ack) := by
  simp only [runs, exec_netSendIn, execNetSendIn, hq, hx, Nat.not_lt.2 hlen, hland, ↓reduceIte]

end Send

/-- Settles O56: each clause is the answer of the first check that fails, or what a message that passes them all does. -/
theorem networkEvents : Obligations.NetworkEvents := by
  unfold Obligations.NetworkEvents
  intro s m
  refine ⟨rfl, fun h => runs_netIn_of_netPair_error (netPair_unknown h), fun q hfind =>
    ⟨fun hf => runs_netIn_of_netPair_error (netPair_frozen hfind hf),
      fun hf he => runs_netIn_of_netPair_error (netPair_inError hfind hf he), fun hf he => ?_⟩⟩
  have hq : s.netPair m = .ok q := netPair_ready hfind hf he
  refine ⟨netRdmaWriteIn_noRegion hq, netRdmaReadIn_noRegion hq, fun r => netRdmaWriteIn_otherLength hq, ?write,
    fun r c => netRdmaReadIn_fault hq, fun r l => netRdmaReadIn_serves hq, netSendIn_noRecv hq, ?tooLong, ?send⟩
  case write =>
    intro r hr hlen
    refine ⟨netRdmaWriteIn_noRecv hq hr hlen, fun hx => ⟨fun c => netRdmaWriteIn_fault hq hr hlen hx,
      netRdmaWriteIn_ringFull hq hr hlen hx⟩, fun s1 k hland => ⟨netRdmaWriteIn_lands hq hr hlen hland, fun v x => ?_⟩⟩
    exact netRdmaWriteIn_lands_imm hq hr hlen hland
  case tooLong =>
    intro x hx hlen
    exact ⟨_, netSendIn_tooLong hq hx hlen, by simp [State.netReply], fun y hy => id_ne_of_mem_failNet hy⟩
  case send =>
    intro x hx hlen
    exact ⟨fun c => netSendIn_fault hq hx hlen, netSendIn_ringFull hq hx hlen, fun s1 k => netSendIn_lands hq hx hlen⟩

end Sys2Proof.Proofs
end

section
/-! SUPPORT. A counterexample to the statement about tile steps: an entry of `vopa` whose field `vd` names no z tile. The statement asks
neither for a well-formed instruction nor for a number below 8, and the field has five bits (R185, R193). -/

namespace Sys2Proof.Proofs

open Sys2Proof.Machine Sys2Proof.Safety

/-- There is no z tile from number 8 on: such a number reads as zeros on every tile, whatever has been written (R185). -/
theorem zAt_of_le {n : Nat} (h : 8 ≤ n) (x : Tile) : x.zAt n = ZTile.zero := dif_neg (Nat.not_lt.2 h)

/-- The operands of `vopa.l16 z8, v0, v0`. -/
def strayOp : VOp := { vd := 8, vs1 := 0, src2 := .v 0, vs3 := 0, k := 0, zm := false, et := 9, rm := 0, opt := 0 }

/-- F bits 5:3 must be zero (R193), so no decoded instruction has these operands: the counterexample is none of a program. -/
theorem not_wellFormed_vopa_strayOp : ¬(Instr.vopa strayOp).WellFormed := by
  unfold Instr.WellFormed
  decide

/-- A tile thread at its start (R75) but for vl = 1: every element of its v registers is 0, the l16 code of 1.0. -/
def strayThread : Thread := { Thread.placed 0 with vl := 1 }

/-- An entry of the instruction with the snapshots of a post; the post itself would be refused (R186, R193). -/
def strayEntry : Entry := { strayThread.newEntry (.vopa strayOp) [] with held := none }

/-- The state in which that entry is the whole window. -/
def strayState : State := { State.reset with th := { strayThread with window := [strayEntry], posts := 1, seqn := 1 } }

theorem inWindow_strayState : inWindow strayState 0 1 strayEntry := by
  refine ⟨rfl, rfl, rfl, ?_, rfl⟩
  simp [strayState, strayEntry]

theorem tileTurn_strayState : tileTurn strayState 0 1 strayEntry := by
  refine ⟨inWindow_strayState, rfl, rfl, rfl, ?_⟩
  rintro n ⟨rfl⟩
  rfl

/-- Element (0, 0) of z8 as the statement has it after the step, 1.0 × 1.0 added to what z8 reads there, is 1.0 (R30, R41). -/
theorem strayState_claimed :
    (BitVec.ofNat 32 (addProduct (LFmt.of strayOp.et) (strayOp.opt.getLsbD 0) ((strayState.myTile.zAt strayOp.vd.toNat).get 0 0) 0 0)).toNat =
      0x3F800000 := by decide +kernel

/-- Refutes O41: in `strayState` it is the turn of a `vopa` into z8, both sources are present and stand for 1.0, and the statement
gives element (0, 0) of z8 the value 1.0 after the step; but there is no z8, and the element reads 0.0 in every state. -/
theorem not_tileSteps : ¬ Obligations.TileSteps := by
  unfold Obligations.TileSteps
  intro h
  obtain ⟨-, -, hvopa, -⟩ := h.1 strayState 0 1 strayEntry tileTurn_strayState
  obtain ⟨t, -, -, -, hz⟩ := hvopa strayOp 0 (fun _ => true) (fun _ => 0) (fun _ => 0) rfl rfl rfl
    (fun j hj => by
      obtain rfl : j = 0 := Nat.lt_one_iff.1 hj
      exact ⟨rfl, fun _ => rfl⟩)
    (fun i hi => by
      obtain rfl : i = 0 := Nat.lt_one_iff.1 hi
      rfl)
  have hreads : (t.myTile.zAt strayOp.vd.toNat).get 0 0 = 0 := by
    rw [zAt_of_le (by decide)]
    rfl
  have hclaimed : (t.myTile.zAt strayOp.vd.toNat).get 0 0 = 0x3F800000 :=
    calc (t.myTile.zAt strayOp.vd.toNat).get 0 0
      _ = _ := hz 0 (by decide) 0 (by decide)
      _ = _ := if_pos ⟨Nat.one_pos, Nat.one_pos, rfl⟩
      _ = 0x3F800000 := strayState_claimed
  exact absurd (hreads.symm.trans hclaimed) (by decide)

end Sys2Proof.Proofs
end

section
/-! SUPPORT. The identity of a tile thread as a number, and what `getid` writes (spec/15 R264). -/

namespace Sys2Proof.Proofs

open Sys2Proof.Machine Sys2Proof.Safety Sys2Proof.Laws

variable {t : Thread} {h i n : Nat}

/-- The fields of a tile thread's identity do not overlap, so their union is their sum (R264). -/
theorem toNat_ident_of_tile (hwho : t.who = .tile h i n) :
    t.ident.toNat = 2 ^ 32 * t.rank.toNat + (2 ^ 8 * (h % 256 * 2 ^ 16 + i % 256 * 2 ^ 8 + n % 256) + t.stage.toNat) := by
  have hrank : t.rank.toNat < 2 ^ 16 := t.rank.isLt
  have hstage : t.stage.toNat < 2 ^ 8 := Nat.lt_trans t.stage.isLt (by decide)
  have hplace : h % 256 * 2 ^ 24 + i % 256 * 2 ^ 16 + n % 256 * 2 ^ 8 = 2 ^ 8 * (h % 256 * 2 ^ 16 + i % 256 * 2 ^ 8 + n % 256) := by omega
  rw [Nat.two_pow_add_eq_or_of_lt (by omega), Nat.two_pow_add_eq_or_of_lt hstage, ← Nat.or_assoc]
  simp only [Thread.ident, hwho, hplace, BitVec.toNat_or, BitVec.toNat_shiftLeft, BitVec.toNat_setWidth, BitVec.toNat_ofNat,
    Nat.shiftLeft_eq]
  congr 2 <;> omega

/-- `getid` writes the identity and passes on. -/
theorem runs_getid (d : XReg) (s : State) : runs (.getid d) s (written s d s.th.ident) := rfl

/-- Settles O17: each field is a quotient of the identity as a number. -/
theorem threadIdentity : Obligations.ThreadIdentity := by
  unfold Obligations.ThreadIdentity
  intro d s h i n hwho hh hi hn
  have hrank : s.th.rank.toNat < 2 ^ 16 := s.th.rank.isLt
  have hstage : s.th.stage.toNat < 2 ^ 3 := s.th.stage.isLt
  refine ⟨s.th.ident, runs_getid d s, ?_, ?_, ?_, ?_, ?_, ?_⟩
  all_goals
    apply BitVec.eq_of_toNat_eq
    simp only [BitVec.extractLsb'_toNat, toNat_ident_of_tile hwho, Nat.shiftRight_eq_div_pow, BitVec.toNat_ofNat, BitVec.toNat_setWidth,
      BitVec.reduceToNat]
    omega

end Sys2Proof.Proofs
end

section
/-! SUPPORT. What serving a contender does to the agents, the contexts, the launches and the graphs' generations: each operation of a
placement by one lemma, and the service of R260 assembled from them (R75, R257, R260, R271). -/

namespace Sys2Proof.Proofs

open Sys2Proof.Machine Sys2Proof.Safety Sys2Proof.Laws

variable {s t r : State} {l : Launch} {c : Ctx} {u v : Thread}

/-! ### Loading a context's registers from its record (R283) -/

theorem loaded_of_not_recorded {m : Memory} (h : c.recorded m = false) : c.loaded m = c := by
  simp [Ctx.loaded, h]

/-- A record whose place holds zeros names no context, so what it would give is not loaded. -/
@[simp] theorem loaded_empty (c : Ctx) : c.loaded [] = c := by
  apply loaded_of_not_recorded
  have hzero : (leWord (memRead [] c.record 4)).setWidth 32 = (0 : BitVec 32) := rfl
  by_cases h : c.ctxid = 0
  · simp [Ctx.recorded, h]
  · simpa [Ctx.recorded, hzero] using fun _ => Ne.symm h

@[simp] theorem loaded_ctxid (m : Memory) (c : Ctx) : (c.loaded m).ctxid = c.ctxid := by
  simp only [Ctx.loaded]; split <;> rfl

@[simp] theorem loaded_record (m : Memory) (c : Ctx) : (c.loaded m).record = c.record := by
  simp only [Ctx.loaded]; split <;> rfl

theorem recorded_loaded (m m' : Memory) (c : Ctx) : (c.loaded m).recorded m' = c.recorded m' := by
  simp only [Ctx.recorded, loaded_ctxid, loaded_record]

/-- Loading twice is loading once: every register that the record gives is replaced, and the place of the record is kept. -/
theorem loaded_loaded (m m' : Memory) (c : Ctx) : ∃ m'', (c.loaded m).loaded m' = c.loaded m'' := by
  have hsame := recorded_loaded m m' c
  cases h' : c.recorded m' with
  | false => exact ⟨m, loaded_of_not_recorded (hsame.trans h')⟩
  | true =>
    refine ⟨m', ?_⟩
    cases h : c.recorded m with
    | false => rw [loaded_of_not_recorded h]
    | true =>
      simp only [Ctx.loaded, h, Bool.not_true, Bool.false_eq_true, if_false] at hsame ⊢
      simp only [hsame, h', Bool.not_true, Bool.false_eq_true, if_false]

/-! ### What a thread starts with (R75, R257) -/

/-- What a thread holds that starts for a launch in a context, on tile `(h, i)` with tile-local index `n` (R75). -/
def HoldsStart (l : Launch) (c : Ctx) (h i n : Nat) (u : Thread) : Prop :=
  u.launch = l.id ∧ u.ctx = l.ctx ∧ u.who = .tile h i n ∧ u.run = .running ∧
  u.pc = l.pkt.entry ∧ u.entering = true ∧ u.pl = 0 ∧ u.vl = 0 ∧ u.fcsr = 0 ∧ u.fsr = 0 ∧ u.lsat = 0 ∧ u.window = [] ∧ u.frozen = false ∧
  u.sregs.vec = c.trapvec ∧ u.featen0 = c.featen ∧ u.rc = c.rc ∧ u.getX 3 = c.gb + BitVec.ofNat 64 (h * 2 ^ 24 + i * 2 ^ 20) ∧
  (∀ j < 8, u.getX (BitVec.ofNat 6 (4 + j)) = l.pkt.args.getD j 0) ∧ ∀ r : XReg, r.toNat < 3 ∨ 12 ≤ r.toNat → u.getX r = 0

theorem getX_startThread (tid no : Nat) (who : Agent) (l : Launch) (c : Ctx) (rank : Nat) (x3 : Word) (r : XReg) :
    (startThread tid no who l c rank x3).getX r =
      if r.toNat = 3 then x3 else if 4 ≤ r.toNat ∧ r.toNat < 12 then l.pkt.args.getD (r.toNat - 4) 0 else 0 := by
  by_cases hr : r = 0
  · subst hr; rfl
  · rw [Thread.getX, if_neg hr]
    simp [startThread]

theorem holdsStart_startThread (tid no : Nat) (h i n : Nat) (l : Launch) (c : Ctx) (rank : Nat) :
    HoldsStart l c h i n (startThread tid no (.tile h i n) l c rank (c.gb + BitVec.ofNat 64 (h * 2 ^ 24 + i * 2 ^ 20))) := by
  refine ⟨rfl, rfl, rfl, rfl, rfl, rfl, rfl, rfl, rfl, rfl, rfl, rfl, rfl, rfl, rfl, rfl, ?x3, ?args, ?zero⟩
  case x3 => rw [getX_startThread]; rfl
  case args =>
    intro j hj
    have hreg : (BitVec.ofNat 6 (4 + j)).toNat = 4 + j := by rw [BitVec.toNat_ofNat]; omega
    rw [getX_startThread, hreg, if_neg (by omega), if_pos (by omega), Nat.add_sub_cancel_left]
  case zero =>
    intro r hr
    rw [getX_startThread, if_neg (by omega), if_neg (by omega)]

/-- The grant, the save area and the partition's place are no part of it. -/
theorem HoldsStart.placed {h i n : Nat} (hu : HoldsStart l c h i n u) (grant : Nat) (winrec vowner : Word) (part : Option Part)
    (spaceOf : Option Nat) :
    HoldsStart l c h i n { u with grant := grant, winrec := winrec, vowner := vowner, part := part, spaceOf := spaceOf } := hu

/-- A core's thread starts with none of it: it stands on no tile. -/
theorem not_holdsStart_of_core {k h i n : Nat} (hwho : u.who = .core k) : ¬HoldsStart l c h i n u := by
  rintro ⟨-, -, htile, -⟩
  rw [hwho] at htile
  contradiction

/-- Two launches are one but for what has been placed, run and ended of them. -/
def SameLaunch (l l' : Launch) : Prop := l.id = l'.id ∧ l.ctx = l'.ctx ∧ l.pkt = l'.pkt

theorem HoldsStart.of_sameLaunch {l' : Launch} {h i n : Nat} (hl : SameLaunch l l') (hu : HoldsStart l' c h i n u) : HoldsStart l c h i n u := by
  obtain ⟨hid, hctx, hpkt⟩ := hl
  rw [HoldsStart, hid, hctx, hpkt]
  exact hu

/-- A thread that has just started for a launch of the machine `s`, in a context as its record gives it. -/
def StartedIn (s : State) (u : Thread) : Prop :=
  ∃ l ∈ s.sched.launches, ∃ c0 m h i n, s.ctx l.ctx = some c0 ∧ HoldsStart l (c0.loaded m) h i n u

/-- The thread `u` comes from `v`: what a start gave `v`, `u` has still. -/
def ComesFrom (v u : Thread) : Prop := v.tid = u.tid ∧ ∀ l c h i n, HoldsStart l c h i n v → HoldsStart l c h i n u

theorem comesFrom_refl (u : Thread) : ComesFrom u u := ⟨rfl, fun _ _ _ _ _ h => h⟩

/-! ### What serving a contender does (R257, R260, R271) -/

/-- Node `n` of a generation no longer waits for its predecessors: it has entered the ready pool, or never will (R271). -/
def Decided (s : State) (gid n : Nat) : Prop := ∃ z, s.gen gid = some z ∧ z.state n ≠ .waiting

/-- What a placement may change of the agents, contexts, launches and generations of `s`: no launch is new, contexts are loaded from
their records, each thread comes from one of `s` or has just started, and no node goes back to waiting. -/
structure Serves (s t : State) : Prop where
  launches : ∀ l' ∈ t.sched.launches, ∃ l ∈ s.sched.launches, SameLaunch l l'
  ctxs     : ∀ k c', t.ctx k = some c' → ∃ c m, s.ctx k = some c ∧ c' = c.loaded m
  threads  : ∀ u ∈ t.threads, (∃ v ∈ s.threads, ComesFrom v u) ∨ StartedIn s u
  gens     : ∀ gid n, Decided s gid n → Decided t gid n

/-- A change of the scheduler alone. -/
theorem Serves.of_sched (hth : t.th = s.th) (hothers : t.others = s.others) (hctxs : t.ctxs = s.ctxs)
    (hlaunches : ∀ l' ∈ t.sched.launches, ∃ l ∈ s.sched.launches, SameLaunch l l')
    (hgens : ∀ gid n, Decided s gid n → Decided t gid n) : Serves s t where
  launches := hlaunches
  ctxs k c' hc := ⟨c', [], by simpa only [State.ctx, hctxs] using hc, (loaded_empty c').symm⟩
  threads u hu := .inl ⟨u, by simpa only [State.threads, hth, hothers] using hu, comesFrom_refl u⟩
  gens := hgens

/-- A change of the scheduler that keeps its launches and generations. -/
theorem Serves.of_lists (hth : t.th = s.th) (hothers : t.others = s.others) (hctxs : t.ctxs = s.ctxs)
    (hlaunches : t.sched.launches = s.sched.launches) (hgens : t.sched.gens = s.sched.gens) : Serves s t :=
  .of_sched hth hothers hctxs (fun l' hl' => ⟨l', hlaunches ▸ hl', rfl, rfl, rfl⟩)
    (fun gid n h => by simpa only [Decided, State.gen, hgens] using h)

/-- A change of neither. -/
theorem Serves.of_eq (hth : t.th = s.th) (hothers : t.others = s.others) (hctxs : t.ctxs = s.ctxs) (hsched : t.sched = s.sched) :
    Serves s t := .of_lists hth hothers hctxs (by rw [hsched]) (by rw [hsched])

theorem Serves.refl (s : State) : Serves s s := .of_eq rfl rfl rfl rfl

theorem StartedIn.of_serves (hst : Serves s t) (hu : StartedIn t u) : StartedIn s u := by
  obtain ⟨l', hl', c', m', h, i, n, hc', hstart⟩ := hu
  obtain ⟨l, hl, hsame⟩ := hst.launches l' hl'
  obtain ⟨c, m, hc, rfl⟩ := hst.ctxs _ c' hc'
  obtain ⟨m'', hm⟩ := loaded_loaded m m' c
  rw [hm] at hstart
  exact ⟨l, hl, c, m'', h, i, n, by rw [hsame.2.1, hc], hstart.of_sameLaunch hsame⟩

theorem Serves.trans (hst : Serves s t) (htr : Serves t r) : Serves s r where
  launches l'' hl'' := by
    obtain ⟨l', hl', hid', hctx', hpkt'⟩ := htr.launches l'' hl''
    obtain ⟨l, hl, hid, hctx, hpkt⟩ := hst.launches l' hl'
    exact ⟨l, hl, hid.trans hid', hctx.trans hctx', hpkt.trans hpkt'⟩
  ctxs k c'' hc'' := by
    obtain ⟨c', m', hc', rfl⟩ := htr.ctxs k c'' hc''
    obtain ⟨c, m, hc, rfl⟩ := hst.ctxs k c' hc'
    obtain ⟨m'', hm⟩ := loaded_loaded m m' c
    exact ⟨c, m'', hc, hm⟩
  threads w hw := by
    obtain ⟨u, hu, htid, hkeep⟩ | hstart := htr.threads w hw
    · obtain ⟨v, hv, htid', hkeep'⟩ | ⟨l, hl, c, m, h, i, n, hc, hu⟩ := hst.threads u hu
      · exact .inl ⟨v, hv, htid'.trans htid, fun l c h i n hv => hkeep l c h i n (hkeep' l c h i n hv)⟩
      · exact .inr ⟨l, hl, c, m, h, i, n, hc, hkeep _ _ _ _ _ hu⟩
    · exact .inr (hstart.of_serves hst)
  gens gid n h := htr.gens gid n (hst.gens gid n h)

theorem serves_foldl {α : Type} {f : State → α → State} (hf : ∀ s x, Serves s (f s x)) (xs : List α) (s : State) :
    Serves s (xs.foldl f s) :=
  List.foldlRecOn (motive := Serves s) xs f (.refl s) fun t hst x _ => hst.trans (hf t x)

/-! ### Writes on behalf of a context, and tiles that pass -/

theorem serves_meetBad (s : State) (k : BitVec 32) (pa : Nat) : Serves s (s.meetBad k pa) :=
  .of_eq (meetBad_th ..) (meetBad_others ..) (meetBad_ctxs ..) (meetBad_sched ..)

theorem serves_applyFor (s : State) (k : BitVec 32) (pa : Nat) (bs : List Byte) : Serves s (s.applyFor k pa bs) :=
  .of_eq (applyFor_th ..) (applyFor_others ..) (applyFor_ctxs ..) (applyFor_sched ..)

theorem serves_arrive (s : State) (pa n : Nat) : Serves s (s.arrive pa n) :=
  .of_eq (arrive_th ..) (arrive_others ..) (arrive_ctxs ..) (arrive_sched ..)

theorem serves_arriveVa (s : State) (k : BitVec 32) (va : Word) (n : Nat) : Serves s (s.arriveVa k va n) := by
  unfold State.arriveVa
  split
  · exact .refl s
  · split
    · split
      · exact serves_meetBad ..
      · exact serves_arrive ..
    · exact .refl s

theorem serves_writeBlock (s : State) (x : Xfer) (off : Nat) (bs : List Byte) : Serves s (s.writeBlock x off bs) := by
  unfold State.writeBlock
  split
  · exact .refl s
  · exact serves_applyFor ..

theorem serves_putVa (s : State) (k : BitVec 32) (va : Word) (bs : List Byte) : Serves s (s.putVa k va bs) := by
  unfold State.putVa
  split
  · exact serves_applyFor ..
  · exact .refl s

theorem serves_areaPut (s : State) (k : BitVec 32) (va : Word) (n : Nat) (bs : List Byte) : Serves s (s.areaPut k va n bs) := by
  induction n generalizing s va bs with
  | zero => exact .refl s
  | succ n ih =>
    unfold State.areaPut
    split
    · exact .refl s
    · exact (serves_putVa ..).trans (ih ..)

theorem serves_areaWrite (s : State) (k : BitVec 32) (area : Word) (off : Nat) (bs : List Byte) : Serves s (s.areaWrite k area off bs) :=
  serves_areaPut ..

theorem serves_startArea (s : State) (u : Thread) : Serves s (s.startArea u) := serves_areaWrite ..

theorem serves_setTile (s : State) (h i : Nat) (x : Tile) : Serves s (s.setTile h i x) := .of_eq rfl rfl rfl rfl

/-- Only memory and the tile change where a tile passes to a context (R76). -/
theorem serves_passTile (s : State) (h i : Nat) (k : BitVec 32) (area : Option (BitVec 32 × Word)) : Serves s (s.passTile h i k area) := by
  simp only [State.passTile]
  split
  · exact .refl s
  · refine (serves_foldl (fun s v => ?loser) _ s).trans ((serves_setTile ..).trans (serves_setTile ..))
    exact (serves_foldl (fun s n => (serves_areaWrite ..).trans (serves_areaWrite ..)) _ s).trans (serves_areaWrite ..)

theorem serves_takeZ (s : State) (u : Thread) (f : Nat → ZTile) : Serves s (s.takeZ u f) := by
  unfold State.takeZ
  split
  · exact .refl s
  · exact serves_setTile ..

theorem serves_takeFreeZ (s : State) (u : Thread) : Serves s (s.takeFreeZ u) := by
  unfold State.takeFreeZ
  split
  · exact .refl s
  · exact serves_setTile ..

theorem fillPair_eq (s : State) (l : Launch) : s.fillPair l = s ∨ ∃ pa bs, s.fillPair l = s.applyFor l.ctx pa bs := by
  unfold State.fillPair
  split
  · split
    · exact .inr ⟨_, _, rfl⟩
    · exact .inl rfl
  · exact .inl rfl

theorem serves_fillPair (s : State) (l : Launch) : Serves s (s.fillPair l) := by
  obtain h | ⟨pa, bs, h⟩ := fillPair_eq s l <;> rw [h]
  · exact .refl s
  · exact serves_applyFor ..

@[simp] theorem fillPair_sched (s : State) (l : Launch) : (s.fillPair l).sched = s.sched := by
  obtain h | ⟨pa, bs, h⟩ := fillPair_eq s l <;> simp [h]

@[simp] theorem fillPair_ctxs (s : State) (l : Launch) : (s.fillPair l).ctxs = s.ctxs := by
  obtain h | ⟨pa, bs, h⟩ := fillPair_eq s l <;> simp [h]

/-! ### Threads that change, and threads that start -/

theorem mem_threads_modThread {tid : Nat} {f : Thread → Thread} (hu : u ∈ (s.modThread tid f).threads) :
    u ∈ s.threads ∨ ∃ v ∈ s.threads, v.tid = tid ∧ u = f v := by
  unfold State.modThread at hu
  split at hu
  case isTrue htid =>
    obtain rfl | hu := List.mem_cons.1 hu
    · exact .inr ⟨s.th, List.mem_cons_self, htid, rfl⟩
    · exact .inl (List.mem_cons_of_mem _ hu)
  case isFalse =>
    obtain rfl | hu := List.mem_cons.1 hu
    · exact .inl List.mem_cons_self
    · obtain ⟨v, hv, rfl⟩ := List.mem_map.1 hu
      split
      case isTrue htid => exact .inr ⟨v, List.mem_cons_of_mem _ hv, htid, rfl⟩
      case isFalse => exact .inl (List.mem_cons_of_mem _ hv)

@[simp] theorem modThread_ctxs (s : State) (tid : Nat) (f : Thread → Thread) : (s.modThread tid f).ctxs = s.ctxs := by
  unfold State.modThread; split <;> rfl

@[simp] theorem modThread_sched (s : State) (tid : Nat) (f : Thread → Thread) : (s.modThread tid f).sched = s.sched := by
  unfold State.modThread; split <;> rfl

theorem serves_modThread {tid : Nat} {f : Thread → Thread} (hf : ∀ v ∈ s.threads, v.tid = tid → ∃ w ∈ s.threads, ComesFrom w (f v)) :
    Serves s (s.modThread tid f) where
  launches l' hl' := ⟨l', by simpa only [modThread_sched] using hl', rfl, rfl, rfl⟩
  ctxs k c' hc := ⟨c', [], by simpa only [State.ctx, modThread_ctxs] using hc, (loaded_empty c').symm⟩
  threads u hu := by
    obtain hu | ⟨v, hv, htid, rfl⟩ := mem_threads_modThread hu
    · exact .inl ⟨u, hu, comesFrom_refl u⟩
    · exact .inl (hf v hv htid)
  gens gid n h := by simpa only [Decided, State.gen, modThread_sched] using h

/-- A thread that starts joins the others. -/
theorem serves_addThread (hu : StartedIn s u) : Serves s { s with others := s.others ++ [u] } where
  launches l' hl' := ⟨l', hl', rfl, rfl, rfl⟩
  ctxs k c' hc := ⟨c', [], hc, (loaded_empty c').symm⟩
  threads v hv := by
    have hv' : v ∈ s.threads ++ [u] := hv
    obtain hv' | hv' := List.mem_append.1 hv'
    · exact .inl ⟨v, hv', comesFrom_refl v⟩
    · exact .inr (List.mem_singleton.1 hv' ▸ hu)
  gens _ _ h := h

theorem serves_countStart (s : State) (l : Launch) (p : Nat × Nat × Nat × Nat) : Serves s (s.countStart l p) := by
  refine .of_sched rfl rfl rfl (fun l' hl' => ?_) (fun _ _ h => h)
  obtain ⟨x, hx, rfl⟩ := List.mem_map.1 hl'
  refine ⟨x, hx, ?_⟩
  split <;> exact ⟨rfl, rfl, rfl⟩

/-- A thread starts on a tile, in free file or in the space of a frozen partition. -/
theorem serves_startTile {p : Nat × Nat × Nat × Nat} {grant : Nat} {frozen : Option Nat} (hl : l ∈ s.sched.launches)
    (hc : s.ctx l.ctx = some c) : Serves s (s.startTile l c p grant frozen) := by
  obtain ⟨rank, h, i, idx⟩ := p
  have hstarted : ∀ u, HoldsStart l c h i idx u → StartedIn (s.fillPair l) u := fun u hu =>
    ⟨l, by rwa [fillPair_sched], c, [], h, i, idx, by rwa [State.ctx, fillPair_ctxs], by rwa [loaded_empty]⟩
  simp only [State.startTile]
  split
  · refine .trans ?_ (serves_takeZ ..)
    refine .trans ?_ (serves_passTile ..)
    refine .trans ?_ (serves_countStart ..)
    refine .trans ?_ (serves_startArea ..)
    exact (serves_fillPair ..).trans (serves_addThread (hstarted _ ((holdsStart_startThread ..).placed ..)))
  · refine .trans ?_ (serves_modThread fun v hv _ => ⟨v, hv, rfl, fun _ _ _ _ _ h => h⟩)
    refine .trans ?_ (serves_takeFreeZ ..)
    refine .trans ?_ (serves_countStart ..)
    refine .trans ?_ (serves_startArea ..)
    exact (serves_fillPair ..).trans (serves_addThread (hstarted _ ((holdsStart_startThread ..).placed ..)))

theorem idleCore_eq_some (h : s.idleCore = some u) : u ∈ s.threads ∧ ∃ k, u.who = .core k := by
  refine ⟨List.mem_of_find?_eq_some h, ?_⟩
  have hidle := List.find?_some h
  cases hwho : u.who with
  | core k => exact ⟨k, rfl⟩
  | tile => simp [hwho] at hidle

/-- A core that runs nothing starts a node's thread: it has been an agent before. -/
theorem serves_startCore {p : Nat × Nat × Nat × Nat} (hu : s.idleCore = some u) : Serves s (s.startCore l c p u) := by
  obtain ⟨hmem, k, hwho⟩ := idleCore_eq_some hu
  refine .trans ?_ (serves_countStart ..)
  refine serves_modThread fun v _ _ => ⟨u, hmem, rfl, fun l c h i n hstart => ?_⟩
  exact absurd hstart (not_holdsStart_of_core hwho)

/-! ### A placement (R257) -/

/-- The context is as its record gives it, or as it was. -/
theorem serves_reload (s : State) (k : BitVec 32) : Serves s (s.reload k) := by
  unfold State.reload
  split
  · exact .refl s
  · split
    · exact serves_meetBad ..
    · refine { Serves.refl s with ctxs := fun j c' hc' => ?_ }
      have hpred : (fun x : Ctx => decide (x.ctxid = j)) ∘ (fun x => if x.ctxid = k then x.loaded s.mem else x) =
          fun x => decide (x.ctxid = j) := by
        funext x
        dsimp only [Function.comp_apply]
        split
        · rw [loaded_ctxid]
        · rfl
      rw [State.ctx, State.modCtx, List.find?_map, hpred] at hc'
      obtain ⟨x, hx, rfl⟩ := Option.map_eq_some_iff.1 hc'
      split
      · exact ⟨x, s.mem, hx, rfl⟩
      · exact ⟨x, [], hx, (loaded_empty x).symm⟩

theorem reload_sched (s : State) (k : BitVec 32) : (s.reload k).sched = s.sched := by
  unfold State.reload
  split
  · rfl
  · split
    · exact meetBad_sched ..
    · rfl

theorem serves_placeOne (hl : l ∈ s.sched.launches) (h : s.placeOne l = some t) : Serves s t := by
  have hl' : l ∈ (s.reload l.ctx).sched.launches := by rwa [reload_sched]
  refine (serves_reload s l.ctx).trans ?_
  simp only [State.placeOne] at h
  split at h
  · contradiction
  next c hc =>
    split at h
    · contradiction
    · split at h
      · obtain ⟨u, hu, hmap⟩ := Option.bind_eq_some_iff.1 h
        obtain ⟨p, -, rfl⟩ := Option.map_eq_some_iff.1 hmap
        exact serves_startCore hu
      · obtain ⟨p, -, hp⟩ := List.exists_of_findSome?_eq_some h
        split at hp
        · obtain ⟨g, -, rfl⟩ := Option.map_eq_some_iff.1 hp
          exact serves_startTile hl' hc
        · contradiction

theorem mem_launches_of_launch {id : Nat} (h : s.launch id = some l) : l ∈ s.sched.launches := List.mem_of_find?_eq_some h

theorem serves_placeAll {id n : Nat} (h : s.placeAll id n = some t) : Serves s t := by
  induction n generalizing s with
  | zero => contradiction
  | succ n ih =>
    unfold State.placeAll at h
    split at h
    · contradiction
    next l hl =>
      split at h
      · cases h; exact .refl _
      · obtain ⟨s1, hone, hrest⟩ := Option.bind_eq_some_iff.1 h
        exact (serves_placeOne (mem_launches_of_launch hl) hone).trans (ih hrest)

theorem serves_place (hl : l ∈ s.sched.launches) (h : s.place l = some t) : Serves s t := by
  unfold State.place at h
  split at h
  · contradiction
  · split at h
    · exact serves_placeAll h
    · exact serves_placeOne hl h

/-! ### Nodes of a generation (R268, R271) -/

/-- A change of generations that keeps their numbers and takes no node back to waiting. -/
theorem decided_of_map {f : Gen → Gen} {gid n : Nat} (hgens : t.sched.gens = s.sched.gens.map f) (hid : ∀ z, (f z).id = z.id)
    (hf : ∀ z k, z.state k ≠ .waiting → (f z).state k ≠ .waiting) (h : Decided s gid n) : Decided t gid n := by
  obtain ⟨z, hz, hn⟩ := h
  refine ⟨f z, ?_, hf z n hn⟩
  have hpred : (fun x : Gen => decide (x.id = gid)) ∘ f = fun x => decide (x.id = gid) := funext fun x => by simp [hid]
  rw [State.gen, hgens, List.find?_map, hpred]
  exact congrArg (Option.map f) hz

/-- `f` sets the state of node `n` of a generation and keeps its number. -/
def SetsState (f : Gen → Gen) (n : Nat) (x : NodeState) : Prop :=
  ∀ z, (f z).id = z.id ∧ (f z).st = z.st.set n x

theorem SetsState.state_ne_waiting {f : Gen → Gen} {n k : Nat} {x : NodeState} {z : Gen} (hf : SetsState f n x) (hx : x ≠ .waiting)
    (hk : z.state k ≠ .waiting) : (f z).state k ≠ .waiting := by
  rw [Gen.state, (hf z).2, List.getD_eq_getElem?_getD, List.getElem?_set]
  split
  · split
    · exact hx
    · simp
  · rwa [← List.getD_eq_getElem?_getD]

/-- A node's state is set in one generation, not to waiting: what has been decided stays so. -/
theorem decided_of_setsState {f : Gen → Gen} {gid n k m : Nat} {x : NodeState} (hf : SetsState f n x) (hx : x ≠ .waiting)
    (hgens : t.sched.gens = s.sched.gens.map fun z => if z.id = gid then f z else z) (h : Decided s k m) : Decided t k m := by
  refine decided_of_map hgens (fun z => ?_) (fun z j hj => ?_) h
  · split
    · exact (hf z).1
    · rfl
  · split
    · exact hf.state_ne_waiting hx hj
    · exact hj

theorem serves_modGen {f : Gen → Gen} {gid n : Nat} {x : NodeState} (hf : SetsState f n x) (hx : x ≠ .waiting) :
    Serves s (s.modGen gid f) :=
  .of_sched rfl rfl rfl (fun l hl => ⟨l, hl, rfl, rfl, rfl⟩) fun _ _ => decided_of_setsState hf hx rfl

theorem serves_unpool (s : State) (gid n : Nat) : Serves s (s.unpool gid n) := .of_lists rfl rfl rfl rfl rfl

/-- A node fails, and its generation with it (R271). -/
def failAt (n : Nat) (z : Gen) : Gen := { z with st := z.st.set n .failed, failed := true }

theorem setsState_failAt (n : Nat) : SetsState (failAt n) n .failed := fun _ => ⟨rfl, rfl⟩

/-- A launch fails: each thread that has not exited is counted, and the node it runs for has failed (R261, R271). -/
theorem serves_failLaunch (s : State) (l : Launch) : Serves s (s.failLaunch l) := by
  refine (serves_arriveVa s l.ctx l.pkt.done (l.total - l.exited)).trans ?_
  simp only [State.failLaunch]
  refine .of_sched rfl rfl rfl (fun l' hl' => ?_) fun gid n h => ?_
  · obtain ⟨x, hx, rfl⟩ := List.mem_map.1 hl'
    refine ⟨x, hx, ?_⟩
    split <;> exact ⟨rfl, rfl, rfl⟩
  · cases hnode : l.node with
    | none => exact h
    | some p => exact decided_of_setsState (setsState_failAt p.2) (by decide) rfl h

theorem serves_failNode (s : State) (gid n : Nat) : Serves s (s.failNode gid n) := by
  unfold State.failNode
  split
  · exact serves_failLaunch ..
  · exact (serves_modGen (setsState_failAt n) (by decide)).trans (serves_unpool ..)

theorem serves_queueXfer (s : State) (x : Xfer) (units : Nat) : Serves s (s.queueXfer x units) := by
  simp only [State.queueXfer]
  split <;> exact .of_lists rfl rfl rfl rfl rfl

theorem serves_setRunning (s : State) (gid n : Nat) : Serves s (s.modGen gid fun z => { z with st := z.st.set n .running }) :=
  serves_modGen (x := .running) (fun _ => ⟨rfl, rfl⟩) (by decide)

/-- An engine's command is queued, or refused and its node fails (R268). -/
theorem serves_startEngine (s : State) (g : Gen) (n : Nat) (x : Node) : Serves s (s.startEngine g n x) := by
  simp only [State.startEngine]
  split
  · exact serves_modGen (setsState_failAt n) (by decide)
  · split
    · exact (serves_queueXfer ..).trans (serves_setRunning ..)
    · refine .trans ?_ (serves_modGen (setsState_failAt n) (by decide))
      exact (serves_writeBlock s _ _ _).trans (.of_eq rfl rfl rfl rfl)
    · exact (serves_writeBlock ..).trans (serves_modGen (setsState_failAt n) (by decide))

theorem serves_startInstance {gid n : Nat} (h : s.startInstance gid n = some t) : Serves s t := by
  unfold State.startInstance at h
  split at h
  · contradiction
  next g hg =>
    split at h
    · contradiction
    next x hx =>
      split at h
      · cases h; exact serves_failNode ..
      · split at h
        · contradiction
        · split at h
          · cases h; exact (serves_startEngine ..).trans (serves_unpool ..)
          · split at h
            · contradiction
            next l hl =>
              obtain ⟨s1, hplace, rfl⟩ := Option.map_eq_some_iff.1 h
              have hrun := (serves_place (List.mem_of_find?_eq_some hl) hplace).trans (serves_setRunning s1 gid n)
              dsimp only
              split
              · split
                · exact hrun.trans (serves_unpool ..)
                · exact hrun
              · exact hrun

/-! ### The service (R260) -/

theorem mem_launches_of_waitingIn {q : Nat} (h : l ∈ s.waitingIn q) : l ∈ s.sched.launches := by
  obtain ⟨id, -, hid⟩ := List.mem_filterMap.1 h
  obtain ⟨x, hx, hif⟩ := Option.bind_eq_some_iff.1 hid
  split at hif
  · contradiction
  · cases hif; exact mem_launches_of_launch hx

theorem serves_offer {k p : Nat} (h : s.offer k = some (p, t)) : Serves s t := by
  simp only [State.offer] at h
  split at h
  · obtain ⟨l, hl, hplace⟩ := Option.bind_eq_some_iff.1 h
    split at hplace
    · obtain ⟨s1, hs1, heq⟩ := Option.map_eq_some_iff.1 hplace
      cases heq
      exact serves_place (mem_launches_of_waitingIn (List.mem_of_head? hl)) hs1
    · contradiction
  · split at h
    · contradiction
    · obtain ⟨⟨g, n⟩, -, hinst⟩ := List.mem_filterMap.1 (List.mem_of_find?_eq_some h)
      dsimp only at hinst
      split at hinst
      · contradiction
      · obtain ⟨s1, hs1, heq⟩ := Option.map_eq_some_iff.1 hinst
        cases heq
        exact serves_startInstance hs1

/-! ### Requests to give way (R259) -/

/-- A thread with another note of a request to give way. -/
def askedBy (g : Thread → Option Bool) (u : Thread) : Thread := { u with pendPre := g u }

theorem ask1_eq (s there : State) (w : Want) : s.ask1 there w = s ∨ ∃ tid g, s.ask1 there w = s.modThread tid (askedBy g) := by
  simp only [State.ask1]
  split
  · exact .inl rfl
  · exact .inr ⟨_, fun u => some (u.ctx != w.ctx), rfl⟩

theorem yieldToReader_eq (s : State) (u : Thread) : s.yieldToReader u = s ∨ ∃ tid g, s.yieldToReader u = s.modThread tid (askedBy g) := by
  unfold State.yieldToReader
  split
  · exact .inl rfl
  · split
    · exact .inr ⟨_, fun _ => some false, rfl⟩
    · exact .inl rfl

/-- All that the requests change is the threads' notes of them: what such a change keeps, `askVictim` keeps. -/
theorem askVictim_keeps {P : State → Prop} (hP : ∀ s tid g, P s → P (s.modThread tid (askedBy g))) (h : P s) : P s.askVictim := by
  simp only [State.askVictim]
  refine List.foldlRecOn (motive := P) _ _ (List.foldlRecOn (motive := P) _ _ h fun s hs x _ => ?asked) fun s hs u _ => ?yields
  case asked =>
    obtain heq | ⟨tid, g, heq⟩ := ask1_eq s x.2 x.1 <;> rw [heq]
    · exact hs
    · exact hP s tid g hs
  case yields =>
    obtain heq | ⟨tid, g, heq⟩ := yieldToReader_eq s u <;> rw [heq]
    · exact hs
    · exact hP s tid g hs

@[simp] theorem askVictim_sched (s : State) : s.askVictim.sched = s.sched :=
  askVictim_keeps (P := fun t => t.sched = s.sched) (fun t tid g h => by rwa [modThread_sched]) rfl

theorem serves_askVictim (s : State) : Serves s s.askVictim :=
  askVictim_keeps (P := Serves s)
    (fun _ _ _ h => h.trans (serves_modThread fun v hv _ => ⟨v, hv, rfl, fun _ _ _ _ _ h => h⟩)) (.refl s)

/-! ### Whom the scheduler serves (R260) -/

/-- The contenders that can be served, in order: number, priority, and the machine after the placement. -/
def contenders (s : State) : List (Nat × Nat × State) := (List.range 65).filterMap fun k => (s.offer k).map fun x => (k, x.1, x.2)

theorem mem_contenders {x : Nat × Nat × State} : x ∈ contenders s ↔ x.1 < 65 ∧ s.offer x.1 = some x.2 := by
  simp only [contenders, List.mem_filterMap, List.mem_range, Option.map_eq_some_iff]
  constructor
  · rintro ⟨k, hk, y, hy, rfl⟩
    exact ⟨hk, hy⟩
  · rintro ⟨hk, hx⟩
    exact ⟨x.1, hk, x.2, hx, rfl⟩

theorem contenders_pairwise (s : State) : (contenders s).Pairwise fun x y => x.1 < y.1 := by
  refine List.Pairwise.filterMap _ (fun j k hjk x hx y hy => ?_) List.pairwise_lt_range
  obtain ⟨a, -, rfl⟩ := Option.map_eq_some_iff.1 hx
  obtain ⟨b, -, rfl⟩ := Option.map_eq_some_iff.1 hy
  exact hjk

/-- The contenders of one priority, in order. -/
def contendersAt (s : State) (p : Nat) : List (Nat × Nat × State) := (contenders s).filter fun x => x.2.1 = p

/-- The winner has the highest priority; it is the first of its priority from the pointer on or, where none stands there, the first. -/
theorem winner_eq_some {k p : Nat} (h : s.winner = some (k, p, t)) :
    (∀ x ∈ contenders s, x.2.1 ≤ p) ∧
    ((contendersAt s p).find? (fun x => s.sched.pointers.toList.getD p 0 ≤ x.1) = some (k, p, t) ∨
      (∀ x ∈ contendersAt s p, x.1 < s.sched.pointers.toList.getD p 0) ∧ (contendersAt s p).head? = some (k, p, t)) := by
  have hwinner : s.winner = match ((contenders s).map fun x => x.2.1).max? with
    | none => none
    | some p => match (contendersAt s p).find? (fun x => s.sched.pointers.toList.getD p 0 ≤ x.1) with
      | some x => some x
      | none => (contendersAt s p).head? := rfl
  rw [hwinner] at h
  split at h
  · contradiction
  next q hq =>
    have hmem : ∀ x ∈ contendersAt s q, x.2.1 = q := fun x hx => by simpa using (List.mem_filter.1 hx).2
    have hmax : ∀ x ∈ contenders s, x.2.1 ≤ q := fun x hx =>
      (List.max?_eq_some_iff.1 hq).2 _ (List.mem_map_of_mem hx)
    split at h
    next x hx =>
      cases h
      obtain rfl : p = q := hmem _ (List.mem_of_find?_eq_some hx)
      exact ⟨hmax, .inl hx⟩
    next hnone =>
      obtain rfl : p = q := hmem _ (List.mem_of_head? h)
      exact ⟨hmax, .inr ⟨by simpa using hnone, h⟩⟩

theorem mem_contendersAt_of_winner {k p : Nat} (h : s.winner = some (k, p, t)) : (k, p, t) ∈ contendersAt s p := by
  obtain ⟨-, hfind | ⟨-, hhead⟩⟩ := winner_eq_some h
  · exact List.mem_of_find?_eq_some hfind
  · exact List.mem_of_head? hhead

theorem offer_of_winner {k p : Nat} (h : s.winner = some (k, p, t)) : s.offer k = some (p, t) :=
  (mem_contenders.1 (List.mem_filter.1 (mem_contendersAt_of_winner h)).1).2

/-- How far a contender stands from a pointer, counting on from it and wrapping after 64 (R260). -/
def ahead (ptr j : Nat) : Nat := if ptr ≤ j then j - ptr else j + 65 - ptr

/-- In a list in rising order of numbers, the first that `q` admits stands before every other that `q` admits. -/
theorem le_of_find? {xs : List (Nat × Nat × State)} {x y : Nat × Nat × State} {q : Nat × Nat × State → Bool}
    (hxs : xs.Pairwise fun x y => x.1 < y.1) (hx : xs.find? q = some x) (hy : y ∈ xs) (hq : q y = true) : x.1 ≤ y.1 := by
  obtain ⟨-, before, after, rfl, hbefore⟩ := List.find?_eq_some_iff_append.1 hx
  have hlater : ∀ z ∈ after, x.1 < z.1 := (List.pairwise_cons.1 (List.pairwise_append.1 hxs).2.1).1
  obtain hy | hy := List.mem_append.1 hy
  · have hnot := hbefore y hy
    simp [hq] at hnot
  · obtain rfl | hy := List.mem_cons.1 hy
    · exact Nat.le_refl _
    · exact Nat.le_of_lt (hlater y hy)

theorem le_of_head? {xs : List (Nat × Nat × State)} {x y : Nat × Nat × State} (hxs : xs.Pairwise fun x y => x.1 < y.1)
    (hx : xs.head? = some x) (hy : y ∈ xs) : x.1 ≤ y.1 := by
  obtain ⟨after, rfl⟩ := List.head?_eq_some_iff.1 hx
  obtain rfl | hy := List.mem_cons.1 hy
  · exact Nat.le_refl _
  · exact Nat.le_of_lt ((List.pairwise_cons.1 hxs).1 y hy)

theorem winner_first {k p : Nat} (h : s.winner = some (k, p, t)) (hptr : s.sched.pointers.toList.getD p 0 < 65) {j q : Nat} {r : State}
    (hj : j < 65) (ho : s.offer j = some (q, r)) :
    q ≤ p ∧ (q = p → ahead (s.sched.pointers.toList.getD p 0) k ≤ ahead (s.sched.pointers.toList.getD p 0) j) := by
  have hr : (j, q, r) ∈ contenders s := mem_contenders.2 ⟨hj, ho⟩
  have hk : k < 65 := (mem_contenders.1 (List.mem_filter.1 (mem_contendersAt_of_winner h)).1).1
  have hsorted : (contendersAt s p).Pairwise fun x y => x.1 < y.1 := (contenders_pairwise s).filter _
  obtain ⟨hmax, hfirst⟩ := winner_eq_some h
  refine ⟨hmax _ hr, ?_⟩
  rintro rfl
  have hmem : (j, q, r) ∈ contendersAt s q := List.mem_filter.2 ⟨hr, by simp⟩
  unfold ahead
  obtain hfind | ⟨hbelow, hhead⟩ := hfirst
  · have hptrk : s.sched.pointers.toList.getD q 0 ≤ k := by simpa using List.find?_some hfind
    rw [if_pos hptrk]
    split
    next hptrj => 
      have : k ≤ j := le_of_find? hsorted hfind hmem (by simpa using hptrj)
      omega
    · omega
  · have hjlt : j < s.sched.pointers.toList.getD q 0 := hbelow _ hmem
    have hklt : k < s.sched.pointers.toList.getD q 0 := hbelow _ (List.mem_of_head? hhead)
    have hkj : k ≤ j := le_of_head? hsorted hhead hmem
    rw [if_neg (by omega), if_neg (by omega)]
    omega

theorem serves_serve (s : State) : Serves s s.serve := by
  unfold State.serve
  split
  · exact .refl s
  · split
    · exact .refl s
    next k p s1 hw => exact (serves_offer (offer_of_winner hw)).trans (.of_lists rfl rfl rfl rfl rfl)

theorem serves_closeQueues (s : State) : Serves s s.closeQueues := by
  unfold State.closeQueues
  split
  · exact .of_lists rfl rfl rfl rfl rfl
  · exact .refl s

end Sys2Proof.Proofs
end

section
/-! SUPPORT. The scheduler's steps (spec/15): THREAD_START, a node that enters the ready pool, and the end of a generation. -/

namespace Sys2Proof.Proofs

open Sys2Proof.Machine Sys2Proof.Safety Sys2Proof.Laws

variable {s t : State} {gid n : Nat} {g : Gen}

/-! ### THREAD_START (R257, R260) -/

theorem runs_threadStart_of_paused (h : s.sched.paused = true) : runs .threadStart s s := by
  show execThreadStart s = .next s
  rw [execThreadStart, if_pos h]

theorem runs_threadStart_of_running (h : s.sched.paused = false) : runs .threadStart s s.askVictim.serve.closeQueues := by
  show execThreadStart s = .next s.askVictim.serve.closeQueues
  rw [execThreadStart, if_neg (by simp [h])]

theorem serve_of_paused (h : s.sched.paused = true) : s.serve = s := by
  rw [State.serve, if_pos h]

theorem serve_of_no_winner (h : s.winner = none) : s.serve = s := by
  unfold State.serve
  rw [h]
  exact ite_self s

theorem serve_of_winner {k p : Nat} (hp : s.sched.paused = false) (h : s.winner = some (k, p, t)) :
    s.serve = { t with sched := { t.sched with pointers := setPointer t.sched.pointers p ((k + 1) % 65) } } := by
  unfold State.serve
  rw [if_neg (by simp [hp]), h]

theorem getElem_setPointer (v : Vector Nat 8) (p x : Nat) (q : Fin 8) : (setPointer v p x)[q] = if q.val = p then x else v[q] := by
  unfold setPointer
  split
  next hp =>
    show (v.set p x hp)[q.val] = _
    rw [Vector.getElem_set]
    simp only [eq_comm]
    rfl
  next hp => rw [if_neg (by omega)]

theorem closeQueues_of_no_update (h : s.svc.upd ≠ 1) : s.closeQueues = s := by
  unfold State.closeQueues
  rw [if_neg fun hall => h hall.1]

theorem serves_threadStart (h : runs .threadStart s t) : Serves s t := by
  cases hp : s.sched.paused with
  | true =>
    cases (runs_threadStart_of_paused hp).symm.trans h
    exact .refl s
  | false =>
    cases (runs_threadStart_of_running hp).symm.trans h
    exact ((serves_askVictim s).trans (serves_serve _)).trans (serves_closeQueues _)

/-! ### A node enters the ready pool (R271) -/

/-- The pool holds the node, and its generation is `g` with the node ready. -/
def Pooled (t : State) (gid n : Nat) (g : Gen) : Prop :=
  t.gen gid = some { g with st := g.st.set n .ready } ∧ (gid, n) ∈ t.sched.pool

theorem gen_modGen {f : Gen → Gen} (hid : ∀ z, (f z).id = z.id) (hg : s.gen gid = some g) : (s.modGen gid f).gen gid = some (f g) := by
  have hpred : (fun x : Gen => decide (x.id = gid)) ∘ (fun x => if x.id = gid then f x else x) = fun x => decide (x.id = gid) := by
    funext x
    dsimp only [Function.comp_apply]
    split
    · rw [hid]
    · rfl
  have hgid : g.id = gid := by simpa using List.find?_some hg
  have hfind : (s.sched.gens.find? fun x => decide (x.id = gid)) = some g := hg
  rw [State.gen, State.modGen, List.find?_map, hpred, hfind, Option.map_some, if_pos hgid]

theorem state_setReady (hst : n < g.st.length) : Gen.state { g with st := g.st.set n .ready } n = .ready := by
  simp [Gen.state, hst]

/-- The node enters the pool; a placement follows only where the pool wins it and it takes this node on. -/
theorem runs_graphInstanceStart (hg : s.skipFailed.gen gid = some g) (hw : g.state n = .waiting) (hn : n < g.nodes.length)
    (he : s.skipFailed.eligible g n = true) (hroom : s.skipFailed.sched.pool.length < 4096) :
    ∃ t, Pooled t gid n g ∧ (runs (.graphInstanceStart gid n) s t ∨
      runs (.graphInstanceStart gid n) s t.serve ∧
        ∃ p r, t.winner = some (64, p, r) ∧ ∃ z, r.gen gid = some z ∧ z.state n ≠ .ready) := by
  have hx : g.nodes[n]? = some g.nodes[n] := List.getElem?_eq_getElem hn
  have hexec : exec (.graphInstanceStart gid n) s = execGraphInstanceStart gid n s := rfl
  simp only [runs, hexec, execGraphInstanceStart, hg, hw, he, hn, hroom, hx, and_self, if_true]
  generalize hin : State.modGen s.skipFailed gid _ = entered
  have hgen : entered.gen gid = some { g with st := g.st.set n .ready } := hin ▸ gen_modGen (fun _ => rfl) hg
  generalize ht : (if g.nodes[n].cls = 0 then _ else _ : State) = t
  have hpooled : Pooled t gid n g := by
    subst ht
    split
    · exact ⟨hgen, List.mem_append_right _ (List.mem_singleton_self _)⟩
    · split <;> exact ⟨hgen, List.mem_append_right _ (List.mem_singleton_self _)⟩
  refine ⟨t, hpooled, ?_⟩
  split
  next p r hwin =>
    split
    next hany =>
      obtain ⟨z, hz, hne⟩ := (Option.any_eq_true _ _).1 hany
      exact .inr ⟨rfl, p, r, hwin, z, hz, by simpa using hne⟩
    · exact .inl rfl
  · exact .inl rfl

theorem runs_graphInstanceStart_enters (hg : s.skipFailed.gen gid = some g) (hw : g.state n = .waiting) (hn : n < g.nodes.length) (hst : n < g.st.length)
    (he : s.skipFailed.eligible g n = true) (hroom : s.skipFailed.sched.pool.length < 4096) :
    ∃ t z, runs (.graphInstanceStart gid n) s t ∧ t.gen gid = some z ∧ z.state n ≠ .waiting ∧
      (z.state n = .ready → (gid, n) ∈ t.sched.pool) := by
  obtain ⟨t, ⟨hgen, hpool⟩, hrun⟩ := runs_graphInstanceStart hg hw hn he hroom
  have hnot : Gen.state { g with st := g.st.set n .ready } n ≠ .waiting := by rw [state_setReady hst]; decide
  obtain hrun | ⟨hrun, p, r, hwin, z, hz, hne⟩ := hrun
  · exact ⟨t, _, hrun, hgen, hnot, fun _ => hpool⟩
  · cases hp : t.sched.paused with
    | true =>
      rw [serve_of_paused hp] at hrun
      exact ⟨t, _, hrun, hgen, hnot, fun _ => hpool⟩
    | false =>
      obtain ⟨z', hz', hdecided⟩ := (serves_offer (offer_of_winner hwin)).gens gid n ⟨_, hgen, hnot⟩
      obtain rfl : z' = z := Option.some.inj (hz'.symm.trans hz)
      rw [serve_of_winner hp hwin] at hrun
      exact ⟨_, z', hrun, hz, hdecided, fun h => absurd h hne⟩

/-! ### The end of a generation (R271) -/

@[simp] theorem skipRest_header (z : Gen) : (Gen.skipRest z).ctx = z.ctx ∧ (Gen.skipRest z).addr = z.addr ∧ (Gen.skipRest z).g = z.g := by
  unfold Gen.skipRest
  split <;> exact ⟨rfl, rfl, rfl⟩

/-- Nothing of the generation is left: every node has ended, no older generation of its graph stands, and no numbered request of it is
unresolved or waits for its record (R271, R314; log entry 81). -/
structure GenEnded (s : State) (gid : Nat) (g : Gen) : Prop where
  states  : ∀ x ∈ g.st, x = .finished ∨ x = .skipped ∨ x = .failed
  numbers : ∀ c ∈ s.ctxs, (∀ o ∈ c.out, o.st ≠ .resolved → ∀ x, o.gen = some x → x.1 ≠ gid) ∧ ∀ r ∈ c.records, ∀ x, r.out.gen = some x → x.1 ≠ gid
  oldest  : ∀ o ∈ s.sched.gens, o.ctx = g.ctx → o.addr = g.addr → o.g ≠ g.g → atOrBelow g.g o.g = false

/-- The status byte of a generation (R266). -/
def genStatus (g : Gen) : Byte := (if g.failed then 1 else 0) + (if g.deferred then 2 else 0)

/-- Memory after the generation's status byte at `pb` and then `finished` at `pf` have been written. -/
def finishedMem (m : Memory) (g : Gen) (pb pf : Nat) : Memory :=
  let m1 := memWrite m pb [genStatus g]
  memWrite m1 pf (leBytes 4 (leNat (memRead m1 pf 4) + 1))

theorem memByte_finishedMem {m : Memory} {pb pf : Nat} (hm : m.wf = true) (hapart : pb < pf ∨ pf + 4 ≤ pb) :
    memByte (finishedMem m g pb pf) pb = genStatus g := by
  rw [finishedMem, memByte_memWrite (memWrite_wf hm ..), leBytes_length, if_neg (by omega), memByte_memWrite hm, if_pos (by simp)]
  simp

theorem leNat_memRead_finishedMem {m : Memory} {pb pf : Nat} (hm : m.wf = true) (hapart : pb < pf ∨ pf + 4 ≤ pb) :
    leNat (memRead (finishedMem m g pb pf) pf 4) = (leNat (memRead m pf 4) + 1) % 2 ^ 32 := by
  have hread : memRead (memWrite m pb [genStatus g]) pf 4 = memRead m pf 4 :=
    memRead_memWrite_apart hm pb pf 4 _ (by simp only [List.length_singleton]; omega)
  have hback := memRead_memWrite (memWrite_wf hm pb [genStatus g]) pf (leBytes 4 (leNat (memRead m pf 4) + 1))
  rw [leBytes_length] at hback
  rw [finishedMem, hread, hback, leNat_leBytes]

theorem paOf_skipFailed (s : State) (c : BitVec 32) (pl : BitVec 2) (va : Word) (acc : Access) :
    s.skipFailed.paOf c pl va acc = s.paOf c pl va acc := rfl

/-- The generation's counters are written, and it leaves the scheduler. -/
def finishGen (s : State) (gid : Nat) (g : Gen) (pb pf : Nat) : State :=
  let s1 := s.skipFailed.apply pb [genStatus g]
  let s2 := s1.apply pf (leBytes 4 (leNat (memRead s1.mem pf 4) + 1))
  { s2 with sched := { s2.sched with gens := s2.sched.gens.filter fun x => x.id ≠ gid } }

theorem finishGen_mem (s : State) (gid : Nat) (g : Gen) (pb pf : Nat) : (finishGen s gid g pb pf).mem = finishedMem s.mem g pb pf := by
  simp only [finishGen, finishedMem, apply_mem, skipFailed_mem]

theorem finishGen_th (s : State) (gid : Nat) (g : Gen) (pb pf : Nat) : (finishGen s gid g pb pf).th = s.th := by
  simp only [finishGen, apply_th, skipFailed_th]

theorem id_ne_of_mem_finishGen {pb pf : Nat} {z : Gen} (hz : z ∈ (finishGen s gid g pb pf).sched.gens) : z.id ≠ gid := by
  simpa using (List.mem_filter.1 hz).2

/-- A generation that has ended finishes, where its counters translate. -/
theorem runs_graphGenerationFinish {pb pf : Nat} (hg : s.skipFailed.gen gid = some g) (hend : GenEnded s gid g)
    (hpb : s.paOf g.ctx 1 (g.addr + BitVec.ofNat 64 (16 + g.g.toNat % 8)) .write = some pb)
    (hpf : s.paOf g.ctx 1 (g.addr + BitVec.ofNat 64 12) .write = some pf) :
    runs (.graphGenerationFinish gid) s (finishGen s gid g pb pf) := by
  have hended : (g.st.all fun x => x == .finished || x == .skipped || x == .failed) = true := by
    refine List.all_eq_true.2 fun x hx => ?_
    obtain rfl | rfl | rfl := hend.states x hx <;> rfl
  have holder : (s.skipFailed.sched.gens.any fun o => o.ctx = g.ctx && o.addr = g.addr && o.g != g.g && atOrBelow g.g o.g) = false := by
    refine List.any_eq_false.2 fun o ho => ?_
    obtain ⟨z, hz, rfl⟩ := List.mem_map.1 ho
    simpa [skipRest_header] using fun hctx haddr hne => hend.oldest z hz hctx haddr hne
  have hremote : (s.skipFailed.ctxs.any fun c => (c.out.any fun o => o.st != .resolved && o.gen.any fun x => x.1 = gid) ||
      c.records.any fun r => r.out.gen.any fun x => x.1 = gid) = false := by
    refine List.any_eq_false.2 fun c hc => ?_
    obtain ⟨hout, hrecords⟩ := hend.numbers c hc
    simp only [Bool.or_eq_true, List.any_eq_true, Bool.and_eq_true, bne_iff_ne, Option.any_eq_true, decide_eq_true_eq]
    rintro (⟨o, ho, hst, x, hx, hgid⟩ | ⟨r, hr, x, hx, hgid⟩)
    · exact hout o ho hst x hx hgid
    · exact hrecords r hr x hx hgid
  show execGraphGenerationFinish gid s = _
  simp only [execGraphGenerationFinish, hg, hended, holder, hremote, paOf_skipFailed, hpb, hpf, Bool.not_true, Bool.or_false,
    Bool.false_eq_true, if_false]
  rfl

/-- Settles O49: the scheduler's service is one placement, of whose threads `Serves` says what they hold; the node that enters the pool and the
generation that ends are followed through their steps. -/
theorem schedulerEvents : Obligations.SchedulerEvents := by
  unfold Obligations.SchedulerEvents
  intro s
  refine ⟨runs_threadStart_of_paused, ?noWinner, ?served, closeQueues_of_no_update, ?first, ?starts, ?pool, ?finish⟩
  case noWinner =>
    intro hp hw
    have h := runs_threadStart_of_running hp
    rw [serve_of_no_winner hw] at h
    exact h
  case served =>
    intro hp k p s1 hw
    have hserve := serve_of_winner (by rw [askVictim_sched]; exact hp) hw
    refine ⟨s.askVictim.serve, runs_threadStart_of_running hp, by rw [hserve], fun q => ?_⟩
    rw [hserve]
    exact getElem_setPointer ..
  case first =>
    intro k p s1 hw
    exact ⟨offer_of_winner hw, fun hptr j hj q sj hoffer => winner_first hw hptr (by omega) hoffer⟩
  case starts =>
    intro t ht u hu hnew
    obtain ⟨v, hv, htid, -⟩ | ⟨l, hl, c0, m, h, i, n, hc, hstart⟩ := (serves_threadStart ht).threads u (List.mem_cons_of_mem _ hu)
    · exact absurd htid (hnew v hv)
    · exact ⟨l, hl, c0, c0.loaded m, m, h, i, n, hc, rfl, hstart⟩
  case pool =>
    intro gid n g hg hw hn hst he hroom
    exact runs_graphInstanceStart_enters hg hw hn hst he hroom
  case finish =>
    intro gid g pb pf hm hg hstates hnumbers holdest hpb hpf hapart
    refine ⟨_, runs_graphGenerationFinish hg ⟨hstates, hnumbers, holdest⟩ hpb hpf, ?_, ?_, fun z hz => id_ne_of_mem_finishGen hz,
      finishGen_th ..⟩
    · rw [finishGen_mem, memByte_finishedMem hm hapart, genStatus]
    · rw [finishGen_mem, leNat_memRead_finishedMem hm hapart]

end Sys2Proof.Proofs
end

section
/-! SUPPORT. What taking a trap writes, at M and below it (R273, R276), and the instruction `trap` (R292). -/

namespace Sys2Proof.Proofs

open Sys2Proof.Machine Sys2Proof.Safety

/-! ### Taking a trap (R276) -/

/-- The cause word of a scalar trap holds the cause alone (R274). -/
theorem causeWord_scalar (cause : Byte) : causeWord cause false 0 = cause.setWidth 64 := by simp [causeWord]

section TakeTrap

variable (t : Thread) (cause : Byte) (el : Bool) (went : Nat) (epc val : Word)

/-- The level after a trap uses the registers that the trap wrote: those of M at M, else those of S (R273). -/
theorem takeTrap_tregs : (t.takeTrap cause el went epc val).tregs =
    { t.tregs with ppl := t.pl, pie := t.tregs.ie, ie := false, cause := causeWord cause el went, epc := epc, val := val } := by
  by_cases hM : t.pl = 3
  · simp only [Thread.takeTrap, Thread.setTregs, Thread.tregs, if_pos hM, if_true]
  · have hS : ¬(1 : BitVec 2) = 3 := by decide
    simp only [Thread.takeTrap, Thread.setTregs, Thread.tregs, if_neg hM, if_neg hS]

@[simp] theorem takeTrap_frozen : (t.takeTrap cause el went epc val).frozen = true := rfl

/-- Control enters slot 1 of the vector's line (R276). -/
@[simp] theorem takeTrap_pc : (t.takeTrap cause el went epc val).pc = t.tregs.vec + 2 := rfl

@[simp] theorem takeTrap_x : (t.takeTrap cause el went epc val).x = t.x := by
  unfold Thread.takeTrap Thread.setTregs
  split <;> rfl

@[simp] theorem getX_takeTrap (r : XReg) : (t.takeTrap cause el went epc val).getX r = t.getX r := by
  simp only [Thread.getX, takeTrap_x]

end TakeTrap

/-! ### The instruction `trap` (R292) -/

/-- The state after `trap code`: TRAP is taken at the next head, because `trap` itself is committed. -/
def trapCommitted (code : BitVec 24) (s : State) : State :=
  { s with th := s.th.takeTrap cTRAP false 0 s.th.nextPc (code.setWidth 64), stalled := false }

theorem runs_trap {s : State} (hready : trapReady s) (code : BitVec 24) : runs (.trap code) s (trapCommitted code s) := by
  obtain ⟨hrun, hcheck⟩ := hready
  show execTrap code s = _
  simp [execTrap, hrun, hcheck, trapCommitted]

theorem trapCommitted_tregs (code : BitVec 24) (s : State) : (trapCommitted code s).th.tregs =
    { s.th.tregs with ppl := s.th.pl, pie := s.th.tregs.ie, ie := false, cause := cTRAP.setWidth 64, epc := s.th.nextPc,
                      val := code.setWidth 64 } := by
  rw [← causeWord_scalar cTRAP]
  exact takeTrap_tregs ..

/-- Settles O11: the next state is `trapCommitted`, whose trap registers are those that taking TRAP writes. -/
theorem trapInstruction : Obligations.TrapInstruction := by
  unfold Obligations.TrapInstruction
  intro code s hready
  have hkeeps : keepsX s (trapCommitted code s) [] := fun r _ => getX_takeTrap s.th cTRAP false 0 s.th.nextPc (code.setWidth 64) r
  refine ⟨trapCommitted code s, runs_trap hready code, ?_⟩
  rw [trapCommitted_tregs]
  exact ⟨rfl, rfl, rfl, rfl, rfl, rfl, takeTrap_frozen .., takeTrap_pc .., hkeeps, rfl, rfl⟩

end Sys2Proof.Proofs
end

section
/-! SUPPORT. The walk of the page tables (R277–R279): what each level answers by its entry, which entry of a run of 16 stands for which,
and the place that a leaf gives. -/

namespace Sys2Proof.Proofs

open Sys2Proof.Machine Sys2Proof.Safety

variable {s : State} {acc : Access} {m : Memory} {fr va sh lv table k : Nat} {e x : BitVec 64}

/-! ### Entries of the tables (R278) -/

theorem extractLsb'_congr {w start len : Nat} {u v : BitVec w} (h : ∀ i < len, u.getLsbD (start + i) = v.getLsbD (start + i)) :
    u.extractLsb' start len = v.extractLsb' start len := by
  ext i hi
  simpa [hi] using h i hi

/-- A well-formed entry that names the next table (R278). -/
def IsTable (e : BitVec 64) : Prop :=
  e.getLsbD 0 = true ∧ e.getLsbD 1 = false ∧ e.extractLsb' 2 12 = 0 ∧ e.extractLsb' 48 16 = 0

/-- An entry that is malformed as a leaf of any level (R278). -/
def BadLeaf (e : BitVec 64) : Prop :=
  e.getLsbD 48 = true ∨ e.extractLsb' 7 7 ≠ 0 ∨ e.getLsbD 1 = false ∨ (e.getLsbD 49 = false ∧ e.extractLsb' 50 14 ≠ 0)

/-- The leaf allows the access at the level (R278). -/
def MayAccess (pl : BitVec 2) (acc : Access) (e : BitVec 64) : Prop :=
  (pl = 0 → e.getLsbD 5 = true) ∧ (acc = .read ∨ acc = .both → e.getLsbD 2 = true) ∧
    (acc = .write ∨ acc = .both → e.getLsbD 3 = true) ∧ (acc = .fetch → e.getLsbD 4 = true)

theorem grants_iff (pl : BitVec 2) : grants e pl acc = true ↔ MayAccess pl acc e := by
  unfold grants MayAccess
  rw [Bool.and_eq_true, Bool.or_eq_true, bne_iff_ne, ← Decidable.imp_iff_not_or]
  cases acc <;> simp

theorem extractLsb'_eq_zero_iff {w start len : Nat} {v : BitVec w} :
    v.extractLsb' start len = 0 ↔ ∀ j, start ≤ j → j < start + len → v.getLsbD j = false := by
  constructor
  · intro h j hj hlt
    simpa [show j - start < len by omega, show start + (j - start) = j by omega] using congrArg (·.getLsbD (j - start)) h
  · intro h
    ext i hi
    simpa using h (start + i) (by omega) (by omega)

/-- The fields that are zero in an entry that is not a leaf, cut as the model tests them. -/
theorem tableFields_iff : (e.extractLsb' 2 12 = 0 ∧ e.extractLsb' 48 16 = 0) ↔
    (e.getLsbD 48 = false ∧ e.extractLsb' 7 7 = 0 ∧ e.extractLsb' 49 15 = 0 ∧ e.extractLsb' 2 5 = 0) := by
  simp only [extractLsb'_eq_zero_iff]
  constructor
  · rintro ⟨low, high⟩
    exact ⟨high 48 (by omega) (by omega), fun j _ _ => low j (by omega) (by omega), fun j _ _ => high j (by omega) (by omega),
      fun j _ _ => low j (by omega) (by omega)⟩
  · rintro ⟨h48, h7, h49, h2⟩
    refine ⟨fun j _ _ => ?_, fun j _ _ => ?_⟩
    · rcases Nat.lt_or_ge j 7 with h | h
      · exact h2 j (by omega) (by omega)
      · exact h7 j (by omega) (by omega)
    · rcases Nat.eq_or_lt_of_le ‹48 ≤ j› with rfl | h
      · exact h48
      · exact h49 j (by omega) (by omega)

theorem badEntry_eq_false_of_isTable (hlv : lv ≠ 3) (h : IsTable e) : badEntry lv e = false := by
  obtain ⟨-, hleaf, hfields⟩ := h
  obtain ⟨h48, h7, h49, h2⟩ := tableFields_iff.1 hfields
  simp [-BitVec.getLsbD_eq_getElem, badEntry, hleaf, h48, h7, h49, h2, hlv]

/-- At a level without leaves, and without the bit that makes it a leaf, an entry that names no table is malformed. -/
theorem badEntry_of_not_isTable (hv : e.getLsbD 0 = true) (hleaf : e.getLsbD 1 = true → lv ≤ 1) (h : ¬IsTable e) :
    badEntry lv e = true := by
  cases hl : e.getLsbD 1
  case true => simp [-BitVec.getLsbD_eq_getElem, badEntry, hl, hleaf hl]
  case false =>
    refine Decidable.byContradiction fun hgood => h ⟨hv, hl, tableFields_iff.2 ?_⟩
    simp only [badEntry, hl, Bool.not_eq_true, Bool.or_eq_false_iff, bne_eq_false_iff_eq, Bool.false_and, Bool.not_false,
      Bool.true_and, and_true] at hgood
    obtain ⟨⟨⟨h48, h7⟩, -⟩, h49, h2⟩ := hgood
    exact ⟨h48, h7, h49, h2⟩

theorem leaf_of_not_badLeaf (h : ¬BadLeaf e) : e.getLsbD 1 = true := by
  cases hl : e.getLsbD 1
  case true => rfl
  case false => exact absurd (.inr (.inr (.inl hl))) h

theorem badEntry_level2_iff (hl : e.getLsbD 1 = true) : badEntry 2 e = true ↔ BadLeaf e ∨ e.extractLsb' 14 11 ≠ 0 := by
  simp only [badEntry, BadLeaf, hl, Bool.or_eq_true, Bool.and_eq_true, bne_iff_ne, Bool.not_eq_true', decide_eq_true_eq, beq_iff_eq]
  grind

theorem badEntry_level3_iff : badEntry 3 e = true ↔ BadLeaf e := by
  cases hl : e.getLsbD 1 <;>
    simp [-BitVec.getLsbD_eq_getElem, badEntry, BadLeaf, hl, or_assoc]

/-! ### A run of 16 entries (R279) -/

/-- The entry of an address in a table. -/
def entryAt (m : Memory) (va sh table : Nat) : BitVec 64 := leWord (memRead m (table + 8 * (va / 2 ^ sh % 2 ^ 11)) 8)

/-- No entry of the aligned 16 that hold the entry of an address asks for a run. -/
def NoRun (m : Memory) (va sh table : Nat) : Prop := ∀ k < 16, contOf (runSlot m va sh table k) = false

/-- The aligned 16 entries that hold the entry of an address keep the conditions of a run. -/
def WholeRun (m : Memory) (va sh table : Nat) : Prop :=
  entryBase (runSlot m va sh table 0) % 2 ^ (sh + 4) = 0 ∧
    ∀ k < 16, runSlot m va sh table k = runSlot m va sh table 0 + BitVec.ofNat 64 (k * 2 ^ sh)

theorem runSlot_own : runSlot m va sh table (va / 2 ^ sh % 2 ^ 11 % 16) = entryAt m va sh table := by
  simp only [runSlot, entryAt, Nat.sub_add_cancel (Nat.mod_le ..)]

/-- The run begins at the index that is a multiple of 16. -/
theorem runSlot_eq : runSlot m va sh table k = leWord (memRead m (table + 8 * (va / 2 ^ sh % 2048 / 16 * 16 + k)) 8) := by
  simp only [runSlot, show va / 2 ^ sh % 2 ^ 11 - va / 2 ^ sh % 2 ^ 11 % 16 = va / 2 ^ sh % 2048 / 16 * 16 by omega]

theorem contOf_eq_false_iff : contOf e = false ↔ ¬(e.getLsbD 0 = true ∧ e.getLsbD 1 = true ∧ e.getLsbD 6 = true) := by
  rw [← and_assoc, ← Bool.and_eq_true, ← Bool.and_eq_true, Bool.not_eq_true]
  rfl

/-- Where there is no run, and at the levels that have no leaves, an access uses its own entry. -/
theorem runEntry_own (h : 25 < sh ∨ NoRun m va sh table) : runEntry m fr va sh table = (entryAt m va sh table, sh) := by
  have hnone : 25 < sh ∨ (!(List.range 16).any fun k => contOf (runSlot m va sh table k)) = true :=
    h.imp_right fun hno => by simpa [NoRun] using hno
  simp only [runEntry, if_pos hnone, runSlot_own]

/-- In a run that keeps its conditions an access uses its own entry or the run's first. -/
theorem runEntry_wholeRun (h : WholeRun m va sh table) :
    runEntry m fr va sh table = (entryAt m va sh table, sh) ∨ runEntry m fr va sh table = (runSlot m va sh table 0, sh + 4) := by
  by_cases hnone : 25 < sh ∨ (!(List.range 16).any fun k => contOf (runSlot m va sh table k)) = true
  · exact .inl (by simp only [runEntry, if_pos hnone, runSlot_own])
  · have hrun : entryBase (runSlot m va sh table 0) % 2 ^ (sh + 4) = 0 ∧
        (List.range 16).all (fun k => runSlot m va sh table k == runSlot m va sh table 0 + BitVec.ofNat 64 (k * 2 ^ sh)) = true :=
      ⟨h.1, by simpa using h.2⟩
    exact .inr (by simp only [runEntry, if_neg hnone, if_pos hrun])

theorem entryAt_wholeRun (h : WholeRun m va sh table) : entryAt m va sh table =
    runSlot m va sh table 0 + BitVec.ofNat 64 (va / 2 ^ sh % 16 * 2 ^ sh) := by
  rw [← runSlot_own, h.2 _ (Nat.mod_lt _ (by decide)), Nat.mod_mod_of_dvd _ (by decide)]

theorem testBit_entryBase (e : BitVec 64) (j : Nat) : (entryBase e).testBit j = (decide (14 ≤ j ∧ j < 48) && e.getLsbD j) := by
  unfold entryBase
  rw [Nat.testBit_mul_two_pow, BitVec.testBit_toNat, BitVec.getLsbD_extractLsb']
  by_cases hj : 14 ≤ j
  · simp [hj, show j - 14 < 34 ↔ j < 48 by omega]
  · simp [hj]

theorem testBit_run_offset {j : Nat} (hk : k < 16) (hj : j < sh ∨ sh + 4 ≤ j) : (k * 2 ^ sh).testBit j = false := by
  rw [Nat.testBit_mul_two_pow]
  rcases hj with hj | hj
  · simp [show ¬sh ≤ j by omega]
  · rw [Nat.testBit_lt_two_pow (Nat.lt_of_lt_of_le hk (Nat.pow_le_pow_right (n := 2) (by decide) (show 4 ≤ j - sh by omega))), Bool.and_false]

section RunAligned

variable (hsh : 14 ≤ sh) (hsh' : sh + 4 ≤ 48) (hbase : entryBase x % 2 ^ (sh + 4) = 0)
include hsh hsh' hbase

theorem getLsbD_of_run_aligned {j : Nat} (hj : sh ≤ j) (hj' : j < sh + 4) : x.getLsbD j = false := by
  have haligned : (decide (j < sh + 4) && (entryBase x).testBit j) = false := by
    rw [← Nat.testBit_mod_two_pow, hbase, Nat.zero_testBit]
  simpa [testBit_entryBase, hj', show 14 ≤ j ∧ j < 48 by omega] using haligned

/-- An entry whose base is aligned to the run is moved on within the run by setting bits that it leaves 0. -/
theorem add_run_eq_or (hk : k < 16) : x + BitVec.ofNat 64 (k * 2 ^ sh) = x ||| BitVec.ofNat 64 (k * 2 ^ sh) := by
  refine BitVec.add_eq_or_of_and_eq_zero _ _ (BitVec.eq_of_getLsbD_eq fun j _ => ?_)
  rw [BitVec.getLsbD_and, BitVec.getLsbD_zero, BitVec.getLsbD_ofNat]
  by_cases hj : j < sh ∨ sh + 4 ≤ j
  · rw [testBit_run_offset hk hj, Bool.and_false, Bool.and_false]
  · rw [getLsbD_of_run_aligned hsh hsh' hbase (by omega) (by omega), Bool.false_and]

theorem getLsbD_add_run {j : Nat} (hk : k < 16) (hj : j < sh ∨ sh + 4 ≤ j) :
    (x + BitVec.ofNat 64 (k * 2 ^ sh)).getLsbD j = x.getLsbD j := by
  rw [add_run_eq_or hsh hsh' hbase hk, BitVec.getLsbD_or, BitVec.getLsbD_ofNat, testBit_run_offset hk hj, Bool.and_false, Bool.or_false]

theorem entryBase_add_run (hk : k < 16) : entryBase (x + BitVec.ofNat 64 (k * 2 ^ sh)) = entryBase x + k * 2 ^ sh := by
  have hsplit : entryBase x + k * 2 ^ sh = entryBase x ||| k * 2 ^ sh := by
    have hlt : k * 2 ^ sh < 2 ^ (sh + 4) := by
      rw [Nat.pow_add, Nat.mul_comm]
      exact Nat.mul_lt_mul_of_pos_left hk (Nat.two_pow_pos sh)
    obtain ⟨q, hq⟩ := Nat.dvd_of_mod_eq_zero hbase
    rw [hq, Nat.two_pow_add_eq_or_of_lt hlt]
  refine Nat.eq_of_testBit_eq fun j => ?_
  rw [hsplit, Nat.testBit_or, testBit_entryBase, testBit_entryBase, add_run_eq_or hsh hsh' hbase hk, BitVec.getLsbD_or,
    BitVec.getLsbD_ofNat]
  by_cases hj : j < sh ∨ sh + 4 ≤ j
  · simp [testBit_run_offset hk hj]
  · simp [show 14 ≤ j ∧ j < 48 by omega, show j < 64 by omega]

end RunAligned

/-! ### What stands for an entry -/

/-- The place that a leaf gives for an access, with log2 of the bytes that it maps. -/
def leafPlace (s : State) (acc : Access) (va : Nat) (p : BitVec 64 × Nat) : Except Byte Loc :=
  if grants p.1 s.th.pl acc then s.usable (leafLoc s.hiend.id (s.th.featen0.getLsbD 5) p.1 p.2 va) else .error cPROT

/-- What an access uses at a level answers as one entry there would, mapping `2 ^ sh` bytes. -/
structure StandsFor (s : State) (acc : Access) (va lv sh : Nat) (p : BitVec 64 × Nat) (e : BitVec 64) : Prop where
  valid : p.1.getLsbD 0 = e.getLsbD 0
  leaf : p.1.getLsbD 1 = e.getLsbD 1
  malformed : badEntry lv p.1 = badEntry lv e
  place : leafPlace s acc va p = leafPlace s acc va (e, sh)

theorem standsFor_self : StandsFor s acc va lv sh (e, sh) e := ⟨rfl, rfl, rfl, rfl⟩

/-- Bits 14 to 24 count against an entry at level 2 alone. -/
theorem badEntry_congr {y : BitVec 64} (h : ∀ j, j < 14 ∨ 48 ≤ j → y.getLsbD j = e.getLsbD j)
    (hlow : lv = 2 → y.extractLsb' 14 11 = e.extractLsb' 14 11) : badEntry lv y = badEntry lv e := by
  have hfield : ∀ start len, start + len ≤ 14 ∨ 48 ≤ start → y.extractLsb' start len = e.extractLsb' start len :=
    fun start len hout => extractLsb'_congr fun i _ => h (start + i) (by omega)
  have hlow' : (lv == 2 && y.extractLsb' 14 11 != 0) = (lv == 2 && e.extractLsb' 14 11 != 0) := by
    by_cases hlv : lv = 2
    · rw [hlow hlv]
    · rw [beq_eq_false_iff_ne.2 hlv, Bool.false_and, Bool.false_and]
  simp only [badEntry, Bool.and_assoc, hlow', h 48 (by omega), h 1 (by omega), h 49 (by omega), hfield 7 7 (by omega),
    hfield 49 15 (by omega), hfield 2 5 (by omega), hfield 50 14 (by omega)]

theorem leafPlace_congr {y : BitVec 64} {lg : Nat} (h : ∀ j, j < 14 ∨ 48 ≤ j → y.getLsbD j = e.getLsbD j)
    (hpa : entryBase y + va % 2 ^ lg = entryBase e + va % 2 ^ sh) : leafPlace s acc va (y, lg) = leafPlace s acc va (e, sh) := by
  have hhome : y.extractLsb' 50 14 = e.extractLsb' 50 14 := extractLsb'_congr fun i _ => h (50 + i) (by omega)
  simp only [leafPlace, grants, leafLoc, hpa, hhome, h 2 (by omega), h 3 (by omega), h 4 (by omega), h 5 (by omega), h 49 (by omega)]

/-- The first entry of a run stands for the others, for the whole run (R279). -/
theorem standsFor_of_run (hsh : 14 ≤ sh) (hsh' : sh + 4 ≤ 48) (hlv : lv = 2 → 25 ≤ sh) (hbase : entryBase x % 2 ^ (sh + 4) = 0) :
    StandsFor s acc va lv sh (x, sh + 4) (x + BitVec.ofNat 64 (va / 2 ^ sh % 16 * 2 ^ sh)) := by
  have hk : va / 2 ^ sh % 16 < 16 := Nat.mod_lt _ (by decide)
  have hbits : ∀ j, j < sh ∨ sh + 4 ≤ j → x.getLsbD j = (x + BitVec.ofNat 64 (va / 2 ^ sh % 16 * 2 ^ sh)).getLsbD j :=
    fun j hj => (getLsbD_add_run hsh hsh' hbase hk hj).symm
  have hpa : entryBase x + va % 2 ^ (sh + 4) =
      entryBase (x + BitVec.ofNat 64 (va / 2 ^ sh % 16 * 2 ^ sh)) + va % 2 ^ sh := by
    rw [entryBase_add_run hsh hsh' hbase hk, Nat.pow_add, Nat.mod_mul, show (2 : Nat) ^ 4 = 16 from rfl,
      Nat.mul_comm (2 ^ sh), Nat.add_comm (va % 2 ^ sh), Nat.add_assoc]
  exact ⟨hbits 0 (by omega), hbits 1 (by omega),
    badEntry_congr (fun j _ => hbits j (by omega)) fun h2 => extractLsb'_congr fun i _ => hbits (14 + i) (by omega),
    leafPlace_congr (fun j _ => hbits j (by omega)) hpa⟩

theorem standsFor_runEntry (hsh : 14 ≤ sh) (hsh' : sh + 4 ≤ 48) (hlv : lv = 2 → 25 ≤ sh)
    (h : NoRun m va sh table ∨ WholeRun m va sh table) :
    StandsFor s acc va lv sh (runEntry m fr va sh table) (entryAt m va sh table) := by
  obtain hown | ⟨hwhole, hfirst⟩ : runEntry m fr va sh table = (entryAt m va sh table, sh) ∨
      WholeRun m va sh table ∧ runEntry m fr va sh table = (runSlot m va sh table 0, sh + 4) :=
    h.elim (fun hno => .inl (runEntry_own (.inr hno))) fun hw => (runEntry_wholeRun hw).imp_right fun hr => ⟨hw, hr⟩
  · rw [hown]
    exact standsFor_self
  · rw [hfirst, entryAt_wholeRun hwhole]
    exact standsFor_of_run hsh hsh' hlv hwhole.1

/-! ### One level of the walk (R277, R278) -/

/-- The place that the rest of a walk comes to. -/
def placeFrom (s : State) (acc : Access) (va : Nat) (shs : List Nat) (lv table : Nat) : Except Byte Loc :=
  (walkFrom s va shs lv table).bind (leafPlace s acc va)

theorem walkBad_of_no_bad_unit (h : s.badUnit = []) : s.walkBad va sh table = false := by simp [State.walkBad, State.touchesBad, h]

theorem placeFrom_of_bad_unit {r : List Nat} (h : s.touchesBad (table + 8 * (va / 2 ^ sh % 2 ^ 11)) 8 = true) :
    placeFrom s acc va (sh :: r) lv table = .error cDABORT := by
  simp only [placeFrom, walkFrom, State.walkBad, h, Bool.true_or, if_true]
  rfl

section Level

variable {r : List Nat} (hunits : s.badUnit = [])
include hunits

theorem placeFrom_of_invalid (h : StandsFor s acc va lv sh (runEntry s.mem s.fresh va sh table) e) (hv : e.getLsbD 0 = false) :
    placeFrom s acc va (sh :: r) lv table = .error cPAGE := by
  simp only [placeFrom, walkFrom, walkBad_of_no_bad_unit hunits, h.valid, hv, Bool.false_eq_true, if_false, Bool.not_false, if_true]
  rfl

theorem placeFrom_of_malformed (h : StandsFor s acc va lv sh (runEntry s.mem s.fresh va sh table) e) (hv : e.getLsbD 0 = true)
    (hbad : badEntry lv e = true) : placeFrom s acc va (sh :: r) lv table = .error cPROT := by
  simp only [placeFrom, walkFrom, walkBad_of_no_bad_unit hunits, h.valid, hv, h.malformed, hbad, Bool.false_eq_true, if_false,
    Bool.not_true, if_true]
  rfl

theorem placeFrom_of_leaf (h : StandsFor s acc va lv sh (runEntry s.mem s.fresh va sh table) e) (hv : e.getLsbD 0 = true)
    (hgood : badEntry lv e = false) (hleaf : e.getLsbD 1 = true) :
    placeFrom s acc va (sh :: r) lv table = leafPlace s acc va (e, sh) := by
  rw [← h.place]
  simp only [placeFrom, walkFrom, walkBad_of_no_bad_unit hunits, h.valid, hv, h.malformed, hgood, h.leaf, hleaf, Bool.false_eq_true,
    if_false, Bool.not_true, if_true]
  rfl

theorem placeFrom_of_isTable (hown : runEntry s.mem s.fresh va sh table = (e, sh)) (hlv : lv ≠ 3) (ht : IsTable e) :
    placeFrom s acc va (sh :: r) lv table = placeFrom s acc va r (lv + 1) (entryBase e) := by
  have hgood := badEntry_eq_false_of_isTable hlv ht
  obtain ⟨hv, hleaf, -⟩ := ht
  simp only [placeFrom, walkFrom, walkBad_of_no_bad_unit hunits, hown, hv, hleaf, hgood,
    Bool.false_eq_true, if_false, Bool.not_true]

/-- A level without leaves, and one whose entry is no leaf: what is not a table is malformed. -/
theorem placeFrom_of_not_isTable (h : StandsFor s acc va lv sh (runEntry s.mem s.fresh va sh table) e) (hv : e.getLsbD 0 = true)
    (hleaf : e.getLsbD 1 = true → lv ≤ 1) (ht : ¬IsTable e) : placeFrom s acc va (sh :: r) lv table = .error cPROT :=
  placeFrom_of_malformed hunits h hv (badEntry_of_not_isTable hv hleaf ht)

/-- A leaf that is well-formed at its level gives its place, where it allows the access. -/
theorem placeFrom_of_good_leaf (h : StandsFor s acc va lv sh (runEntry s.mem s.fresh va sh table) e) (hv : e.getLsbD 0 = true)
    (hgood : ¬badEntry lv e = true) (hleaf : e.getLsbD 1 = true) (hmay : MayAccess s.th.pl acc e) :
    placeFrom s acc va (sh :: r) lv table = s.usable (leafLoc s.hiend.id (s.th.featen0.getLsbD 5) e sh va) := by
  rw [placeFrom_of_leaf hunits h hv (Bool.not_eq_true _ ▸ hgood) hleaf, leafPlace, if_pos ((grants_iff _).2 hmay)]

/-- A leaf that is malformed at its level, and one that denies the access. -/
theorem placeFrom_of_bad_or_denied (h : StandsFor s acc va lv sh (runEntry s.mem s.fresh va sh table) e) (hv : e.getLsbD 0 = true)
    (hleaf : e.getLsbD 1 = true ∨ lv = 3) (hno : badEntry lv e = true ∨ ¬MayAccess s.th.pl acc e) :
    placeFrom s acc va (sh :: r) lv table = .error cPROT := by
  cases hgood : badEntry lv e
  case true => exact placeFrom_of_malformed hunits h hv hgood
  case false =>
    have hl : e.getLsbD 1 = true := hleaf.elim id fun h3 => leaf_of_not_badLeaf fun hb =>
      Bool.false_ne_true (hgood.symm.trans (h3 ▸ badEntry_level3_iff.2 hb))
    have hdenied : ¬grants e s.th.pl acc = true := fun hg =>
      hno.elim (fun hb => Bool.false_ne_true (hgood.symm.trans hb)) (· ((grants_iff _).1 hg))
    rw [placeFrom_of_leaf hunits h hv hgood hl, leafPlace, if_neg hdenied]

end Level

/-! ### The place of a leaf (R274, R278, R344) -/

section LeafPlace

variable {lg : Nat}

theorem usable_leafLoc_masked (hrmt : e.getLsbD 49 = true) (hmask : s.th.featen0.getLsbD 5 = false) :
    s.usable (leafLoc s.hiend.id (s.th.featen0.getLsbD 5) e lg va) = .error cPROT := by
  simp only [leafLoc, hrmt, hmask]
  rfl

theorem usable_leafLoc_away (hrmt : e.getLsbD 49 = true) (hhiend : s.th.featen0.getLsbD 5 = true)
    (hhome : e.extractLsb' 50 14 ≠ s.hiend.id) :
    s.usable (leafLoc s.hiend.id (s.th.featen0.getLsbD 5) e lg va) = .ok (.away (e.extractLsb' 50 14) (entryBase e + va % 2 ^ lg)) := by
  simp only [leafLoc, hrmt, hhiend, bne_iff_ne.2 hhome]
  rfl

/-- A page whose home is this device. -/
theorem usable_leafLoc_here (h : e.getLsbD 49 = false ∨ (s.th.featen0.getLsbD 5 = true ∧ e.extractLsb' 50 14 = s.hiend.id)) :
    s.usable (leafLoc s.hiend.id (s.th.featen0.getLsbD 5) e lg va) =
      if paKind (entryBase e + va % 2 ^ lg) = .reserved ∨ s.sliceRetired (entryBase e + va % 2 ^ lg) = true then .error cPROT
      else .ok (.here (entryBase e + va % 2 ^ lg)) := by
  have hlocal : leafLoc s.hiend.id (s.th.featen0.getLsbD 5) e lg va =
      if paKind (entryBase e + va % 2 ^ lg) = .reserved then .error cPROT else .ok (.here (entryBase e + va % 2 ^ lg)) := by
    obtain hrmt | ⟨hhiend, hhome⟩ := h
    · simp only [leafLoc, hrmt, Bool.false_and, Bool.false_eq_true, if_false]
    · simp only [leafLoc, hhiend, hhome, bne_self_eq_false, Bool.not_true, Bool.and_false, Bool.false_eq_true, if_false]
  rw [hlocal]
  by_cases hres : paKind (entryBase e + va % 2 ^ lg) = .reserved
  · rw [if_pos hres, if_pos (.inl hres)]
    rfl
  · simp only [hres, if_false, false_or]
    rfl

end LeafPlace

/-! ### What an access finds (R277, R280) -/

section Locate

variable {w : Word} {c : Ctx}

/-- The place of an address, or the fault of its translation. -/
def placeOf (s : State) (w : Word) (acc : Access) : Except Byte Loc := (s.locate w acc).map Prod.fst

theorem locate_of_placeOf_error {f : Byte} (h : placeOf s w acc = .error f) : s.locate w acc = .error f := by
  unfold placeOf at h
  cases hl : s.locate w acc with
  | error g => rw [hl] at h; cases h; rfl
  | ok p => rw [hl] at h; cases h

theorem locate_of_placeOf_ok {l : Loc} (h : placeOf s w acc = .ok l) : ∃ t, s.locate w acc = .ok (l, t) := by
  unfold placeOf at h
  cases hl : s.locate w acc with
  | error g => rw [hl] at h; cases h
  | ok p => rw [hl] at h; cases h; exact ⟨p.2, rfl⟩

theorem placeOf_of_high (hpl : s.th.pl ≠ 3) (ha : 2 ^ 56 ≤ w.toNat) : placeOf s w acc = .error cPAGE := by
  simp only [placeOf, State.locate, if_neg hpl, Machine.translate, ge_iff_le, if_pos ha]
  rfl

theorem translateNow_place (hctx : s.ctx s.th.ctx = some c) (va : Nat) :
    (translateNow s s.th.ctx s.th.pl (s.th.featen0.getLsbD 5) va acc).map Prod.fst = placeFrom s acc va [47, 36, 25, 14] 0 c.ptroot := by
  simp only [translateNow, hctx, placeFrom, walk]
  cases walkFrom s va [47, 36, 25, 14] 0 c.ptroot with
  | error f => rfl
  | ok p =>
    simp only [Except.bind, leafPlace]
    split
    · cases s.usable (leafLoc s.hiend.id (s.th.featen0.getLsbD 5) p.1 p.2 va) <;> rfl
    · rfl

/-- Below M and past the cache, an access finds what the walk from the context's root comes to. -/
theorem placeOf_of_uncached (hpl : s.th.pl ≠ 3) (hctx : s.ctx s.th.ctx = some c)
    (hcache : ∀ h, s.th.hall? = some h → tlbFind (s.hall h).tlb s.th.ctx w.toNat = none) (ha : w.toNat < 2 ^ 56) :
    placeOf s w acc = placeFrom s acc w.toNat [47, 36, 25, 14] 0 c.ptroot := by
  rw [← translateNow_place hctx]
  simp only [placeOf, State.locate, if_neg hpl, Machine.translate, ge_iff_le, if_neg (Nat.not_le.2 ha)]
  cases hh : s.th.hall? with
  | none => rfl
  | some h => simp only [hcache h hh]

end Locate

/-- Settles O20: the place of the access is that of a walk from the root, which is followed level by level; in a run of 16 the first entry
stands for the entry of the address. -/
theorem translation : Obligations.Translation := by
  unfold Obligations.Translation
  intro s va acc c hpl hctx hcache a entry base e0 e1 e2 e3 table bad may run alone regular gives maps
  have hgives : ∀ r, placeOf s va acc = r → gives r
    | .error _, h => locate_of_placeOf_error h
    | .ok _, h => locate_of_placeOf_ok h
  have hmaps : ∀ e sh, placeOf s va acc = s.usable (leafLoc s.hiend.id (s.th.featen0.getLsbD 5) e sh a) →
      maps e (base e + a % 2 ^ sh) := by
    intro e sh hplace
    refine ⟨fun hrmt hmask => hgives _ (hplace.trans (usable_leafLoc_masked hrmt hmask)),
      fun hrmt hhiend hhome => hgives _ (hplace.trans (usable_leafLoc_away hrmt hhiend hhome)), fun hlocal => ?_⟩
    have hhere := hplace.trans (usable_leafLoc_here hlocal)
    exact ⟨fun hno => hgives _ (hhere.trans (if_pos hno)),
      fun hkind hslice => hgives _ (hhere.trans (if_neg (not_or.2 ⟨hkind, Bool.not_eq_true _ ▸ hslice⟩)))⟩
  have halone : ∀ at2 sh, alone at2 sh → NoRun s.mem a sh at2 := fun at2 sh h k hk => by
    rw [contOf_eq_false_iff, runSlot_eq]
    exact h k hk
  have hregular : ∀ at2 sh, regular at2 sh → NoRun s.mem a sh at2 ∨ WholeRun s.mem a sh at2 := by
    intro at2 sh h
    refine h.imp (halone at2 sh) fun hwhole => ?_
    simp only [WholeRun, runSlot_eq]
    exact hwhole
  have hwalk (ha : a < 2 ^ 56) : placeOf s va acc = placeFrom s acc a [47, 36, 25, 14] 0 c.ptroot :=
    placeOf_of_uncached hpl hctx hcache ha
  refine ⟨fun ha => hgives _ (placeOf_of_high hpl ha), fun ha hbad => hgives _ ((hwalk ha).trans (placeFrom_of_bad_unit hbad)),
    fun ha hunits => ?_⟩
  have own0 : runEntry s.mem s.fresh a 47 c.ptroot = (e0, 47) := runEntry_own (.inl (by decide))
  have own1 : runEntry s.mem s.fresh a 36 (base e0) = (e1, 36) := runEntry_own (.inl (by decide))
  have stands0 : StandsFor s acc a 0 47 (runEntry s.mem s.fresh a 47 c.ptroot) e0 := own0 ▸ standsFor_self
  have stands1 : StandsFor s acc a 1 36 (runEntry s.mem s.fresh a 36 (base e0)) e1 := own1 ▸ standsFor_self
  have walk1 (h0 : table e0) : placeOf s va acc = placeFrom s acc a [36, 25, 14] 1 (base e0) :=
    (hwalk ha).trans (placeFrom_of_isTable hunits own0 (by decide) h0)
  have walk2 (h0 : table e0) (h1 : table e1) : placeOf s va acc = placeFrom s acc a [25, 14] 2 (base e1) :=
    (walk1 h0).trans (placeFrom_of_isTable hunits own1 (by decide) h1)
  refine ⟨fun hv => hgives _ ((hwalk ha).trans (placeFrom_of_invalid hunits stands0 hv)),
    fun hv ht => hgives _ ((hwalk ha).trans (placeFrom_of_not_isTable hunits stands0 hv (fun _ => by decide) ht)),
    fun h0 hv => hgives _ ((walk1 h0).trans (placeFrom_of_invalid hunits stands1 hv)),
    fun h0 hv ht => hgives _ ((walk1 h0).trans (placeFrom_of_not_isTable hunits stands1 hv (fun _ => by decide) ht)), ?level2, ?level3⟩
  case level2 =>
    intro h0 h1 hrun
    have stands2 : StandsFor s acc a 2 25 (runEntry s.mem s.fresh a 25 (base e1)) e2 :=
      standsFor_runEntry (by decide) (by decide) (fun _ => by decide) (hregular _ _ hrun)
    have malformed2 (hleaf : e2.getLsbD 1 = true) : badEntry 2 e2 = true ↔ bad e2 ∨ e2.extractLsb' 14 11 ≠ 0 :=
      badEntry_level2_iff hleaf
    refine ⟨fun hv => hgives _ ((walk2 h0 h1).trans (placeFrom_of_invalid hunits stands2 hv)), fun hv hnoLeaf ht => ?_,
      fun hv hleaf hno => ?_, fun hv hgood hlow hmay => ?_⟩
    · exact hgives _ ((walk2 h0 h1).trans
        (placeFrom_of_not_isTable hunits stands2 hv (fun hleaf => absurd (hnoLeaf.symm.trans hleaf) Bool.false_ne_true) ht))
    · rw [← or_assoc, ← malformed2 hleaf] at hno
      exact hgives _ ((walk2 h0 h1).trans (placeFrom_of_bad_or_denied hunits stands2 hv (.inl hleaf) hno))
    · have hleaf := leaf_of_not_badLeaf hgood
      have hwell : ¬badEntry 2 e2 = true := mt (malformed2 hleaf).1 (not_or.2 ⟨hgood, fun hset => hset hlow⟩)
      exact hmaps e2 25 ((walk2 h0 h1).trans (placeFrom_of_good_leaf hunits stands2 hv hwell hleaf hmay))
  case level3 =>
    intro h0 h1 hno2 h2 hrun
    have own2 : runEntry s.mem s.fresh a 25 (base e1) = (e2, 25) := runEntry_own (.inr (halone _ _ hno2))
    have walk3 : placeOf s va acc = placeFrom s acc a [14] 3 (base e2) :=
      (walk2 h0 h1).trans (placeFrom_of_isTable hunits own2 (by decide) h2)
    have stands3 : StandsFor s acc a 3 14 (runEntry s.mem s.fresh a 14 (base e2)) e3 :=
      standsFor_runEntry (by decide) (by decide) (by decide) (hregular _ _ hrun)
    refine ⟨fun hv => hgives _ (walk3.trans (placeFrom_of_invalid hunits stands3 hv)), fun hv hno => ?_, fun hv hgood hmay => ?_⟩
    · exact hgives _ (walk3.trans (placeFrom_of_bad_or_denied hunits stands3 hv (.inr rfl) (hno.imp_left badEntry_level3_iff.2)))
    · exact hmaps e3 14 (walk3.trans
        (placeFrom_of_good_leaf hunits stands3 hv (mt badEntry_level3_iff.1 hgood) (leaf_of_not_badLeaf hgood) hmay))

end Sys2Proof.Proofs
end
